-- ==== Sys2Proof/Word.lean ====
section
/-! DEFINITION. The byte of the host link and of the layout PROM, the only words the manual treats as bits. -/

namespace Sys2Proof

/-- A byte on the host link (R192) or of the layout PROM (R204). -/
abbrev Byte := BitVec 8

/-- The SYNC byte (R192). -/
def syncByte : Byte := 0x16

/-- The idle byte the sender keeps on the line between frames (R192). -/
def idleByte : Byte := 0xFF

/-- The byte that carries `n`, modulo 256. -/
def byteOf (n : Nat) : Byte := BitVec.ofNat 8 n

end Sys2Proof
end

