-- ==== Sys2Proof/Config.lean ====
section
/-! DEFINITION. What the part fixes: the sizes the manual names, and the free values, which have no body. -/

namespace Sys2Proof.Config

/-- Free value: which of several requesters, or of several offers made together, is taken first where the
manual gives no order (R64, R80). Applied to the counter `State.free`. Log entry 5. -/
opaque freeChoice : Nat → Nat

/-- Free value: the bytes of an item whose layout TABLE 11-2 does not state, given which item it is and the
encoded parts it is made of. Log entry 13. -/
opaque layout : Nat → List (List Byte) → List Byte

/-- R1: the highest price in units. -/
def maxPrice : Nat := 639999

/-- R3: the highest share size. -/
def maxSize : Nat := 9999999

/-- 0.4.3: the highest day volume. -/
def maxVolume : Nat := 99999999

/-- 0.4.7: the value a counter saturates at. -/
def maxCounter : Nat := 4294967295

/-- 0.4.4: seconds in a day. -/
def daySeconds : Nat := 86400

/-- R196: places of the request queue. -/
def requestPlaces : Nat := 16

/-- R197, R198: places of the reply queue. -/
def replyPlaces : Nat := 4

/-- R117: records a print queue may hold. -/
def printPlaces : Nat := 512

/-- R62: characters in a FIFO above which a ribbon does not request. -/
def fifoRequestLimit : Nat := 22

/-- R62: a requesting ribbon with fewer FIFO characters than this is URGENT. -/
def fifoUrgentLimit : Nat := 16

/-- R194: the highest length byte of a valid frame. -/
def maxBody : Nat := 248

end Sys2Proof.Config
end

