-- ==== Sys2Proof/Syntax.lean ====
section
/-! DEFINITION. The commands of the block: one constructor of `Instr` per row of spec/opcode_table.json, and
the types of their operands. -/

namespace Sys2Proof

/-- A ribbon output (0.1): A or B. -/
inductive RibbonId where
  | a
  | b
deriving DecidableEq, Repr

/-- A board line, 0 to 7. -/
abbrev BoardLineNo := Fin 8

/-- A slot of a board line, 0 to 63. -/
abbrev SlotNo := Fin 64

/-- A terminal line, 0 to 3. -/
abbrev TermLineNo := Fin 4

/-- A terminal's address on its line, 0 to 15. -/
abbrev TermAddr := Fin 16

/-- A referral window, 0 to 3. -/
abbrev WindowNo := Fin 4

/-- The kinds of dealer request (TABLE 9-2). -/
inductive DealerKind where
  | page
  | resync
  | watchAdd
  | watchDrop
  | quoteAsk
  | alertSet
  | alertClear
deriving DecidableEq, Repr

/-- A condition of an ALERT-SET as the terminal sends it: its enable and its value (R171). -/
structure DealerCondition where
  enabled : Bool
  value   : Nat
deriving DecidableEq, Repr

/-- A dealer request as a terminal's answer carries it. `kind` is none when the request is of no kind of
TABLE 9-2, and an item is none when the message lacks it (R163, step 1). -/
structure DealerRequest where
  kind     : Option DealerKind
  page     : Option Nat
  symbol   : Option (List Char)
  position : Option Nat
  slot     : Option Nat
  above    : Option DealerCondition
  below    : Option DealerCondition
  minSize  : Option DealerCondition
deriving DecidableEq, Repr

/-- A message received on a terminal line during a slot (R145): the address it names, whether its check holds,
ACK or NAK, and the dealer request it may carry. -/
structure TerminalMessage where
  address    : Nat
  checkHolds : Bool
  ack        : Bool
  request    : Option DealerRequest
deriving DecidableEq, Repr

/-- The message carries a dealer request of this kind. -/
def TerminalMessage.carries (kind : DealerKind) (m : TerminalMessage) : Bool :=
  match m.request with
  | some q => decide (q.kind = some kind)
  | none => false

/-- A message received on a board line during a frame (6.4, R103): the slot of the item in whose answer window
it came (none outside every window), the module address it names, and whether its check holds. -/
structure ModuleAnswer where
  window     : Option Nat
  address    : Nat
  checkHolds : Bool
deriving DecidableEq, Repr

/-- What the two-wire port gave for one record (R204): no acknowledgement, or the eight bytes read. -/
inductive PromRead where
  | silent
  | record (bytes : List Byte)
deriving DecidableEq, Repr

/-- The commands. A host request (TRADE, BIND, ASK_CELL, …) carries no operand here: it is the service of the
request at the head of the request queue (R197), and its operands are that request's body bytes (TABLE 11-3).
A dealer request (PAGE, RESYNC, …) is carried by a terminal's answer (R148): its command has that answer as operand. -/
inductive Instr where
  | resetAssert
  | resetRelease
  | layoutRecordRead (read : PromRead)
  | receiveFrame (bytes : List Byte)
  | frameTimeout
  | transmitReply
  | transmitNotice
  | frameSent
  | list
  | delist
  | trade
  | quote
  | closeSet
  | halt
  | resume
  | rollWalkVisit
  | sessionSet
  | timeSet
  | schedSet
  | secondPulse
  | referenceWatchExpiry
  | internalSecond
  | formatSet
  | boardJobCompletion
  | ribbonJobCompletion
  | terminalJobCompletion
  | bind
  | unbind
  | hold
  | release
  | boardSet
  | flashExpiry (line : BoardLineNo) (slot : SlotNo)
  | lineSet
  | lineWake
  | frameEnd (line : BoardLineNo) (answers : List ModuleAnswer)
  | frameItemSend (line : BoardLineNo) (taken : Bool)
  | darkExpiry (line : BoardLineNo)
  | ribbonSet
  | characterPeriod (ribbon : RibbonId)
  | termAdmit
  | termRetire
  | tlineSet
  | roundStart (line : TermLineNo)
  | slotStart (line : TermLineNo)
  | terminalAnswer (line : TermLineNo) (message : TerminalMessage)
  | slotTimeLimit (line : TermLineNo)
  | attention (line : TermLineNo)
  | quietIntervalExpiry (line : TermLineNo)
  | terminalLapse (line : TermLineNo) (address : TermAddr)
  | page (line : TermLineNo) (message : TerminalMessage)
  | resync (line : TermLineNo) (message : TerminalMessage)
  | watchAdd (line : TermLineNo) (message : TerminalMessage)
  | watchDrop (line : TermLineNo) (message : TerminalMessage)
  | quoteAsk (line : TermLineNo) (message : TerminalMessage)
  | alertSet (line : TermLineNo) (message : TerminalMessage)
  | alertClear (line : TermLineNo) (message : TerminalMessage)
  | windowSet
  | referAnswer
  | referralExpiry (window : WindowNo)
  | askStatus
  | askInstrument
  | askCell
  | askTerminal
  | askRibbon
  | askCounters
  | clearCounters
  | restart
  | firstSyncByte
  | secondSyncMissing (byte : Byte)
  | unknownRequestKind
deriving DecidableEq, Repr

end Sys2Proof
end

