-- ==== Sys2Proof/WellFormed.lean ====
section
/-! DEFINITION. Which command terms an event of the part can spell. Line, slot, address and window numbers
are bounded by their types; the checks here bound what the types leave open. -/

namespace Sys2Proof

/-- An answer of a module line names an address 0 to 78 (6.1) and comes in the window of a slot 0 to 63 or in none. -/
def ModuleAnswer.wellFormed (a : ModuleAnswer) : Bool :=
  decide (a.address ≤ 78) && match a.window with
    | none => true
    | some w => decide (w < 64)

/-- A terminal's message names an address 0 to 15. -/
def TerminalMessage.wellFormed (m : TerminalMessage) : Bool :=
  decide (m.address < 16)

/-- A record read has eight bytes (TABLE 11-6). -/
def PromRead.wellFormed : PromRead → Bool
  | .silent => true
  | .record bytes => decide (bytes.length = 8)

/-- The well-formed commands. A byte that follows the first SYNC and is not 0x16 is what SECOND_SYNC_MISSING
carries (R193); a receipt carries 1 to 255 bytes, two SYNC bytes, three header bytes, a body of at most 248
and two check bytes being the longest frame (R192, R194). A dealer request's command has an answer that carries a
request of its own kind (TABLE 9-2). -/
def Instr.wellFormed : Instr → Bool
  | .layoutRecordRead r => r.wellFormed
  | .receiveFrame bytes => decide (1 ≤ bytes.length) && decide (bytes.length ≤ 255)
  | .frameEnd _ answers => answers.all ModuleAnswer.wellFormed
  | .terminalAnswer _ m => m.wellFormed
  | .secondSyncMissing b => decide (b ≠ syncByte)
  | .resetAssert | .resetRelease | .frameTimeout | .transmitReply | .transmitNotice | .frameSent => true
  | .list | .delist | .trade | .quote | .closeSet | .halt | .resume | .rollWalkVisit => true
  | .sessionSet | .timeSet | .schedSet | .secondPulse | .referenceWatchExpiry | .internalSecond => true
  | .formatSet | .boardJobCompletion | .ribbonJobCompletion | .terminalJobCompletion => true
  | .bind | .unbind | .hold | .release | .boardSet | .flashExpiry _ _ => true
  | .lineSet | .lineWake | .frameItemSend _ _ | .darkExpiry _ => true
  | .ribbonSet | .characterPeriod _ => true
  | .termAdmit | .termRetire | .tlineSet | .roundStart _ | .slotStart _ | .slotTimeLimit _ => true
  | .attention _ | .quietIntervalExpiry _ | .terminalLapse _ _ => true
  | .page _ m => m.wellFormed && m.carries .page
  | .resync _ m => m.wellFormed && m.carries .resync
  | .watchAdd _ m => m.wellFormed && m.carries .watchAdd
  | .watchDrop _ m => m.wellFormed && m.carries .watchDrop
  | .quoteAsk _ m => m.wellFormed && m.carries .quoteAsk
  | .alertSet _ m => m.wellFormed && m.carries .alertSet
  | .alertClear _ m => m.wellFormed && m.carries .alertClear
  | .windowSet | .referAnswer | .referralExpiry _ => true
  | .askStatus | .askInstrument | .askCell | .askTerminal | .askRibbon => true
  | .askCounters | .clearCounters | .restart | .firstSyncByte | .unknownRequestKind => true

end Sys2Proof
end

