-- ==== Sys2Proof/Machine/Table.lean ====
section
/-! DEFINITION. Sparse tables: records by number in one canonical form. A table's default is the record at its
cold-start value, which an unlisted number holds. -/

namespace Sys2Proof.Machine

/-- Records by number: numbers strictly rising, and no record equal to the default. -/
abbrev Table (α : Type) := List (Nat × α)

/-- The record at number `i`; an unlisted number holds the default `d`. -/
def Table.get {α : Type} (d : α) : Table α → Nat → α
  | [], _ => d
  | (k, v) :: t, i => if i = k then v else Table.get d t i

/-- The table with number `i` unlisted. -/
def Table.erase {α : Type} (t : Table α) (i : Nat) : Table α := t.filter (fun e => decide (e.1 ≠ i))

/-- The table with `v` listed at number `i`, in rising order. -/
def Table.put {α : Type} : Table α → Nat → α → Table α
  | [], i, v => [(i, v)]
  | (k, w) :: t, i, v =>
    if i < k then (i, v) :: (k, w) :: t
    else if i = k then (i, v) :: t
    else (k, w) :: Table.put t i v

/-- The table with `v` at number `i`, in canonical form: writing the default unlists the number. -/
def Table.set {α : Type} [DecidableEq α] (d : α) (t : Table α) (i : Nat) (v : α) : Table α :=
  if v = d then Table.erase t i else Table.put t i v

/-- The numbers of the first entry and on rise strictly from above `lo`. -/
def Table.risesFrom {α : Type} : Option Nat → Table α → Bool
  | _, [] => true
  | none, (k, _) :: t => Table.risesFrom (some k) t
  | some lo, (k, _) :: t => decide (lo < k) && Table.risesFrom (some k) t

/-- The canonical form holds. -/
def Table.wf {α : Type} [DecidableEq α] (d : α) (t : Table α) : Bool :=
  Table.risesFrom none t && t.all (fun e => decide (e.2 ≠ d))

/-- The numbers a table lists, in rising order. -/
def Table.keys {α : Type} (t : Table α) : List Nat := t.map Prod.fst

end Sys2Proof.Machine
end

