-- ==== Sys2Proof/Machine/State.lean ====
section
/-! DEFINITION. The state of the 3160 as plain data, and its value right after reset. Each structure's
cold-start value stands beside it as `….cold`. -/

namespace Sys2Proof.Machine

/-- Symbol and print texts: ordinary characters (TABLE 11-2, row character). -/
abbrev Text := List Char

/-! ### Instrument Table (chapter 2) -/

/-- R23. -/
inductive EntryStatus where
  | free
  | listed
  | halted
deriving DecidableEq, Repr

/-- R11. -/
inductive Tick where
  | none
  | up
  | down
  | level
deriving DecidableEq, Repr

/-- One side of a quote (TABLE 2-1). -/
structure Side where
  price : Nat
  size  : Nat
deriving DecidableEq, Repr

/-- An instrument entry (TABLE 2-1). -/
structure Entry where
  status       : EntryStatus
  symbol       : Text
  denom        : Nat
  lot          : Nat
  cls          : Nat
  prevClose    : Option Nat
  last         : Option Nat
  opening      : Option Nat
  high         : Option Nat
  low          : Option Nat
  dayVolume    : Nat
  lastSize     : Nat
  tick         : Tick
  bid          : Option Side
  ask          : Option Side
  firstPending : Bool
  dayStamp     : Nat
  watchers     : Nat
  cells        : List Nat
deriving DecidableEq, Repr

/-- R24. Symbol, D, L and class of an entry never listed: DESIGN CHOICE, log entry 4. -/
def Entry.cold : Entry :=
  { status := .free, symbol := [], denom := 0, lot := 0, cls := 0, prevClose := none, last := none,
    opening := none, high := none, low := none, dayVolume := 0, lastSize := 0, tick := .none,
    bid := none, ask := none, firstPending := false, dayStamp := 0, watchers := 0, cells := [] }

/-! ### Session Clock (chapter 3) -/

/-- R49. -/
inductive ClockState where
  | unset
  | running
  | freeRunning
deriving DecidableEq, Repr

/-- R46, R48: time of day, calendar, clock state, reference indication and reference watch. -/
structure Clock where
  second       : Nat
  weekday      : Nat
  day          : Nat
  month        : Nat
  year         : Nat
  state        : ClockState
  present      : Bool
  watchExpired : Bool
deriving DecidableEq, Repr

/-- R46. -/
def Clock.cold : Clock :=
  { second := 0, weekday := 0, day := 1, month := 1, year := 0, state := .unset, present := false,
    watchExpired := true }

/-- R55. -/
inductive SessionState where
  | closed
  | preOpen
  | opened
  | haltedAll
  | after
deriving DecidableEq, Repr

/-- The session state and the transition record (R55, R57). -/
structure Session where
  state   : SessionState
  left    : SessionState
  entered : SessionState
  second  : Nat
deriving DecidableEq, Repr

/-- R55, R57. -/
def Session.cold : Session :=
  { state := .closed, left := .closed, entered := .closed, second := 0 }

/-- R54. -/
inductive SkipReason where
  | walk
  | illegal
deriving DecidableEq, Repr

/-- R54: the skip record of a schedule entry. -/
structure SkipRecord where
  second : Nat
  found  : SessionState
  reason : SkipReason
deriving DecidableEq, Repr

/-- The day selector (TABLE 3-2): a set of weekdays, one bit per weekday, or a day of the month. -/
inductive DaySelector where
  | weekdays (set : Byte)
  | date (day : Nat)
deriving DecidableEq, Repr

/-- A schedule entry (TABLE 3-2). -/
structure SchedEntry where
  enabled     : Bool
  hour        : Nat
  hourMatch   : Bool
  minute      : Nat
  minuteMatch : Bool
  selector    : DaySelector
  dayMatch    : Bool
  target      : SessionState
  skip        : Option SkipRecord
deriving DecidableEq, Repr

/-- R52. -/
def SchedEntry.cold : SchedEntry :=
  { enabled := false, hour := 0, hourMatch := false, minute := 0, minuteMatch := false,
    selector := .weekdays 0, dayMatch := false, target := .closed, skip := none }

/-! ### Board characters and board texts (0.4.6) -/

/-- A character a board position shows. A fraction glyph is named by its sixteenths, 1 to 15. -/
inductive BoardChar where
  | plain (c : Char)
  | upArrow
  | downArrow
  | glyph (sixteenths : Nat)
deriving DecidableEq, Repr

/-- The HUE of a position (0.4.6). -/
inductive Hue where
  | white
  | green
  | red
deriving DecidableEq, Repr

/-- A board position: a character and its two attributes. -/
structure BoardPos where
  char  : BoardChar
  hue   : Hue
  flash : Bool
deriving DecidableEq, Repr

/-- Board text: characters and attributes together (0.4.6). -/
abbrev BoardText := List BoardPos

/-! ### Cell Table (chapter 5) -/

/-- The eight fields a cell may show (TABLE 5-1). -/
inductive Field where
  | symbol
  | last
  | change
  | volume
  | tick
  | high
  | low
  | close
deriving DecidableEq, Repr

/-- A hold (TABLE 5-1). -/
structure Hold where
  text  : List BoardChar
  hue   : Hue
  flash : Bool
deriving DecidableEq, Repr

/-- A cell record (TABLE 5-1). -/
structure Cell where
  binding    : Option Nat
  field      : Field
  width      : Nat
  hold       : Option Hold
  flashCount : Nat
  tradeMark  : Bool
  prevChars  : Option (List BoardChar)
  needsFull  : Bool
deriving DecidableEq, Repr

/-- R74. -/
def Cell.cold : Cell :=
  { binding := none, field := .symbol, width := 1, hold := none, flashCount := 0, tradeMark := false,
    prevChars := none, needsFull := false }

/-! ### Board Line Controller (chapter 6) -/

/-- TABLE 6-2. -/
inductive LineState where
  | off
  | lit
  | dark
deriving DecidableEq, Repr

/-- The command of one item of a frame (R99, R100). -/
inductive ItemCommand where
  | write (text : BoardText)
  | rewrite (text : BoardText)
  | blank
  | sense
deriving DecidableEq, Repr

/-- One item of a frame's send list: the slot and its command. -/
structure FrameItem where
  slot    : Nat
  command : ItemCommand
deriving DecidableEq, Repr

/-- A frame in flight (R100): the send list and the O and frame rate it began with, how many items have been
sent, the slots its answers still apply to (R95), and whether the line's slots are settled at its end (R97). -/
structure Frame where
  items    : List FrameItem
  offset   : Nat
  rate     : Nat
  sent     : Nat
  applies  : List Nat
  settles  : Bool
deriving DecidableEq, Repr

/-- A board line (TABLE 6-1, R96, R101, R107). -/
structure BoardLine where
  size      : Nat
  offset    : Nat
  enabled   : List Nat
  rate      : Nat
  darkDelay : Nat
  state     : LineState
  darkTimer : Option Nat
  scrub     : Option Nat
  frame     : Option Frame
deriving DecidableEq, Repr

/-- R93, R101, R107. -/
def BoardLine.cold : BoardLine :=
  { size := 64, offset := 0, enabled := List.range 64, rate := 10, darkDelay := 0, state := .off,
    darkTimer := none, scrub := some 0, frame := none }

/-- TABLE 6-3. -/
inductive Presence where
  | unknown
  | present
  | absent
deriving DecidableEq, Repr

/-- Slot state (TABLE 6-3); `shown` none is UNKNOWN. -/
structure SlotState where
  staging  : Option BoardText
  shown    : Option BoardText
  presence : Presence
  changed  : Bool
deriving DecidableEq, Repr

/-- R93, R105. -/
def SlotState.cold : SlotState :=
  { staging := none, shown := none, presence := .unknown, changed := false }

/-- What a display module shows (R99): not known, spaces, or the positions it was sent. The module stands
outside the part; log entry 18. -/
inductive Display where
  | unknown
  | spaces
  | positions (text : BoardText)
deriving DecidableEq, Repr

/-! ### Ribbon Controller (chapter 7) -/

/-- TABLE 7-1. -/
inductive RibbonState where
  | off
  | stopped
  | running
deriving DecidableEq, Repr

/-- TABLE 7-1. -/
inductive Mode where
  | normal
  | trim
  | digits
  | sample
deriving DecidableEq, Repr

/-- R15, R120. -/
inductive Banner where
  | marketOpen
  | tradingHalted
  | tradingResumes
  | marketClosed
deriving DecidableEq, Repr

/-- The facts of a TRADE record (R40, TABLE 7-3). -/
structure TradePrint where
  symbol : Text
  index  : Nat
  price  : Nat
  size   : Nat
  lot    : Nat
  denom  : Nat
  first  : Bool
deriving DecidableEq, Repr

/-- What a print record is of, by kind (TABLE 7-3). -/
inductive PrintBody where
  | trade (t : TradePrint)
  | halt (symbol : Text) (index : Nat)
  | resume (symbol : Text) (index : Nat)
  | banner (b : Banner)
deriving DecidableEq, Repr

/-- A print record (TABLE 7-3). -/
structure PrintRecord where
  body       : PrintBody
  arrival    : Nat
  fullLength : Nat
deriving DecidableEq, Repr

/-- A ribbon (TABLE 7-1). `anchors` lists the indices whose anchor bit is set, in rising order; `period` is the
rate of the character period in progress; `output` is the character on the ribbon output, none when idle. -/
structure Ribbon where
  state      : RibbonState
  mask       : Byte
  rate       : Nat
  up1        : Nat
  up2        : Nat
  up3        : Nat
  trim       : Nat
  mode       : Mode
  dwell      : Nat
  queue      : List PrintRecord
  fifo       : List Char
  anchors    : List Nat
  preceding  : Option Nat
  lateFigure : Option Nat
  lateAge    : Nat
  period     : Option Nat
  output     : Option Char
deriving DecidableEq, Repr

/-- R112. -/
def Ribbon.cold : Ribbon :=
  { state := .stopped, mask := 0xFF, rate := 12, up1 := 30, up2 := 90, up3 := 240, trim := 10,
    mode := .normal, dwell := 0, queue := [], fifo := [], anchors := [], preceding := none,
    lateFigure := none, lateAge := 120, period := none, output := none }

/-! ### Terminal Line Controller and Watch and Alert Unit (chapters 8 and 9) -/

/-- TABLE 8-1. -/
inductive PollMode where
  | continuous
  | quiet
deriving DecidableEq, Repr

/-- TABLE 9-3. -/
inductive ReplyCode where
  | accepted
  | unknown
  | full
  | duplicate
  | denied
  | noAnswer
  | wait
deriving DecidableEq, Repr

/-- The conditions of an alert as stored (R171): each absent when its enable is off. -/
structure Conditions where
  above   : Option Nat
  below   : Option Nat
  minSize : Option Nat
deriving DecidableEq, Repr

/-- The details of an ACCEPTED result in a REPLY block (R173). -/
inductive ReplyDetail where
  | none
  | position (p : Nat)
  | conditions (c : Conditions)
  | row (text : Text)
deriving DecidableEq, Repr

/-- A REPLY block (R173). -/
structure ReplyBlock where
  kind   : Option DealerKind
  symbol : Option Text
  slot   : Option Nat
  page   : Option Nat
  code   : ReplyCode
  detail : ReplyDetail
deriving DecidableEq, Repr

/-- A BELL block (R176). -/
structure BellBlock where
  slot       : Nat
  symbol     : Text
  price      : Text
  size       : Text
  hours      : Nat
  minutes    : Nat
  seconds    : Nat
  conditions : Conditions
deriving DecidableEq, Repr

/-- A terminal block (TABLE 8-2, R152, R162). -/
inductive Block where
  | reply (r : ReplyBlock)
  | bell (b : BellBlock)
  | page (page : Nat) (rows : List Text) (session : SessionState)
  | status (session : SessionState) (second : Nat)
  | idle
  | rows (rows : List (Nat × Text))
deriving DecidableEq, Repr

/-- What a slot sends (R144). -/
inductive Transmission where
  | output (ready : Bool) (block : Block)
  | poll (ready : Bool)
deriving DecidableEq, Repr

/-- A slot in progress on a terminal line (R144): the address, the fixed transmission, the slot time limit it
began with, and whether the terminal was retired during it (R141). -/
structure TermSlot where
  address : Nat
  tx      : Transmission
  limit   : Nat
  ignored : Bool
deriving DecidableEq, Repr

/-- A round in flight (R142): the last slot taken, none before the first, and whether it is wide. -/
structure Round where
  last : Option Nat
  wide : Bool
deriving DecidableEq, Repr

/-- A terminal line (TABLE 8-1). -/
structure TermLine where
  poll          : PollMode
  quietInterval : Nat
  slotLimit     : Nat
  retryLimit    : Nat
  lapseTime     : Nat
  round         : Option Round
  roundCount    : Nat
  quietCount    : Nat
  attention     : Bool
  compose       : Nat
  slot          : Option TermSlot
deriving DecidableEq, Repr

/-- R137. -/
def TermLine.cold : TermLine :=
  { poll := .quiet, quietInterval := 5, slotLimit := 50, retryLimit := 4, lapseTime := 0, round := none,
    roundCount := 0, quietCount := 0, attention := false, compose := 15, slot := none }

/-- R139. -/
inductive TermState where
  | vacant
  | joining
  | active
  | lapsed
  | silent
deriving DecidableEq, Repr

/-- R149. -/
inductive RecordState where
  | free
  | taken
  | referred
  | answered
  | sent
deriving DecidableEq, Repr

/-- The result of a dealer request as the record keeps it (R163, R168, R170, R171). -/
structure DealerResult where
  code       : ReplyCode
  position   : Option Nat
  index      : Option Nat
  conditions : Option Conditions
deriving DecidableEq, Repr

/-- The request record of a terminal (R149). -/
structure RequestRecord where
  state   : RecordState
  request : Option DealerRequest
  result  : Option DealerResult
deriving DecidableEq, Repr

/-- A free record. -/
def RequestRecord.cold : RequestRecord :=
  { state := .free, request := none, result := none }

/-- R174. -/
inductive AlertState where
  | empty
  | armed
  | fired
  | spent
deriving DecidableEq, Repr

/-- The trade that fired an alert (R175). -/
structure FiredTrade where
  price  : Nat
  size   : Nat
  second : Nat
deriving DecidableEq, Repr

/-- An alert entry (TABLE 9-4). -/
structure Alert where
  state      : AlertState
  instrument : Option Nat
  conditions : Conditions
  fired      : Option FiredTrade
  marked     : Bool
deriving DecidableEq, Repr

/-- R174: an EMPTY alert. -/
def Alert.cold : Alert :=
  { state := .empty, instrument := none, conditions := { above := none, below := none, minSize := none },
    fired := none, marked := false }

/-- A terminal position (TABLES 8-2 and 9-1). `rows` is the pending-row set in rising order. -/
structure Terminal where
  state      : TermState
  exempt     : Bool
  retry      : Nat
  lapse      : Nat
  outBlock   : Option Block
  record     : RequestRecord
  fullPage   : Bool
  statusOwed : Bool
  idleOwed   : Bool
  readySent  : Bool
  changed    : Bool
  watchList  : List Nat
  page       : Nat
  rows       : List Nat
  alerts     : Table Alert
deriving DecidableEq, Repr

/-- R139, R158, R174. -/
def Terminal.cold : Terminal :=
  { state := .vacant, exempt := false, retry := 0, lapse := 0, outBlock := none,
    record := RequestRecord.cold, fullPage := false, statusOwed := false, idleOwed := false,
    readySent := true, changed := false, watchList := [], page := 0, rows := [], alerts := [] }

/-! ### Referral Unit (chapter 10) -/

/-- TABLE 9-2, referral kinds. -/
inductive ReferralKind where
  | watch
  | quote
  | alert
deriving DecidableEq, Repr

/-- R188. -/
inductive ReferralOutcome where
  | none
  | granted
  | denied
  | expired
  | cancelled
deriving DecidableEq, Repr

/-- A HELD slot (TABLE 10-2). -/
structure HeldSlot where
  line    : Nat
  addr    : Nat
  kind    : ReferralKind
  index   : Nat
  start   : Nat
  limit   : Nat
  elapsed : Nat
deriving DecidableEq, Repr

/-- A referral window (TABLE 10-1); `slot` none is EMPTY. `kinds` has one bit per member, WATCH lowest. -/
structure Window where
  enabled : Bool
  k       : Nat
  base    : Nat
  kinds   : Byte
  limit   : Nat
  slot    : Option HeldSlot
  outcome : ReferralOutcome
deriving DecidableEq, Repr

/-- R190. -/
def Window.cold : Window :=
  { enabled := false, k := 0, base := 0, kinds := 0, limit := 30, slot := none, outcome := .none }

/-! ### Format Unit (chapter 4) -/

/-- What became of the terminal of a TERMINAL job since its start (R69). -/
inductive JobFate where
  | kept
  | silenced
  | retired
deriving DecidableEq, Repr

/-- A job in flight: target, content taken, text formed and what the completion applies (R66 to R69, R127). -/
inductive Job where
  /-- The cell's text, offered at completion; `full` for a full job (R82). -/
  | board (line : Nat) (slot : Nat) (text : BoardText) (full : Bool)
  /-- The LATE figure to write, its text and the print's text, the index of an anchor print, the preceding
  trade instrument after it, and whether the ribbon has entered OFF during the job (R127, R129). -/
  | ribbon (ribbon : RibbonId) (late : Option Nat) (lateText : Text) (text : Text) (anchor : Option Nat)
      (preceding : Option Nat) (offSince : Bool)
  /-- The block composed for a terminal (R69, R152). -/
  | terminal (line : Nat) (addr : Nat) (block : Block) (fate : JobFate)
deriving DecidableEq, Repr

/-- The Format Unit (TABLE 4-1). Requesters are named by their position in TABLE 4-2, 0 to 13. -/
structure FormatUnit where
  job       : Option Job
  pointer   : Nat
  holder    : Option Nat
  runCount  : Nat
  runLength : Nat
deriving DecidableEq, Repr

/-- R72. -/
def FormatUnit.cold : FormatUnit :=
  { job := none, pointer := 13, holder := none, runCount := 0, runLength := 4 }

/-! ### Link Interface and Layout Loader (chapter 11) -/

/-- A host link frame without SYNC and check: kind, tag and body (R192). -/
structure LinkFrame where
  kind : Byte
  tag  : Byte
  body : List Byte
deriving DecidableEq, Repr

/-- The receive frame assembler (R193): HUNT, SYNC_SEEN, HEADER (awaiting the length, the kind or the tag), BODY and
CHECK (awaiting its high or its low byte), with the bytes taken so far. -/
inductive Asm where
  | hunt
  | syncSeen
  | headerLength
  | headerKind (length : Byte)
  | headerTag (length kind : Byte)
  | body (length kind tag : Byte) (taken : List Byte)
  | checkHigh (length kind tag : Byte) (body : List Byte)
  | checkLow (length kind tag : Byte) (body : List Byte) (high : Byte)
deriving DecidableEq, Repr

/-- A notice item: a kind and its object (TABLE 11-4). -/
inductive NoticeItem where
  | boardModule (line : Nat) (slot : Nat)
  | terminal (line : Nat) (addr : Nat)
  | referral (window : Nat)
  | ribbon (ribbon : RibbonId)
  | session
  | scheduleSkip (entry : Nat)
  | clock
  | layout
deriving DecidableEq, Repr

/-- The Link Interface (11.1 to 11.3). -/
structure Link where
  asm           : Asm
  requests      : List LinkFrame
  inService     : Option LinkFrame
  replies       : List LinkFrame
  notices       : List NoticeItem
  noticeSeq     : Nat
  tx            : Option LinkFrame
  noticeMayLead : Bool
deriving DecidableEq, Repr

/-- R193, R198, R200, R201, R207. -/
def Link.cold : Link :=
  { asm := .hunt, requests := [], inService := none, replies := [], notices := [], noticeSeq := 0,
    tx := none, noticeMayLead := false }

/-- R204. -/
inductive LoadResult where
  | inProgress
  | loaded
  | empty
  | bad
deriving DecidableEq, Repr

/-- R204. -/
inductive LoadCause where
  | check
  | content
  | noEnd
  | promSilent
deriving DecidableEq, Repr

/-- The Layout Loader (11.6). `lines` and `cells` are what the taken records named, in the order of their last
record (R74, R93). -/
structure Loader where
  pos       : Nat
  result    : LoadResult
  cause     : Option LoadCause
  failing   : Option Nat
  lineCount : Nat
  slotCount : Nat
  lines     : List Nat
  cells     : List Nat
deriving DecidableEq, Repr

/-- R204. -/
def Loader.cold : Loader :=
  { pos := 0, result := .inProgress, cause := none, failing := none, lineCount := 0, slotCount := 0,
    lines := [], cells := [] }

/-! ### The whole state -/

/-- The state of the block. `pending` is the queue of commands waiting, first in first out; `free` counts the
free values used (log entry 5). Tables are by entry index, schedule entry, cell number (64 × line + slot), line,
slot (numbered as its cell), terminal (16 × line + address), window, counter index (TABLE 11-5), and, for
`displays`, 79 × line + module address. -/
structure State where
  pending       : List Instr
  free          : Nat
  resetAsserted : Bool
  link          : Link
  loader        : Loader
  entries       : Table Entry
  directory     : List (Text × Nat)
  dayNumber     : Nat
  walkActive    : Bool
  walkPos       : Nat
  clock         : Clock
  sched         : Table SchedEntry
  session       : Session
  fu            : FormatUnit
  cells         : Table Cell
  flashPeriod   : Nat
  queues        : Table (List Nat)
  lines         : Table BoardLine
  slots         : Table SlotState
  displays      : Table Display
  ribbonA       : Ribbon
  ribbonB       : Ribbon
  tlines        : Table TermLine
  terms         : Table Terminal
  windows       : Table Window
  counters      : Table Nat
deriving DecidableEq, Repr

/-- No command of the 3160 stops the machine: the spec names no fault that does. Log entry 30. -/
inductive Fault where
deriving DecidableEq, Repr

/-- The reasons a command has no meaning in the model. -/
inductive Refusal where
  /-- Raised by no meaning: an arm of `exec` for a command not modelled would answer with it. Safe. -/
  | notModelled (mnemonic : String)
deriving DecidableEq, Repr

/-- Right after RESET is released (R207): every block at its cold-start value, the Layout Loader at record 0,
no command waiting. -/
def State.reset : State :=
  { pending := [], free := 0, resetAsserted := false, link := Link.cold, loader := Loader.cold,
    entries := [], directory := [], dayNumber := 0, walkActive := false, walkPos := 0,
    clock := Clock.cold, sched := [], session := Session.cold, fu := FormatUnit.cold, cells := [],
    flashPeriod := 0, queues := [], lines := [], slots := [], displays := [],
    ribbonA := Ribbon.cold, ribbonB := Ribbon.cold, tlines := [], terms := [], windows := [],
    counters := [] }

end Sys2Proof.Machine
end

