-- ==== Sys2Proof/Machine/Text.lean ====
section
/-! DEFINITION. Chapter 1: the functions from an instrument's figures to text. -/

namespace Sys2Proof.Machine

/-! ### Digits and justification -/

/-- The character of a decimal digit. -/
def digitChar (d : Nat) : Char := Char.ofNat (48 + d % 10)

/-- Decimal digits before `acc`, at most `fuel` of them. -/
def digitsOnto : Nat → Nat → List Char → List Char
  | 0, _, acc => acc
  | fuel + 1, n, acc =>
    let acc' := digitChar (n % 10) :: acc
    if n / 10 = 0 then acc' else digitsOnto fuel (n / 10) acc'

/-- The decimal digits of a number without leading zeros; 0 is the one digit 0. Twenty digits are more than any
figure of the part has. -/
def digits (n : Nat) : Text := digitsOnto 20 n []

/-- Text at the right of `w` positions, filled on the left. -/
def rightJustify {α : Type} (fill : α) (w : Nat) (cs : List α) : List α :=
  List.replicate (w - cs.length) fill ++ cs

/-- Text at the left of `w` positions, filled on the right. -/
def leftJustify {α : Type} (fill : α) (w : Nat) (cs : List α) : List α :=
  cs ++ List.replicate (w - cs.length) fill

/-! ### Symbols (0.4.5) -/

/-- A capital letter. -/
def isCapital (c : Char) : Bool := decide (65 ≤ c.toNat) && decide (c.toNat ≤ 90)

/-- One to five capitals, optionally followed by "." and one capital (0.4.5, R32). -/
def symbolForm (s : Text) : Bool :=
  let letters := s.takeWhile isCapital
  let rest := s.dropWhile isCapital
  decide (1 ≤ letters.length) && decide (letters.length ≤ 5) &&
    match rest with
    | [] => true
    | ['.', c] => isCapital c
    | _ => false

/-- Symbol order (0.4.5, R25): letters in turn, a symbol that runs out first is smaller, "." below any letter. -/
def symbolLt : Text → Text → Bool
  | [], [] => false
  | [], _ :: _ => true
  | _ :: _, [] => false
  | a :: s, b :: t => if a.toNat < b.toNat then true else if b.toNat < a.toNat then false else symbolLt s t

/-! ### Prices and the grid (R1 to R4) -/

/-- The grid step of a denominator (TABLE 1-1). -/
def gridStep (denom : Nat) : Nat := 64 / denom

/-- A price moved down onto the grid (R1). -/
def snap (denom price : Nat) : Nat := price / gridStep denom * gridStep denom

/-- R1: a price checked and snapped: none when it is refused RANGE, else the stored price and whether it moved. -/
def checkPrice (denom price : Nat) : Option (Nat × Bool) :=
  if price = 0 ∨ Config.maxPrice < price then none
  else if snap denom price = 0 then none
  else some (snap denom price, decide (snap denom price ≠ price))

/-- R3: a size checked and clamped: none when it is refused RANGE, else the stored size and whether it was clamped. -/
def checkSize (size : Nat) : Option (Nat × Bool) :=
  if size = 0 then none
  else if Config.maxSize < size then some (Config.maxSize, true)
  else some (size, false)

/-- The whole part of a price (R4). -/
def wholePart (p : Nat) : Nat := p / 64

/-- The fractional part of a price in sixty-fourths (R4). -/
def fracPart (p : Nat) : Nat := p % 64

/-- The numerator of a fractional part in lowest terms (R4). -/
def fracNum (frac : Nat) : Nat := frac / Nat.gcd frac 64

/-- The denominator of a fractional part in lowest terms (R4). -/
def fracDen (frac : Nat) : Nat := 64 / Nat.gcd frac 64

/-! ### Plain price text (R5) -/

/-- n/d in ordinary characters. -/
def plainFraction (frac : Nat) : Text := digits (fracNum frac) ++ '/' :: digits (fracDen frac)

/-- Whole digits, space and fraction, each when it is there (R5). -/
def plainParts (whole frac : Nat) : Text :=
  if frac = 0 then digits whole
  else if whole = 0 then plainFraction frac
  else digits whole ++ ' ' :: plainFraction frac

/-- R5. -/
def plainPrice (p : Nat) : Text := plainParts (wholePart p) (fracPart p)

/-! ### Board price text (R6, R7) -/

/-- Ordinary characters as board characters. -/
def boardChars (cs : Text) : List BoardChar := cs.map BoardChar.plain

/-- `w` spaces. -/
def boardSpaces (w : Nat) : List BoardChar := List.replicate w (.plain ' ')

/-- `w` dashes, the overflow text. -/
def boardDashes (w : Nat) : List BoardChar := List.replicate w (.plain '-')

/-- A board text as it is formed: its characters, and how often Bd_coarsened and Bd_overflow advance for it. -/
structure Formed where
  chars     : List BoardChar
  coarsened : Nat
  overflow  : Nat
deriving DecidableEq, Repr

/-- Characters formed without coarsening or overflow. -/
def Formed.plain (cs : List BoardChar) : Formed := { chars := cs, coarsened := 0, overflow := 0 }

/-- W dashes with Bd_overflow advanced once. -/
def Formed.dashes (w : Nat) : Formed := { chars := boardDashes w, coarsened := 0, overflow := 1 }

/-- The glyph of a fractional part that is a whole number of sixteenths. -/
def glyphOf (frac : Nat) : BoardChar := .glyph (frac / 4)

/-- R6: the exact form of a price. -/
def exactForm (p : Nat) : List BoardChar :=
  let whole := wholePart p
  let frac := fracPart p
  if frac = 0 then boardChars (digits whole)
  else if fracDen frac ≤ 16 then
    (if whole = 0 then [] else boardChars (digits whole)) ++ [glyphOf frac]
  else boardChars (plainParts whole frac)

/-- R7: the coarse form of a price: whole sixteenths of the fractional part. -/
def coarseForm (p : Nat) : List BoardChar :=
  let whole := wholePart p
  let f16 := fracPart p / 4
  if f16 = 0 then boardChars (digits whole)
  else (if whole = 0 then [] else boardChars (digits whole)) ++ [.glyph f16]

/-- R6, R7: board price text of a price for a width. -/
def boardPrice (w p : Nat) : Formed :=
  if (exactForm p).length ≤ w then Formed.plain (rightJustify (.plain ' ') w (exactForm p))
  else if fracPart p ≠ 0 ∧ 16 < fracDen (fracPart p) then
    if (coarseForm p).length ≤ w then
      { chars := rightJustify (.plain ' ') w (coarseForm p), coarsened := 1, overflow := 0 }
    else { chars := boardDashes w, coarsened := 1, overflow := 1 }
  else Formed.dashes w

/-- R6: board price text of a price field; an absent price gives spaces. -/
def boardPriceField (w : Nat) : Option Nat → Formed
  | none => Formed.plain (boardSpaces w)
  | some p => boardPrice w p

/-! ### Net change (R8 to R10) -/

/-- R8: last − prev_close, present when both are. -/
def netChange (last prevClose : Option Nat) : Option Int :=
  match last, prevClose with
  | some l, some c => some ((l : Int) - (c : Int))
  | _, _ => none

/-- The sign character of a change that is not 0. -/
def signChar (c : Int) : Char := if 0 < c then '+' else '-'

/-- R9: the net change on a board cell of width `w`. -/
def boardChange (w : Nat) : Option Int → Formed
  | none => Formed.plain (boardSpaces w)
  | some c =>
    if c = 0 then
      if 3 ≤ w then Formed.plain (rightJustify (.plain ' ') w (boardChars ['U', 'N', 'C'])) else Formed.dashes w
    else
      let m := boardPrice (w - 1) c.natAbs
      if m.overflow = 0 then { m with chars := .plain (signChar c) :: m.chars }
      else { m with chars := boardDashes w }

/-- R10: the net change on a terminal. -/
def terminalChange : Option Int → Text
  | none => []
  | some c => if c = 0 then ['U', 'N', 'C'] else signChar c :: plainPrice c.natAbs

/-! ### Tick and hue (R11, R12) -/

/-- R11: the tick after a trade at `p`, from the entry before it. -/
def tickAfter (e : Entry) (p : Nat) : Tick :=
  match e.last with
  | some l => if l < p then .up else if p < l then .down else e.tick
  | none =>
    match e.prevClose with
    | some c => if c < p then .up else if p < c then .down else .level
    | none => .level

/-- R12. -/
def hueOf : Tick → Hue
  | .up => .green
  | .down => .red
  | .level => .white
  | .none => .white

/-- R12: the character of a TICK cell. -/
def tickBoardChar : Tick → BoardChar
  | .up => .upArrow
  | .down => .downArrow
  | .level => .plain ' '
  | .none => .plain ' '

/-- R12: the tick on a terminal row. -/
def tickTerminalChar : Tick → Char
  | .up => '+'
  | .down => '-'
  | .level => '='
  | .none => ' '

/-! ### Board volume text (R13) -/

/-- R13, form 3: tenths of millions. -/
def millionsForm (v : Nat) : Text :=
  let q := v / 100000
  digits (q / 10) ++ '.' :: digits (q % 10) ++ ['M']

/-- R13: the first form that fits. DEDUCED: the K and M forms are not counted as coarse forms, since R13 states no such
count, though TABLE 11-5 names R13 beside Bd_coarsened (log entry 39). -/
def boardVolume (w v : Nat) : Formed :=
  if (digits v).length ≤ w then Formed.plain (rightJustify (.plain ' ') w (boardChars (digits v)))
  else if 1000 ≤ v ∧ (digits (v / 1000)).length + 1 ≤ w then
    Formed.plain (rightJustify (.plain ' ') w (boardChars (digits (v / 1000) ++ ['K'])))
  else if 100000 ≤ v ∧ (millionsForm v).length ≤ w then
    Formed.plain (rightJustify (.plain ' ') w (boardChars (millionsForm v)))
  else Formed.dashes w

/-! ### Cell text (R83 to R86) -/

/-- R84, R85: the characters a bound field shows for an entry that is not FREE. -/
def fieldForm (field : Field) (w : Nat) (e : Entry) : Formed :=
  let halted := decide (e.status = .halted)
  match field with
  | .symbol =>
    if e.symbol.length ≤ w then Formed.plain (leftJustify (.plain ' ') w (boardChars e.symbol))
    else Formed.dashes w
  | .last =>
    if halted then
      Formed.plain (rightJustify (.plain ' ') w (boardChars (if 4 ≤ w then ['H', 'A', 'L', 'T'] else ['H'])))
    else boardPriceField w e.last
  | .change =>
    if halted then Formed.plain (boardSpaces w) else boardChange w (netChange e.last e.prevClose)
  | .volume => boardVolume w e.dayVolume
  | .tick => Formed.plain (rightJustify (.plain ' ') w [tickBoardChar e.tick])
  | .high => boardPriceField w e.high
  | .low => boardPriceField w e.low
  | .close => boardPriceField w e.prevClose

/-- R86: the HUE of a field. -/
def fieldHue (field : Field) (e : Entry) : Hue :=
  match field with
  | .last => if e.status = .halted then .white else hueOf e.tick
  | .change => if e.status = .halted then .white else hueOf e.tick
  | .tick => hueOf e.tick
  | .symbol => .white
  | .volume => .white
  | .high => .white
  | .low => .white
  | .close => .white

/-- Every position with one HUE and one FLASH. -/
def withAttributes (hue : Hue) (flash : Bool) (cs : List BoardChar) : BoardText :=
  cs.map (fun c => { char := c, hue := hue, flash := flash })

/-- W spaces, WHITE, FLASH off (R83, R102). -/
def blankText (w : Nat) : BoardText := withAttributes .white false (boardSpaces w)

/-! ### Ribbon print text (R14 to R19) -/

/-- R14, part 3: the volume part. -/
def volumePart (size lot : Nat) : Text :=
  if size = lot then []
  else if size % lot = 0 ∧ size / lot ≤ 99 then digits (size / lot) ++ ['@']
  else digits size ++ ['S', 'H', '@']

/-- The first-of-day mark. -/
def firstMark (first : Bool) : Text := if first then ['*'] else []

/-- R16, R18: the volume part under a mode with trim threshold `t`. -/
def modeVolume (mode : Mode) (t : Nat) (p : TradePrint) : Text :=
  match mode with
  | .normal => volumePart p.size p.lot
  | .trim => if p.size < t * p.lot then [] else volumePart p.size p.lot
  | .digits => if p.size < t * p.lot then [] else volumePart p.size p.lot
  | .sample => []

/-- R17, R18: the price under a mode; `anchored` says that the instrument's anchor bit is set. -/
def modePrice (mode : Mode) (anchored : Bool) (price : Nat) : Text :=
  let cut := anchored && decide (10 ≤ wholePart price)
  match mode with
  | .normal => plainPrice price
  | .trim => plainPrice price
  | .digits => if cut then cutPrice price else plainPrice price
  | .sample => if cut then cutPrice price else plainPrice price
where
  /-- The last whole digit, always shown, then the fraction when there is one (R17). -/
  cutPrice (price : Nat) : Text :=
    digits (wholePart price % 10) ++
      if fracPart price = 0 then [] else ' ' :: plainFraction (fracPart price)

/-- R16: the symbol and its space are dropped in a run of one instrument, in every mode but NORMAL. -/
def dropsSymbol (mode : Mode) (preceding : Option Nat) (index : Nat) : Bool :=
  decide (mode ≠ .normal) && decide (preceding = some index)

/-- R14, R16 to R18: the text of a trade print, separator included. -/
def tradeText (mode : Mode) (t : Nat) (preceding : Option Nat) (anchored : Bool) (p : TradePrint) : Text :=
  let dropped := dropsSymbol mode preceding p.index
  (if dropped then [] else p.symbol ++ [' ']) ++ modeVolume mode t p ++ firstMark p.first ++
    modePrice mode anchored p.price ++ (if dropped then [' '] else [' ', ' '])

/-- R15. -/
def bannerText : Banner → Text
  | .marketOpen => "MARKET OPEN".toList
  | .tradingHalted => "TRADING HALTED".toList
  | .tradingResumes => "TRADING RESUMES".toList
  | .marketClosed => "MARKET CLOSED".toList

/-- R14 to R18: the text of any print under a mode. -/
def printText (mode : Mode) (t : Nat) (preceding : Option Nat) (anchored : Bool) : PrintBody → Text
  | .trade p => tradeText mode t preceding anchored p
  | .halt symbol _ => symbol ++ " HALTED".toList ++ [' ', ' ']
  | .resume symbol _ => symbol ++ " RESUMED".toList ++ [' ', ' ']
  | .banner b => bannerText b ++ [' ', ' ']

/-- R15: LATE n with its separator. -/
def lateText (n : Nat) : Text := "LATE ".toList ++ digits n ++ [' ', ' ']

/-- R19: the length of the mode-0 text, separator included. -/
def fullLength (b : PrintBody) : Nat := (printText .normal 0 none false b).length

/-! ### Terminal row text (R20) -/

/-- The column of an optional price, 10 wide. -/
def priceColumn (p : Option Nat) : Text :=
  rightJustify ' ' 10 (match p with | none => [] | some v => plainPrice v)

/-- R20: the last column, HALT in place of the price of a HALTED instrument. -/
def lastColumn (e : Entry) : Text :=
  if e.status = .halted then rightJustify ' ' 10 "HALT".toList else priceColumn e.last

/-- R20: the 63 characters of a terminal row. -/
def rowText (e : Entry) : Text :=
  leftJustify ' ' 7 e.symbol ++ [' '] ++ lastColumn e ++ [' '] ++
    rightJustify ' ' 11 (terminalChange (netChange e.last e.prevClose)) ++ [' '] ++
    priceColumn (e.bid.map Side.price) ++ [' '] ++ priceColumn (e.ask.map Side.price) ++ [' '] ++
    rightJustify ' ' 8 (digits e.dayVolume) ++ [' '] ++ [tickTerminalChar e.tick]

/-- R162: an empty row. -/
def emptyRow : Text := List.replicate 63 ' '

/-! ### Lag (R21, R22) -/

/-- R21: the characters a ribbon still owes. -/
def backlog (r : Ribbon) : Nat := (r.queue.map PrintRecord.fullLength).sum + r.fifo.length

/-- R21: projected lag in seconds. -/
def projectedLag (r : Ribbon) : Nat := backlog r / r.rate

/-- R22: measured lag in seconds. -/
def measuredLag (now arrival : Nat) : Nat := (now + Config.daySeconds - arrival) % Config.daySeconds

end Sys2Proof.Machine
end

