-- ==== Sys2Proof/Machine/Ops.lean ====
section
/-! DEFINITION. The named reads and writes of the state: one record of one table each, and the small list
operations the blocks share. -/

namespace Sys2Proof.Machine

/-! ### Numbering -/

/-- 5.1: the cell number of a line and slot. -/
def cellNo (line slot : Nat) : Nat := 64 * line + slot

/-- The number of a terminal position. -/
def termNo (line addr : Nat) : Nat := 16 * line + addr

/-! ### One record of one table -/

/-- The instrument entry at an index. -/
def State.entry (s : State) (i : Nat) : Entry := Table.get Entry.cold s.entries i
/-- The state with an instrument entry replaced. -/
def State.setEntry (s : State) (i : Nat) (e : Entry) : State :=
  { s with entries := Table.set Entry.cold s.entries i e }

/-- A schedule entry. -/
def State.schedEntry (s : State) (n : Nat) : SchedEntry := Table.get SchedEntry.cold s.sched n
/-- The state with a schedule entry replaced. -/
def State.setSched (s : State) (n : Nat) (e : SchedEntry) : State :=
  { s with sched := Table.set SchedEntry.cold s.sched n e }

/-- A cell record, by cell number. -/
def State.cell (s : State) (c : Nat) : Cell := Table.get Cell.cold s.cells c
/-- The state with a cell record replaced. -/
def State.setCell (s : State) (c : Nat) (r : Cell) : State :=
  { s with cells := Table.set Cell.cold s.cells c r }

/-- The refresh queue of a line, oldest first: cell numbers. -/
def State.refreshQueue (s : State) (line : Nat) : List Nat := Table.get [] s.queues line
/-- The state with a line's refresh queue replaced. -/
def State.setQueue (s : State) (line : Nat) (q : List Nat) : State :=
  { s with queues := Table.set [] s.queues line q }

/-- A board line. -/
def State.line (s : State) (n : Nat) : BoardLine := Table.get BoardLine.cold s.lines n
/-- The state with a board line replaced. -/
def State.setLine (s : State) (n : Nat) (l : BoardLine) : State :=
  { s with lines := Table.set BoardLine.cold s.lines n l }

/-- A slot's state, numbered as its cell. -/
def State.slotState (s : State) (c : Nat) : SlotState := Table.get SlotState.cold s.slots c
/-- The state with a slot's state replaced. -/
def State.setSlot (s : State) (c : Nat) (r : SlotState) : State :=
  { s with slots := Table.set SlotState.cold s.slots c r }

/-- What the module at an address of a line shows (R99). -/
def State.display (s : State) (line addr : Nat) : Display := Table.get Display.unknown s.displays (79 * line + addr)
/-- The state with a module's display replaced. -/
def State.setDisplay (s : State) (line addr : Nat) (d : Display) : State :=
  { s with displays := Table.set Display.unknown s.displays (79 * line + addr) d }

/-- A ribbon. -/
def State.ribbon (s : State) : RibbonId → Ribbon
  | .a => s.ribbonA
  | .b => s.ribbonB
/-- The state with a ribbon replaced. -/
def State.setRibbon (s : State) : RibbonId → Ribbon → State
  | .a, r => { s with ribbonA := r }
  | .b, r => { s with ribbonB := r }

/-- A terminal line. -/
def State.tline (s : State) (n : Nat) : TermLine := Table.get TermLine.cold s.tlines n
/-- The state with a terminal line replaced. -/
def State.setTLine (s : State) (n : Nat) (l : TermLine) : State :=
  { s with tlines := Table.set TermLine.cold s.tlines n l }

/-- A terminal position, by terminal number. -/
def State.term (s : State) (t : Nat) : Terminal := Table.get Terminal.cold s.terms t
/-- The state with a terminal position replaced. -/
def State.setTerm (s : State) (t : Nat) (r : Terminal) : State :=
  { s with terms := Table.set Terminal.cold s.terms t r }

/-- A referral window. -/
def State.window (s : State) (n : Nat) : Window := Table.get Window.cold s.windows n
/-- The state with a referral window replaced. -/
def State.setWindow (s : State) (n : Nat) (w : Window) : State :=
  { s with windows := Table.set Window.cold s.windows n w }

/-- An alert of a terminal. -/
def Terminal.alert (t : Terminal) (n : Nat) : Alert := Table.get Alert.cold t.alerts n
/-- The terminal with an alert replaced. -/
def Terminal.setAlert (t : Terminal) (n : Nat) (a : Alert) : Terminal :=
  { t with alerts := Table.set Alert.cold t.alerts n a }

/-! ### Whole blocks -/

/-- The state with the Link Interface replaced. -/
def State.setLink (s : State) (l : Link) : State := { s with link := l }
/-- The state with the Layout Loader replaced. -/
def State.setLoader (s : State) (l : Loader) : State := { s with loader := l }
/-- The state with the Session Clock replaced. -/
def State.setClock (s : State) (c : Clock) : State := { s with clock := c }
/-- The state with the session replaced. -/
def State.setSession (s : State) (c : Session) : State := { s with session := c }
/-- The state with the Format Unit replaced. -/
def State.setFU (s : State) (f : FormatUnit) : State := { s with fu := f }
/-- The state with the directory replaced. -/
def State.setDirectory (s : State) (d : List (Text × Nat)) : State := { s with directory := d }
/-- The state with the day number replaced. -/
def State.setDayNumber (s : State) (n : Nat) : State := { s with dayNumber := n }
/-- The state with the roll walk's flag and position replaced (R29). -/
def State.setWalk (s : State) (active : Bool) (pos : Nat) : State :=
  { s with walkActive := active, walkPos := pos }
/-- The state with the flash period replaced. -/
def State.setFlashPeriod (s : State) (n : Nat) : State := { s with flashPeriod := n }
/-- The state with the count of free values used replaced. -/
def State.setFree (s : State) (n : Nat) : State := { s with free := n }

/-! ### Applying an operation to each of several objects -/

/-- `f` applied for each member of a list in order. -/
def forEach {α : Type} (l : List α) (f : α → State → State) (s : State) : State :=
  l.foldl (fun s a => f a s) s

/-- The numbers of the eight board lines. -/
def lineNos : List Nat := List.range 8

/-- The numbers of the four terminal lines. -/
def tlineNos : List Nat := List.range 4

/-- The addresses of a terminal line. -/
def addressNos : List Nat := List.range 16

/-- The numbers of the 64 terminal positions. -/
def termNos : List Nat := List.range 64

/-! ### Rising lists of numbers, used as sets -/

/-- A number joined to a rising list, once. -/
def insertNo : Nat → List Nat → List Nat
  | n, [] => [n]
  | n, m :: l => if n < m then n :: m :: l else if n = m then m :: l else m :: insertNo n l

/-- The place of the first member equal to `a`, counted from 0. -/
def placeOf {α : Type} [DecidableEq α] (a : α) : List α → Option Nat
  | [] => none
  | b :: l => if b = a then some 0 else (placeOf a l).map (· + 1)

/-- A member put at a place, or at the tail when the place is at or beyond the length. -/
def insertAt {α : Type} (a : α) : Nat → List α → List α
  | 0, l => a :: l
  | _ + 1, [] => [a]
  | n + 1, b :: l => b :: insertAt a n l

/-- A list in an order the manual does not give: each next member is picked by a free value. A list of one
member needs none. Log entry 6. -/
def freeOrder {α : Type} : Nat → Nat → List α → List α
  | 0, _, l => l
  | _ + 1, _, [] => []
  | _ + 1, _, [a] => [a]
  | fuel + 1, n, a :: b :: l =>
    let whole := a :: b :: l
    let k := Config.freeChoice n % whole.length
    match whole[k]? with
    | some x => x :: freeOrder fuel (n + 1) (whole.eraseIdx k)
    | none => whole

end Sys2Proof.Machine
end

