-- ==== Sys2Proof/Machine/Flags.lean ====
section
/-! DEFINITION. The 24 counters (TABLE 11-5) and the notice list (R200): what the block counts and flags. -/

namespace Sys2Proof.Machine

/-- The counters of TABLE 11-5, in index order. -/
inductive Counter where
  | inTrades
  | inRefused
  | inOffgrid
  | inSizeClamped
  | bdFormats
  | bdUnchanged
  | bdCoarsened
  | bdOverflow
  | bdModuleLost
  | rbPrintsA
  | rbPrintsB
  | rbDropped
  | rbSkipped
  | rbUnderrun
  | rbModeRises
  | tmBlocks
  | tmRetries
  | tmSilenced
  | tmOverrun
  | rfHeld
  | rfExpired
  | fuUrgentGrants
  | lkBadframe
  | lkTimeout
deriving DecidableEq, Repr

/-- The index of a counter (TABLE 11-5). -/
def Counter.index : Counter → Nat
  | .inTrades => 0
  | .inRefused => 1
  | .inOffgrid => 2
  | .inSizeClamped => 3
  | .bdFormats => 4
  | .bdUnchanged => 5
  | .bdCoarsened => 6
  | .bdOverflow => 7
  | .bdModuleLost => 8
  | .rbPrintsA => 9
  | .rbPrintsB => 10
  | .rbDropped => 11
  | .rbSkipped => 12
  | .rbUnderrun => 13
  | .rbModeRises => 14
  | .tmBlocks => 15
  | .tmRetries => 16
  | .tmSilenced => 17
  | .tmOverrun => 18
  | .rfHeld => 19
  | .rfExpired => 20
  | .fuUrgentGrants => 21
  | .lkBadframe => 22
  | .lkTimeout => 23

/-- The value of a counter. -/
def State.counter (s : State) (c : Counter) : Nat := Table.get 0 s.counters c.index

/-- A counter advanced by `n`, saturating (0.4.7, R203). -/
def State.advance (s : State) (c : Counter) (n : Nat) : State :=
  { s with counters := Table.set 0 s.counters c.index (min Config.maxCounter (s.counter c + n)) }

/-- A counter advanced by one. -/
def State.count (s : State) (c : Counter) : State := s.advance c 1

/-- Every counter 0 (R203). -/
def State.clearCounters (s : State) : State := { s with counters := [] }

/-- The counter of a ribbon's prints (R129). -/
def printsCounter : RibbonId → Counter
  | .a => .rbPrintsA
  | .b => .rbPrintsB

/-- R200: a notice raised joins the tail of the list unless its pair is listed. -/
def State.raise (s : State) (n : NoticeItem) : State :=
  if n ∈ s.link.notices then s
  else s.setLink { s.link with notices := s.link.notices ++ [n] }

end Sys2Proof.Machine
end

