-- ==== Sys2Proof/Machine/Print.lean ====
section
/-! DEFINITION. Ribbon operations shared by several commands: modes, offers to the print queue, character
periods, stopping (chapter 7). -/

namespace Sys2Proof.Machine

/-! ### Modes (R122 to R124) -/

/-- R122: the next mode and the projected lag at which a ribbon rises into it. -/
def riseTo (r : Ribbon) : Option (Mode × Nat) :=
  match r.mode with
  | .normal => some (.trim, r.up1)
  | .trim => some (.digits, r.up2)
  | .digits => some (.sample, r.up3)
  | .sample => none

/-- R122: the previous mode and the projected lag below which a ribbon falls into it. -/
def fallTo (r : Ribbon) : Option (Mode × Nat) :=
  match r.mode with
  | .normal => none
  | .trim => some (.normal, r.up1 / 2)
  | .digits => some (.trim, r.up2 / 2)
  | .sample => some (.digits, r.up3 / 2)

/-- R122: the mode an evaluation rises to, if it rises. -/
def risen (r : Ribbon) : Option Mode :=
  match riseTo r with
  | some (m, up) => if up ≤ projectedLag r then some m else none
  | none => none

/-- R122: the mode an evaluation falls to, if it falls. -/
def fallen (r : Ribbon) : Option Mode :=
  match fallTo r with
  | some (m, half) => if projectedLag r < half ∧ r.dwell = 30 then some m else none
  | none => none

/-- R124: the ribbon after a rise; a rise into DIGITS clears the anchor bits. -/
def Ribbon.rise (r : Ribbon) (m : Mode) : Ribbon :=
  { r with mode := m, dwell := 0, anchors := if m = .digits then [] else r.anchors }

/-- R124: the ribbon after a fall. -/
def Ribbon.fall (r : Ribbon) (m : Mode) : Ribbon := { r with mode := m, dwell := 0 }

/-- R122, R124: one mode evaluation of a ribbon. -/
def evalMode (id : RibbonId) (s : State) : State :=
  let r := s.ribbon id
  match risen r with
  | some m => ((s.setRibbon id (r.rise m)).count .rbModeRises).raise (.ribbon id)
  | none =>
    match fallen r with
    | some m => (s.setRibbon id (r.fall m)).raise (.ribbon id)
    | none => s

/-! ### Offers to the print queue (R117 to R121) -/

/-- A TRADE record. -/
def PrintRecord.isTrade (r : PrintRecord) : Bool :=
  match r.body with
  | .trade _ => true
  | _ => false

/-- A TRADE record of an instrument index. -/
def PrintRecord.isTradeOf (i : Nat) (r : PrintRecord) : Bool :=
  match r.body with
  | .trade t => decide (t.index = i)
  | _ => false

/-- R118 to R120: the record made of an offer; its full length is computed here (R19). -/
def makeRecord (body : PrintBody) (arrival : Nat) : PrintRecord :=
  { body := body, arrival := arrival, fullLength := fullLength body }

/-- R121: the queue after the full-queue policy has removed a record for an offer; none in case 3. -/
def roomFor (body : PrintBody) (q : List PrintRecord) : Option (List PrintRecord) :=
  match body with
  | .trade t =>
    if q.any (PrintRecord.isTradeOf t.index) then some (q.eraseP (PrintRecord.isTradeOf t.index))
    else if q.any PrintRecord.isTrade then some (q.eraseP PrintRecord.isTrade)
    else none
  | _ => if q.any PrintRecord.isTrade then some (q.eraseP PrintRecord.isTrade) else none

/-- A record joined at the tail, and the mode evaluation that follows it. -/
def joinQueue (id : RibbonId) (q : List PrintRecord) (rec : PrintRecord) (s : State) : State :=
  evalMode id (s.setRibbon id { s.ribbon id with queue := q ++ [rec] })

/-- R118 to R121: an offer of a print to a ribbon. -/
def offerPrint (id : RibbonId) (body : PrintBody) (arrival : Nat) (s : State) : State :=
  let r := s.ribbon id
  if r.state = .off then s
  else if r.queue.length < Config.printPlaces then joinQueue id r.queue (makeRecord body arrival) s
  else
    match roomFor body r.queue with
    | some q => joinQueue id q (makeRecord body arrival) (s.count .rbDropped)
    | none => s.count .rbDropped

/-- The two ribbons. -/
def ribbonIds : List RibbonId := [.a, .b]

/-- R39: the class mask of a ribbon includes a class. -/
def Ribbon.takesClass (r : Ribbon) (cls : Nat) : Bool := r.mask.getLsbD cls

/-- R39: an offer to each ribbon whose class mask includes the class. -/
def offerToClass (cls : Nat) (body : PrintBody) (arrival : Nat) (s : State) : State :=
  forEach ribbonIds (fun id s => if (s.ribbon id).takesClass cls then offerPrint id body arrival s else s) s

/-! ### Stopping and starting (R115, R116) -/

/-- The session is AFTER or CLOSED. -/
def closedOrAfter (x : SessionState) : Bool := decide (x = .after) || decide (x = .closed)

/-- The job in flight is of this ribbon. -/
def ribbonJobInFlight (id : RibbonId) (s : State) : Bool :=
  match s.fu.job with
  | some (.ribbon r _ _ _ _ _ _) => decide (r = id)
  | _ => false

/-- R116: the stop condition. -/
def mayStop (id : RibbonId) (s : State) : Bool :=
  let r := s.ribbon id
  decide (r.state = .running) && closedOrAfter s.session.state && r.queue.isEmpty && r.fifo.isEmpty &&
    !ribbonJobInFlight id s

/-- R116: the stop test. The character of the last period stays on the output until that period ends. -/
def stopTest (id : RibbonId) (s : State) : State :=
  if mayStop id s then s.setRibbon id { s.ribbon id with state := .stopped, period := none } else s

/-- R132, R133: the start of a character period of a RUNNING ribbon: one character is sent. -/
def periodStart (id : RibbonId) (s : State) : State :=
  let r := s.ribbon id
  match r.fifo with
  | c :: rest => s.setRibbon id { r with fifo := rest, period := some r.rate, output := some c }
  | [] =>
    let s1 := s.setRibbon id { r with period := some r.rate, output := some ' ' }
    if r.queue.isEmpty then s1 else s1.count .rbUnderrun

/-- R115, R132: a ribbon becomes RUNNING and its first character period begins. DEDUCED: on a ribbon that a stop test has made
STOPPED and whose last character is still being sent (R116), it begins at once and its character replaces that one, on which
R115 says nothing (log entry 16). -/
def startRibbon (id : RibbonId) (s : State) : State :=
  periodStart id (s.setRibbon id { s.ribbon id with state := .running })

/-! ### Figures of a record (R14 to R19) -/

/-- The index of a trade print, none for any other (section 1.8.1). -/
def PrintBody.tradeIndex : PrintBody → Option Nat
  | .trade t => some t.index
  | .halt _ _ => none
  | .resume _ _ => none
  | .banner _ => none

/-- R126: how many head records the SAMPLE head-skip discards, and the queue it leaves. -/
def headSkip : List PrintRecord → Nat × List PrintRecord
  | [] => (0, [])
  | rec :: rest =>
    match rec.body with
    | .trade t =>
      if !t.first && rest.any (PrintRecord.isTradeOf t.index) then
        ((headSkip rest).1 + 1, (headSkip rest).2)
      else (0, rec :: rest)
    | _ => (0, rec :: rest)

end Sys2Proof.Machine
end

