-- ==== Sys2Proof/Machine/FanOut.lean ====
section
/-! DEFINITION. Offers to the refresh queues, the fan-out of accepted changes (2.5), marking of rows, firing of
alerts, and the roll (2.3). -/

namespace Sys2Proof.Machine

/-! ### Refresh queues (R79 to R81) -/

/-- R80: a cell offered to its line's refresh queue; an absorbable offer does not enter a cell whose needs_full
flag is set. -/
def offerCell (forced : Bool) (c : Nat) (s : State) : State :=
  let q := s.refreshQueue (c / 64)
  if c ∈ q then s
  else if forced || !(s.cell c).needsFull then s.setQueue (c / 64) (q ++ [c])
  else s

/-- R81: the trade mark of a cell set. -/
def markTrade (c : Nat) (s : State) : State := s.setCell c { s.cell c with tradeMark := true }

/-- R39: every cell of the entry's cell list offered, in list order. -/
def fanCells (i : Nat) (s : State) : State := forEach (s.entry i).cells (offerCell false) s

/-- R39, R81: every cell of the list marked and offered, for a trade change. -/
def fanTradeCells (i : Nat) (s : State) : State :=
  forEach (s.entry i).cells (fun c s => offerCell false c (markTrade c s)) s

/-- R109, R91: the cells of a line that are bound or hold a hold, in ascending slot order. -/
def liveCells (line : Nat) (s : State) : List Nat :=
  ((List.range 64).map (cellNo line)).filter (fun c => (s.cell c).binding.isSome || (s.cell c).hold.isSome)

/-! ### Watch rows (R159 to R161) -/

/-- R160: the row of an instrument marked, when the terminal shows it on its current page. -/
def Terminal.markInstrument (i : Nat) (t : Terminal) : Terminal :=
  if t.state = .vacant then t
  else
    match placeOf i t.watchList with
    | some k => if k / 12 = t.page then { t with rows := insertNo (k % 12) t.rows } else t
    | none => t

/-- R39, R160: the watch part of a change. -/
def fanRows (i : Nat) (s : State) : State :=
  if (s.entry i).watchers = 0 then s
  else forEach termNos (fun n s => s.setTerm n ((s.term n).markInstrument i)) s

/-- R161: the rows a list change at position `k` marks: of the current page, the rows whose list position is `k`
or more, up to the longer of the two lengths; every row when `k` lies on an earlier page. Log entry 11. -/
def changedRows (page k length : Nat) : List Nat :=
  (List.range 12).filter (fun r =>
    decide (k ≤ 12 * page + r) && (decide (k < 12 * page) || decide (12 * page + r < length)))

/-- R161: rows marked after a list change at position `k`; `length` is the longer of the list's two lengths. -/
def Terminal.markFrom (k length : Nat) (t : Terminal) : Terminal :=
  { t with rows := (changedRows t.page k length).foldl (fun rows r => insertNo r rows) t.rows }

/-! ### Alerts (R175) -/

/-- R175: every enabled condition holds. -/
def Conditions.hold (c : Conditions) (price size : Nat) : Bool :=
  (match c.above with | some a => decide (a ≤ price) | none => true) &&
  (match c.below with | some b => decide (price ≤ b) | none => true) &&
  (match c.minSize with | some m => decide (m ≤ size) | none => true)

/-- R175: an ARMED alert of the traded instrument that matches becomes FIRED. -/
def Alert.onTrade (i price size second : Nat) (a : Alert) : Alert :=
  if a.state = .armed ∧ a.instrument = some i ∧ a.conditions.hold price size then
    { a with state := .fired, fired := some { price := price, size := size, second := second } }
  else a

/-- R175: the four alerts of a terminal tested on a trade. -/
def Terminal.onTrade (i price size second : Nat) (t : Terminal) : Terminal :=
  (List.range 4).foldl (fun t n => t.setAlert n ((t.alert n).onTrade i price size second)) t

/-- R39, R175: the alert part of a trade change, on every terminal whatever its state. -/
def fanAlerts (i price size : Nat) (s : State) : State :=
  forEach termNos (fun n s => s.setTerm n ((s.term n).onTrade i price size s.clock.second)) s

/-! ### The roll (R27 to R30) -/

/-- R28: the entry after a roll on a day. -/
def Entry.rolled (day : Nat) (e : Entry) : Entry :=
  { e with
    prevClose := match e.last with | some l => some l | none => e.prevClose
    last := none, opening := none, high := none, low := none
    bid := none, ask := none, dayVolume := 0, lastSize := 0, tick := .none
    firstPending := true, dayStamp := day }

/-- R27: a non-FREE entry whose day stamp differs from the day number. -/
def Entry.stale (day : Nat) (e : Entry) : Bool := decide (e.status ≠ .free) && decide (e.dayStamp ≠ day)

/-- TABLE 2-3: the cells and rows parts of a change, which roll, close, halt and resume changes have. -/
def fanCellsAndRows (i : Nat) (s : State) : State := fanRows i (fanCells i s)

/-- R28, R30: the entry rolled if it is stale, with its roll change handed to the fan-out. -/
def touch (i : Nat) (s : State) : State :=
  if (s.entry i).stale s.dayNumber then
    fanCellsAndRows i (s.setEntry i ((s.entry i).rolled s.dayNumber))
  else s

end Sys2Proof.Machine
end

