-- ==== Sys2Proof/Machine/Compose.lean ====
section
/-! DEFINITION. What a format job does at its start (R66 to R69): it takes the content, reads what its text
depends on, and forms the text. -/

namespace Sys2Proof.Machine

/-! ### BOARD jobs (R67, R83 to R87) -/

/-- A LAST or CHANGE cell, the only fields that flash (R86, R87). -/
def Field.flashes : Field → Bool
  | .last => true
  | .change => true
  | .symbol => false
  | .volume => false
  | .tick => false
  | .high => false
  | .low => false
  | .close => false

/-- The entry a cell shows: of a bound index that is not FREE (R67, R83). -/
def shownEntry (s : State) (r : Cell) : Option Entry :=
  match r.binding with
  | some i => if (s.entry i).status = .free then none else some (s.entry i)
  | none => none

/-- The outcome of forming a cell: the formed characters, the text with its attributes, and the cell's flash
count after the flash decision. -/
structure CellText where
  formed     : Formed
  text       : BoardText
  flashCount : Nat
deriving DecidableEq, Repr

/-- R87: a flash starts at this job. -/
def flashStarts (period : Nat) (r : Cell) (chars : List BoardChar) : Bool :=
  r.field.flashes && r.tradeMark && decide (0 < period) &&
    match r.prevChars with
    | some p => decide (p ≠ chars)
    | none => false

/-- R83 to R87: what a cell shows, from its record and the entry read. -/
def formCell (period : Nat) (r : Cell) (e : Option Entry) : CellText :=
  match r.hold, e with
  | some h, _ =>
    let chars := leftJustify (.plain ' ') r.width h.text
    { formed := Formed.plain chars, text := withAttributes h.hue h.flash chars, flashCount := r.flashCount }
  | none, none =>
    { formed := Formed.plain (boardSpaces r.width), text := blankText r.width, flashCount := r.flashCount }
  | none, some e =>
    let f := fieldForm r.field r.width e
    let count := if flashStarts period r f.chars then period else r.flashCount
    { formed := f,
      text := withAttributes (fieldHue r.field e) (r.field.flashes && decide (0 < count)) f.chars,
      flashCount := count }

/-- R86: the cell after a job start: mark taken, characters remembered. -/
def Cell.afterJobStart (r : Cell) (t : CellText) : Cell :=
  { r with flashCount := t.flashCount, tradeMark := false, prevChars := some t.formed.chars }

/-- The bound entry of a cell read, and rolled first if stale (R30). -/
def touchBinding (r : Cell) (s : State) : State :=
  match r.binding with
  | some i => touch i s
  | none => s

/-- The job in flight. -/
def State.setJob (s : State) (j : Job) : State := s.setFU { s.fu with job := some j }

/-- R67: the start of a BOARD job for the head cell of a line's queue. The cell leaves the queue and its
needs_full flag is cleared before the entry is read, so a roll at the read queues the cell again (R30). -/
def startBoardJob (line : Nat) (s : State) : State :=
  match s.refreshQueue line with
  | [] => s
  | c :: rest =>
    let full := (s.cell c).needsFull
    let s1 := (s.setQueue line rest).setCell c { s.cell c with needsFull := false }
    let s2 := touchBinding (s1.cell c) s1
    let t := formCell s2.flashPeriod (s2.cell c) (shownEntry s2 (s2.cell c))
    (((s2.setCell c ((s2.cell c).afterJobStart t)).advance .bdCoarsened t.formed.coarsened).advance
      .bdOverflow t.formed.overflow).setJob (.board line (c % 64) t.text full)

/-! ### RIBBON jobs (R68, R126 to R128) -/

/-- R128: the LATE figure to write for a measured lag, if one is written. -/
def lateToWrite (r : Ribbon) (lag : Nat) : Option Nat :=
  if lag < 60 then none
  else if r.lateFigure ≠ some (lag / 60) ∨ r.lateAge = 120 then some (lag / 60)
  else none

/-- R17, R127: the index of an anchor print: a trade print in DIGITS or SAMPLE whose anchor bit is clear. -/
def anchorOf (r : Ribbon) (b : PrintBody) : Option Nat :=
  match b.tradeIndex with
  | some i => if (r.mode = .digits ∨ r.mode = .sample) ∧ i ∉ r.anchors then some i else none
  | none => none

/-- The anchor bit of a print's instrument is set. -/
def anchoredFor (r : Ribbon) (b : PrintBody) : Bool :=
  match b.tradeIndex with
  | some i => decide (i ∈ r.anchors)
  | none => false

/-- R127: the job a record gives on a ribbon, once the mode has been evaluated. -/
def ribbonJob (id : RibbonId) (r : Ribbon) (lag : Nat) (b : PrintBody) : Job :=
  let late := lateToWrite r lag
  .ribbon id late (match late with | some n => lateText n | none => [])
    (printText r.mode r.trim (if late.isSome then none else r.preceding) (anchoredFor r b) b)
    (anchorOf r b) b.tradeIndex false

/-- R126: the record a ribbon job takes, with how many records the head-skip discards before it. -/
def takeRecord (r : Ribbon) : Nat × List PrintRecord :=
  if r.mode = .sample then headSkip r.queue else (0, r.queue)

/-- R68, R126, R127: print start. -/
def startRibbonJob (id : RibbonId) (s : State) : State :=
  let r := s.ribbon id
  match (takeRecord r).2 with
  | [] => s
  | rec :: rest =>
    let s1 := (s.setRibbon id { r with queue := rest }).advance .rbSkipped (takeRecord r).1
    let s2 := evalMode id s1
    let r2 := s2.ribbon id
    let lag := measuredLag s2.clock.second rec.arrival
    let s3 := if lag < 60 then s2.setRibbon id { r2 with lateFigure := none } else s2
    s3.setJob (ribbonJob id r2 lag rec.body)

/-! ### TERMINAL jobs (R63, R69, R152, R162, R173, R176) -/

/-- The block R152 composes next for a terminal. -/
inductive BlockChoice where
  | reply
  | bell (slot : Nat)
  | page
  | status
  | idle
  | rows
deriving DecidableEq, Repr

/-- The state allows a block to be sent (R139). -/
def Terminal.served (t : Terminal) : Bool := decide (t.state = .active) || decide (t.state = .lapsed)

/-- R176: the lowest-numbered alert FIRED and not yet in a block. -/
def Terminal.bellDue (t : Terminal) : Option Nat :=
  (List.range 4).find? (fun n => decide ((t.alert n).state = .fired) && !(t.alert n).marked)

/-- R152: the first of the six that the terminal has. -/
def Terminal.choice (t : Terminal) : Option BlockChoice :=
  if t.record.state = .answered then some .reply
  else
    match t.bellDue with
    | some n => some (.bell n)
    | none =>
      if t.state = .active ∧ t.fullPage then some .page
      else if t.statusOwed then some .status
      else if t.state = .lapsed ∧ t.idleOwed then some .idle
      else if t.state = .active ∧ t.rows ≠ [] then some .rows
      else none

/-- R63: an eligible terminal. -/
def Terminal.eligible (t : Terminal) : Bool := t.served && t.outBlock.isNone && t.choice.isSome

/-- The instrument at a row of a terminal's current page, none for an empty row (9.1). -/
def Terminal.rowIndex (t : Terminal) (row : Nat) : Option Nat := t.watchList[12 * t.page + row]?

/-- R162: the text of a row that shows an instrument or is empty. -/
def rowOf (s : State) : Option Nat → Text
  | some i => rowText (s.entry i)
  | none => emptyRow

/-- The entries of some rows read, each rolled first if stale. DESIGN CHOICE: they are read in ascending row order, and
several that are stale are rolled, and their cells offered, in that order, which R69 and R80 leave open (log entry 6). -/
def touchAll (l : List (Option Nat)) (s : State) : State :=
  forEach l (fun o s => match o with | some i => touch i s | none => s) s

/-- R173: the details an ACCEPTED result carries, other than a quote's row. -/
def replyDetail (req : DealerRequest) (res : DealerResult) : ReplyDetail :=
  match req.kind with
  | some .watchAdd => match res.position with | some p => .position p | none => .none
  | some .alertSet => match res.conditions with | some c => .conditions c | none => .none
  | _ => .none

/-- R173: the symbol a REPLY block shows. -/
def replySymbol (req : DealerRequest) : Option Text :=
  match req.kind with
  | some .page => none
  | some .resync => none
  | some .alertClear => none
  | _ => req.symbol

/-- R173: the index an ACCEPTED QUOTE-ASK is quoted from. -/
def quotedIndex (req : DealerRequest) (res : DealerResult) : Option Nat :=
  if req.kind = some .quoteAsk ∧ res.code = .accepted then res.index else none

/-- R173: the code and details of a REPLY block; a quote whose instrument is gone carries UNKNOWN and no row. -/
def replyContent (s : State) (req : DealerRequest) (res : DealerResult) : ReplyCode × ReplyDetail :=
  match quotedIndex req res with
  | some i =>
    if (s.entry i).status = .free ∨ req.symbol ≠ some (s.entry i).symbol then (.unknown, .none)
    else (.accepted, .row (rowText (s.entry i)))
  | none => (res.code, if res.code = .accepted then replyDetail req res else .none)

/-- A request with no item, which a record without one is read as. -/
def DealerRequest.blank : DealerRequest :=
  { kind := none, page := none, symbol := none, position := none, slot := none, above := none,
    below := none, minSize := none }

/-- A result with a code alone. -/
def DealerResult.ofCode (c : ReplyCode) : DealerResult :=
  { code := c, position := none, index := none, conditions := none }

/-- R152, R173: a REPLY block composed; the record becomes SENT. DESIGN CHOICE: the reply to a request of no kind of TABLE
9-2 carries no kind (log entry 44). -/
def composeReply (n : Nat) (s : State) : Block × State :=
  let t := s.term n
  let req := t.record.request.getD DealerRequest.blank
  let res := t.record.result.getD (DealerResult.ofCode .unknown)
  let s1 := s.setTerm n { t with record := { t.record with state := .sent } }
  let s2 := touchAll [quotedIndex req res] s1
  let content := replyContent s2 req res
  (.reply { kind := req.kind, symbol := replySymbol req, slot := req.slot, page := req.page,
            code := content.1, detail := content.2 }, s2)

/-- R176: a BELL block composed for an alert; its block mark is set. -/
def composeBell (n slot : Nat) (s : State) : Block × State :=
  let a := (s.term n).alert slot
  let s1 := s.setTerm n ((s.term n).setAlert slot { a with marked := true })
  let s2 := touchAll [a.instrument] s1
  let f := a.fired.getD { price := 0, size := 0, second := 0 }
  (.bell { slot := slot
           symbol := match a.instrument with | some i => (s2.entry i).symbol | none => []
           price := plainPrice f.price, size := digits f.size
           hours := f.second / 3600, minutes := f.second % 3600 / 60, seconds := f.second % 60
           conditions := a.conditions }, s2)

/-- R152, R162: a PAGE block composed: twelve rows of the current page and the session state. DEDUCED: the pending-row
set is emptied before stale entries are rolled, so a row that the job's own roll marks is pending again (R30, R159,
log entry 26). -/
def composePage (n : Nat) (s : State) : Block × State :=
  let t := s.term n
  let s1 := s.setTerm n { t with fullPage := false, statusOwed := false, rows := [] }
  let shown := (List.range 12).map t.rowIndex
  let s2 := touchAll shown s1
  (.page t.page (shown.map (rowOf s2)) s.session.state, s2)

/-- R152: a STATUS block composed. -/
def composeStatus (n : Nat) (s : State) : Block × State :=
  (.status s.session.state s.clock.second, s.setTerm n { s.term n with statusOwed := false })

/-- R152: an IDLE block composed. -/
def composeIdle (n : Nat) (s : State) : Block × State :=
  (.idle, s.setTerm n { s.term n with idleOwed := false })

/-- R152, R162: a ROWS block composed of up to four pending rows, lowest first. DEDUCED: the rows leave the set before
stale entries are rolled, so a row that the job's own roll marks is pending again (R30, R159, log entry 26). -/
def composeRows (n : Nat) (s : State) : Block × State :=
  let t := s.term n
  let taken := t.rows.take 4
  let s1 := s.setTerm n { t with rows := t.rows.drop 4 }
  let s2 := touchAll (taken.map t.rowIndex) s1
  (.rows (taken.map (fun r => (r, rowOf s2 (t.rowIndex r)))), s2)

/-- The block of a choice composed. -/
def compose (n : Nat) (c : BlockChoice) (s : State) : Block × State :=
  match c with
  | .reply => composeReply n s
  | .bell slot => composeBell n slot s
  | .page => composePage n s
  | .status => composeStatus n s
  | .idle => composeIdle n s
  | .rows => composeRows n s

/-- R63: the addresses of a line after its compose pointer, wrapping from 15 to 0. -/
def afterPointer (p : Nat) : List Nat := (List.range 16).map (fun k => (p + 1 + k) % 16)

/-- R63: the terminal a TERMINAL job of a line serves. -/
def nextEligible (line : Nat) (s : State) : Option Nat :=
  (afterPointer (s.tline line).compose).find? (fun a => (s.term (termNo line a)).eligible)

/-- R69: the start of a TERMINAL job. -/
def startTerminalJob (line : Nat) (s : State) : State :=
  match nextEligible line s with
  | none => s
  | some addr =>
    match (s.term (termNo line addr)).choice with
    | none => s
    | some c =>
      let s1 := s.setTLine line { s.tline line with compose := addr }
      let made := compose (termNo line addr) c s1
      made.2.setJob (.terminal line addr made.1 .kept)

end Sys2Proof.Machine
end

