-- ==== Sys2Proof/Machine/Arbiter.lean ====
section
/-! DEFINITION. The arbiter (R61 to R65) and the frame every command's effect stands in. -/

namespace Sys2Proof.Machine

/-! ### Requests (R61 to R63) -/

/-- R61. -/
def boardRequests (line : Nat) (s : State) : Bool :=
  decide ((s.line line).state = .lit) && !(s.refreshQueue line).isEmpty

/-- R62. -/
def ribbonRequests (id : RibbonId) (s : State) : Bool :=
  decide ((s.ribbon id).state = .running) && !(s.ribbon id).queue.isEmpty &&
    decide ((s.ribbon id).fifo.length ≤ Config.fifoRequestLimit)

/-- R63. -/
def tlineRequests (line : Nat) (s : State) : Bool := (nextEligible line s).isSome

/-- The requester at a position of TABLE 4-2 requests. -/
def requests (p : Nat) (s : State) : Bool :=
  if p < 8 then boardRequests p s
  else if p = 8 then ribbonRequests .a s
  else if p = 9 then ribbonRequests .b s
  else tlineRequests (p - 10) s

/-- R62: a requesting ribbon with fewer than 16 FIFO characters. -/
def ribbonUrgent (id : RibbonId) (s : State) : Bool :=
  ribbonRequests id s && decide ((s.ribbon id).fifo.length < Config.fifoUrgentLimit)

/-- The requester at a position is URGENT; only ribbons ever are. -/
def urgent (p : Nat) (s : State) : Bool :=
  if p = 8 then ribbonUrgent .a s else if p = 9 then ribbonUrgent .b s else false

/-- The start of the job of a granted requester (R66). -/
def startJob (p : Nat) (s : State) : State :=
  if p < 8 then startBoardJob p s
  else if p = 8 then startRibbonJob .a s
  else if p = 9 then startRibbonJob .b s
  else startTerminalJob (p - 10) s

/-! ### Decisions (R64, R65) -/

/-- R65, step 1: an urgency grant. -/
def grantUrgent (p : Nat) (s : State) : State :=
  if s.fu.holder = some p ∧ s.fu.runCount < s.fu.runLength then
    startJob p (s.setFU { s.fu with runCount := s.fu.runCount + 1 })
  else
    startJob p ((s.setFU { s.fu with holder := some p, runCount := 1 }).count .fuUrgentGrants)

/-- R65, step 2: the run goes on. -/
def grantRun (p : Nat) (s : State) : State :=
  startJob p (s.setFU { s.fu with runCount := s.fu.runCount + 1 })

/-- R65, step 3: a round-robin grant. -/
def grantRound (p : Nat) (s : State) : State :=
  startJob p (s.setFU { s.fu with pointer := p, holder := some p, runCount := 1 })

/-- The positions after the pointer in circular order, the pointer itself last (R65). -/
def roundOrder (pointer : Nat) : List Nat := (List.range 14).map (fun k => (pointer + 1 + k) % 14)

/-- R64: no requester requests: the unit is IDLE with no run holder and a run count of 0. -/
def goIdle (s : State) : State := s.setFU { s.fu with holder := none, runCount := 0 }

/-- R65, step 2: the run holder's position, when its run goes on. -/
def runGoesOn (s : State) : Option Nat :=
  match s.fu.holder with
  | some h => if requests h s ∧ s.fu.runCount < s.fu.runLength then some h else none
  | none => none

/-- R65: a decision at a job completion. -/
def arbitrate (s : State) : State :=
  if urgent 8 s then grantUrgent 8 s
  else if urgent 9 s then grantUrgent 9 s
  else
    match runGoesOn s with
    | some h => grantRun h s
    | none =>
      match (roundOrder s.fu.pointer).find? (fun p => requests p s) with
      | some p => grantRound p s
      | none => goIdle s

/-- The positions that request. -/
def requesters (s : State) : List Nat := (List.range 14).filter (fun p => requests p s)

/-- R64, R65: a decision of an IDLE unit for the one requester asking: there is no run, so it is granted by
urgency or by round robin. -/
def grantIdle (p : Nat) (s : State) : State :=
  if urgent p s then grantUrgent p s else grantRound p s

/-- R72: the unit is IDLE with a requester requesting. Every other decision leaves no requester unserved, so only a
RESTART leaves a state so. -/
def awaitsDecision (s : State) : Bool := s.fu.job.isNone && !(requesters s).isEmpty

/-- R64, R72: the decision of an IDLE unit at an event that found the state `before`. After a RESTART the first event
decides among all that request, by R65. Otherwise the event itself has made a requester request; when it makes several,
either may be taken first: which one is a free value (log entry 5). While a job is in flight there is no decision. -/
def settle (before s : State) : State :=
  match s.fu.job with
  | some _ => s
  | none =>
    if awaitsDecision before then arbitrate s
    else
      match requesters s with
      | [] => goIdle s
      | [p] => grantIdle p s
      | ps => grantIdle (ps.getD (Config.freeChoice s.free % ps.length) 0) (s.setFree (s.free + 1))

/-! ### The frame of a command -/

/-- R199: the transmitter is idle with nothing waiting. -/
def quietLink (s : State) : Bool :=
  s.link.tx.isNone && s.link.replies.isEmpty && s.link.notices.isEmpty

/-- R199: a reply and a notice item that appear together while the transmitter is idle may be taken in either
order; the mark says so until a frame is taken (log entry 21). -/
def noteTogether (before s : State) : State :=
  s.setLink { s.link with
    noticeMayLead := s.link.tx.isNone && !s.link.replies.isEmpty && !s.link.notices.isEmpty &&
      (before.link.noticeMayLead || quietLink before) }

/-- What follows a command's own effect: the arbiter's decision when the unit is IDLE (R64), and the transmitter's note
of what appeared together (R199). -/
def finish (before s : State) : State := noteTogether before (settle before s)

/-- A command's effect `f`. While RESET is asserted nothing but the RESET pin has an effect (R207). -/
def act (f : State → State) (s : State) : Host.Outcome State Fault Refusal :=
  if s.resetAsserted then .next s else .next (finish s (f s))

/-- The effect `f` of a command at which the arbiter makes no decision: a query that changes nothing (R73, R92, R136,
R157), and a RESTART, which leaves the unit IDLE (R72, log entry 36). -/
def actUndecided (f : State → State) (s : State) : Host.Outcome State Fault Refusal :=
  if s.resetAsserted then .next s else .next (noteTogether s (f s))

end Sys2Proof.Machine
end

