-- ==== Sys2Proof/Machine/Operands.lean ====
section
/-! DEFINITION. The operand forms of the host requests: request kinds, reason codes, and the fields of a request body
(TABLES 11-1 to 11-3). A reader of a body answers none when the body has not the shape its kind requires (R197). -/

namespace Sys2Proof.Machine

/-! ### Request kinds and reason codes -/

/-- The host request kinds (TABLE 11-3). -/
inductive HostKind where
  | list
  | delist
  | trade
  | quote
  | closeSet
  | halt
  | resume
  | sessionSet
  | timeSet
  | schedSet
  | bind
  | unbind
  | hold
  | release
  | lineSet
  | lineWake
  | boardSet
  | ribbonSet
  | formatSet
  | termAdmit
  | termRetire
  | tlineSet
  | windowSet
  | referAnswer
  | askStatus
  | askInstrument
  | askCell
  | askTerminal
  | askRibbon
  | askCounters
  | clearCounters
  | restart
deriving DecidableEq, Repr

/-- The kind byte of a request (TABLE 11-3). -/
def HostKind.code : HostKind → Byte
  | .list => 0x20
  | .delist => 0x21
  | .trade => 0x22
  | .quote => 0x23
  | .closeSet => 0x24
  | .halt => 0x25
  | .resume => 0x26
  | .sessionSet => 0x30
  | .timeSet => 0x31
  | .schedSet => 0x32
  | .bind => 0x40
  | .unbind => 0x41
  | .hold => 0x42
  | .release => 0x43
  | .lineSet => 0x44
  | .lineWake => 0x45
  | .boardSet => 0x46
  | .ribbonSet => 0x50
  | .formatSet => 0x51
  | .termAdmit => 0x60
  | .termRetire => 0x61
  | .tlineSet => 0x62
  | .windowSet => 0x70
  | .referAnswer => 0x71
  | .askStatus => 0x80
  | .askInstrument => 0x81
  | .askCell => 0x82
  | .askTerminal => 0x83
  | .askRibbon => 0x84
  | .askCounters => 0x85
  | .clearCounters => 0x90
  | .restart => 0x91

/-- Every request kind. -/
def HostKind.all : List HostKind :=
  [.list, .delist, .trade, .quote, .closeSet, .halt, .resume, .sessionSet, .timeSet, .schedSet, .bind, .unbind,
   .hold, .release, .lineSet, .lineWake, .boardSet, .ribbonSet, .formatSet, .termAdmit, .termRetire, .tlineSet,
   .windowSet, .referAnswer, .askStatus, .askInstrument, .askCell, .askTerminal, .askRibbon, .askCounters,
   .clearCounters, .restart]

/-- A kind byte of TABLE 11-3. -/
def knownKind (b : Byte) : Bool := HostKind.all.any (fun k => decide (k.code = b))

/-- The reason codes (TABLE 11-1). -/
inductive Reason where
  | malformed
  | range
  | unknown
  | duplicate
  | state
  | session
  | halted
  | stale
  | noroom
  | full
deriving DecidableEq, Repr

/-- The code of a reason (TABLE 11-1). -/
def Reason.code : Reason → Byte
  | .malformed => 1
  | .range => 2
  | .unknown => 3
  | .duplicate => 4
  | .state => 5
  | .session => 6
  | .halted => 7
  | .stale => 8
  | .noroom => 9
  | .full => 10

/-! ### Fields (TABLE 11-2) -/

/-- A number sent most significant byte first (R192). -/
def numberOf (bytes : List Byte) : Nat := bytes.foldl (fun n b => n * 256 + b.toNat) 0

/-- A price or size field of three bytes: none for the absent marker 0xFFFFFF. -/
def markedOf (bytes : List Byte) : Option Nat :=
  if numberOf bytes = 0xFFFFFF then none else some (numberOf bytes)

/-- A flag: 0 is clear, any other value set. -/
def flagOf (b : Byte) : Bool := decide (b ≠ 0)

/-- A symbol field: seven bytes, padded with spaces at the right. -/
def symbolOf (bytes : List Byte) : Text :=
  ((bytes.map (fun b => Char.ofNat b.toNat)).reverse.dropWhile (fun c => decide (c = ' '))).reverse

/-- The sixteenths of the glyphs 0x82 to 0x90, in code order (TABLE 11-2): 1/2; 1/4, 3/4; the eighths; the odd
sixteenths. -/
def glyphOrder : List Nat := [8, 4, 12, 2, 6, 10, 14, 1, 3, 5, 7, 9, 11, 13, 15]

/-- A board character code, none when it is no board character (0.4.6, TABLE 11-2). -/
def boardCharOf (b : Byte) : Option BoardChar :=
  let n := b.toNat
  if n = 0x80 then some .upArrow
  else if n = 0x81 then some .downArrow
  else if 0x82 ≤ n ∧ n ≤ 0x90 then (glyphOrder[n - 0x82]?).map BoardChar.glyph
  else if (0x30 ≤ n ∧ n ≤ 0x39) ∨ (0x41 ≤ n ∧ n ≤ 0x5A) ∨ n = 0x20 ∨ n = 0x2B ∨ n = 0x2D ∨ n = 0x2F ∨ n = 0x2E then
    some (.plain (Char.ofNat n))
  else none

/-- Session states numbered as TABLE 3-3 orders them. -/
def sessionStateOf (n : Nat) : Option SessionState :=
  [SessionState.closed, .preOpen, .opened, .haltedAll, .after][n]?

/-- Fields numbered as TABLE 5-1 orders them. -/
def fieldOf (n : Nat) : Option Field :=
  [Field.symbol, .last, .change, .volume, .tick, .high, .low, .close][n]?

/-- HUEs as TABLE 11-2 numbers them. -/
def hueOfCode (n : Nat) : Option Hue := [Hue.white, .green, .red][n]?

/-- A ribbon: 0 is A, 1 is B. -/
def ribbonOf (n : Nat) : Option RibbonId := [RibbonId.a, .b][n]?

/-- A poll mode as TABLE 8-1 orders them. -/
def pollModeOf (n : Nat) : Option PollMode := [PollMode.continuous, .quiet][n]?

/-- The LINE-SET target (11.5). -/
inductive LineTarget where
  | off
  | lit
  | dark
  | unchanged
deriving DecidableEq, Repr

/-- The LINE-SET target as 11.5 numbers it. -/
def lineTargetOf (n : Nat) : Option LineTarget := [LineTarget.off, .lit, .dark, .unchanged][n]?

/-- The RIBBON-SET enable (11.5). -/
inductive RibbonEnable where
  | on
  | off
  | unchanged
deriving DecidableEq, Repr

/-- The RIBBON-SET enable as 11.5 numbers it. -/
def ribbonEnableOf (n : Nat) : Option RibbonEnable := [RibbonEnable.on, .off, .unchanged][n]?

/-! ### Bodies (TABLE 11-3) -/

/-- A side of a QUOTE: wholly present, wholly absent, or half-present, which is MALFORMED (R3). -/
def sideOf (price size : Option Nat) : Option (Option Side) :=
  match price, size with
  | some p, some z => some (some { price := p, size := z })
  | none, none => some none
  | _, _ => none

/-- A body of no field. -/
def readNone : List Byte → Option Unit
  | [] => some ()
  | _ => none

/-- A body of one byte. -/
def read1 : List Byte → Option Nat
  | [a] => some a.toNat
  | _ => none

/-- A body of two one-byte fields. -/
def read2 : List Byte → Option (Nat × Nat)
  | [a, b] => some (a.toNat, b.toNat)
  | _ => none

/-- A body of one index. -/
def readIndex : List Byte → Option Nat
  | [a, b] => some (numberOf [a, b])
  | _ => none

/-- The body of a LIST. -/
structure ListBody where
  index  : Nat
  symbol : Text
  denom  : Nat
  lot    : Nat
  cls    : Nat
deriving DecidableEq, Repr

/-- LIST: index, symbol, D, L, class. -/
def readList : List Byte → Option ListBody
  | [i1, i0, a, b, c, d, e, f, g, dn, lt, cl] =>
    some { index := numberOf [i1, i0], symbol := symbolOf [a, b, c, d, e, f, g], denom := dn.toNat,
           lot := lt.toNat, cls := cl.toNat }
  | _ => none

/-- The body of a TRADE. -/
structure TradeBody where
  index : Nat
  price : Nat
  size  : Nat
deriving DecidableEq, Repr

/-- TRADE: index, price, size; both are required. -/
def readTrade : List Byte → Option TradeBody
  | [i1, i0, p2, p1, p0, z2, z1, z0] =>
    match markedOf [p2, p1, p0], markedOf [z2, z1, z0] with
    | some p, some z => some { index := numberOf [i1, i0], price := p, size := z }
    | _, _ => none
  | _ => none

/-- The body of a QUOTE. -/
structure QuoteBody where
  index : Nat
  bid   : Option Side
  ask   : Option Side
deriving DecidableEq, Repr

/-- QUOTE: index, bid price, bid size, ask price, ask size. -/
def readQuote : List Byte → Option QuoteBody
  | [i1, i0, p2, p1, p0, z2, z1, z0, q2, q1, q0, y2, y1, y0] =>
    match sideOf (markedOf [p2, p1, p0]) (markedOf [z2, z1, z0]),
          sideOf (markedOf [q2, q1, q0]) (markedOf [y2, y1, y0]) with
    | some b, some a => some { index := numberOf [i1, i0], bid := b, ask := a }
    | _, _ => none
  | _ => none

/-- CLOSE-SET: index, price, absent allowed. -/
def readCloseSet : List Byte → Option (Nat × Option Nat)
  | [i1, i0, p2, p1, p0] => some (numberOf [i1, i0], markedOf [p2, p1, p0])
  | _ => none

/-- The body of a TIME-SET. -/
structure TimeBody where
  second  : Nat
  weekday : Nat
  day     : Nat
  month   : Nat
  year    : Nat
deriving DecidableEq, Repr

/-- TIME-SET: second of day, weekday, day, month, year. -/
def readTimeSet : List Byte → Option TimeBody
  | [s2, s1, s0, w, d, m, y] =>
    some { second := numberOf [s2, s1, s0], weekday := w.toNat, day := d.toNat, month := m.toNat, year := y.toNat }
  | _ => none

/-- The body of a SCHED-SET, as sent. -/
structure SchedBody where
  entry        : Nat
  enabled      : Bool
  hour         : Nat
  hourMatch    : Bool
  minute       : Nat
  minuteMatch  : Bool
  selectorType : Nat
  selectorByte : Byte
  dayMatch     : Bool
  target       : Nat
deriving DecidableEq, Repr

/-- SCHED-SET: entry, enabled, hour, hour match, minute, minute match, selector type, set or date, day match, target. -/
def readSchedSet : List Byte → Option SchedBody
  | [n, en, h, hm, m, mm, ty, sel, dm, tg] =>
    some { entry := n.toNat, enabled := flagOf en, hour := h.toNat, hourMatch := flagOf hm, minute := m.toNat,
           minuteMatch := flagOf mm, selectorType := ty.toNat, selectorByte := sel, dayMatch := flagOf dm,
           target := tg.toNat }
  | _ => none

/-- The body of a BIND. -/
structure BindBody where
  line  : Nat
  slot  : Nat
  index : Nat
  field : Nat
  width : Nat
deriving DecidableEq, Repr

/-- BIND: line, slot, index, field, W. -/
def readBind : List Byte → Option BindBody
  | [l, k, i1, i0, f, w] =>
    some { line := l.toNat, slot := k.toNat, index := numberOf [i1, i0], field := f.toNat, width := w.toNat }
  | _ => none

/-- The body of a HOLD. -/
structure HoldBody where
  line  : Nat
  slot  : Nat
  hue   : Nat
  flash : Bool
  text  : List Byte
deriving DecidableEq, Repr

/-- HOLD: line, slot, HUE, flash flag, text count n, n board characters; the length agrees with the count (R197). -/
def readHold : List Byte → Option HoldBody
  | l :: k :: h :: f :: n :: text =>
    if text.length = n.toNat then
      some { line := l.toNat, slot := k.toNat, hue := h.toNat, flash := flagOf f, text := text }
    else none
  | _ => none

/-- The body of a LINE-SET, as sent. -/
structure LineBody where
  line      : Nat
  size      : Nat
  offset    : Nat
  enabled   : List Nat
  rate      : Nat
  darkDelay : Nat
  target    : Nat
deriving DecidableEq, Repr

/-- The slot enable set: slot 0 in the least significant bit of the last byte. -/
def slotSetOf (bytes : List Byte) : List Nat :=
  (List.range 64).filter (fun k => (numberOf bytes).testBit k)

/-- LINE-SET: line, S, O, slot enable set, frame rate, dark delay, target. -/
def readLineSet : List Byte → Option LineBody
  | [l, sz, o, e7, e6, e5, e4, e3, e2, e1, e0, r, d, t] =>
    some { line := l.toNat, size := sz.toNat, offset := o.toNat,
           enabled := slotSetOf [e7, e6, e5, e4, e3, e2, e1, e0], rate := r.toNat, darkDelay := d.toNat,
           target := t.toNat }
  | _ => none

/-- The body of a RIBBON-SET, as sent. -/
structure RibbonBody where
  ribbon : Nat
  mask   : Byte
  rate   : Nat
  up1    : Nat
  up2    : Nat
  up3    : Nat
  trim   : Nat
  enable : Nat
deriving DecidableEq, Repr

/-- RIBBON-SET: ribbon, class mask, R, Up1, Up2, Up3, T, enable. -/
def readRibbonSet : List Byte → Option RibbonBody
  | [r, m, rt, a1, a0, b1, b0, c1, c0, t, e] =>
    some { ribbon := r.toNat, mask := m, rate := rt.toNat, up1 := numberOf [a1, a0], up2 := numberOf [b1, b0],
           up3 := numberOf [c1, c0], trim := t.toNat, enable := e.toNat }
  | _ => none

/-- TERM-ADMIT: line, address, exempt. -/
def readTermAdmit : List Byte → Option (Nat × Nat × Bool)
  | [l, a, x] => some (l.toNat, a.toNat, flagOf x)
  | _ => none

/-- The body of a TLINE-SET, as sent. -/
structure TLineBody where
  line          : Nat
  poll          : Nat
  quietInterval : Nat
  slotLimit     : Nat
  retryLimit    : Nat
  lapseTime     : Nat
deriving DecidableEq, Repr

/-- TLINE-SET: line, poll mode, quiet interval, slot time limit, Rl, lapse time. -/
def readTLineSet : List Byte → Option TLineBody
  | [l, p, q, sl, r, la] =>
    some { line := l.toNat, poll := p.toNat, quietInterval := q.toNat, slotLimit := sl.toNat, retryLimit := r.toNat,
           lapseTime := la.toNat }
  | _ => none

/-- The body of a WINDOW-SET, as sent. -/
structure WindowBody where
  window  : Nat
  enabled : Bool
  k       : Nat
  base    : Nat
  kinds   : Byte
  limit   : Nat
deriving DecidableEq, Repr

/-- WINDOW-SET: window, enabled, k, base, kinds, time limit. -/
def readWindowSet : List Byte → Option WindowBody
  | [w, e, k, b1, b0, ks, t] =>
    some { window := w.toNat, enabled := flagOf e, k := k.toNat, base := numberOf [b1, b0], kinds := ks,
           limit := t.toNat }
  | _ => none

end Sys2Proof.Machine
end

