-- ==== Sys2Proof/Machine/Encode.lean ====
section
/-! DEFINITION. The bytes of replies and notices (TABLES 11-2 to 11-4, R192). Items whose layout TABLE 11-2 does not
state go through the free value `Config.layout` (log entry 13). -/

namespace Sys2Proof.Machine

/-! ### Fields (TABLE 11-2) -/

/-- A number in `k` bytes, most significant byte first. -/
def numBytes : Nat → Nat → List Byte
  | 0, _ => []
  | k + 1, n => byteOf (n / 256 ^ k % 256) :: numBytes k n

/-- A flag byte. DESIGN CHOICE: TABLE 11-2 has any value but 0 say set or on, and the model sends 1 (log entry 46). -/
def flagByte (b : Bool) : List Byte := [if b then 1 else 0]

/-- An index. -/
def indexBytes (i : Nat) : List Byte := numBytes 2 i

/-- A price or a size, 0xFFFFFF when absent. -/
def markedBytes : Option Nat → List Byte
  | some n => numBytes 3 n
  | none => numBytes 3 0xFFFFFF

/-- A symbol: seven characters, left-justified, padded with spaces. -/
def symbolBytes (s : Text) : List Byte := (leftJustify ' ' 7 s).map (fun c => byteOf c.toNat)

/-- An optional item: a flag byte, then the item, sent as 0 when the flag is 0. DESIGN CHOICE: the flag of an item that
is there is 1 (log entry 46). -/
def optBytes {α : Type} (size : Nat) (f : α → List Byte) : Option α → List Byte
  | none => List.replicate (size + 1) 0
  | some a => 1 :: f a

/-- A slot enable set: slot 0 in the least significant bit of the last byte. -/
def slotSetBytes (l : List Nat) : List Byte := numBytes 8 ((l.map (fun k => 2 ^ k)).sum)

/-- A board character. -/
def boardCharByte : BoardChar → Byte
  | .plain c => byteOf c.toNat
  | .upArrow => 0x80
  | .downArrow => 0x81
  | .glyph k => byteOf (0x82 + (placeOf k glyphOrder).getD 0)

/-- The number of a HUE. -/
def Hue.code : Hue → Nat
  | .white => 0
  | .green => 1
  | .red => 2

/-- A board position: character, then HUE in the low two bits and FLASH in bit 2. -/
def boardPosBytes (p : BoardPos) : List Byte :=
  [boardCharByte p.char, byteOf (p.hue.code + if p.flash then 4 else 0)]

/-- A board text: a count and the positions; empty or UNKNOWN has count 0. -/
def boardTextBytes : Option BoardText → List Byte
  | none => [0]
  | some t => byteOf t.length :: (t.map boardPosBytes).flatten

/-- Items of a list or of a composite that TABLE 11-2 gives no layout for (log entry 13). -/
inductive FreeItem where
  | cellList
  | watchList
  | rowSet
  | dealerRequest
  | dealerResult
  | roundBeforeSlot
deriving DecidableEq, Repr

/-- The number of such an item. -/
def FreeItem.code : FreeItem → Nat
  | .cellList => 0
  | .watchList => 1
  | .rowSet => 2
  | .dealerRequest => 3
  | .dealerResult => 4
  | .roundBeforeSlot => 5

/-- The bytes of such an item, from its encoded parts. -/
def freeBytes (item : FreeItem) (parts : List (List Byte)) : List Byte := Config.layout item.code parts

/-- TABLE 11-2: the rest of an optional item that is absent, sent as 0. How many bytes it has no table gives (log entry
13). -/
def zeroBytes (item : FreeItem) : List Byte := List.replicate (freeBytes item []).length 0

/-! ### Enumerations, numbered from 0 in the order of their tables -/

/-- TABLE 2-1. -/
def EntryStatus.code : EntryStatus → Nat
  | .free => 0
  | .listed => 1
  | .halted => 2

/-- TABLE 2-1. -/
def Tick.code : Tick → Nat
  | .none => 0
  | .up => 1
  | .down => 2
  | .level => 3

/-- TABLE 3-3. -/
def SessionState.code : SessionState → Nat
  | .closed => 0
  | .preOpen => 1
  | .opened => 2
  | .haltedAll => 3
  | .after => 4

/-- 3.1. -/
def ClockState.code : ClockState → Nat
  | .unset => 0
  | .running => 1
  | .freeRunning => 2

/-- R54, TABLE 3-2. -/
def SkipReason.code : SkipReason → Nat
  | .walk => 0
  | .illegal => 1

/-- TABLE 5-1. -/
def Field.code : Field → Nat
  | .symbol => 0
  | .last => 1
  | .change => 2
  | .volume => 3
  | .tick => 4
  | .high => 5
  | .low => 6
  | .close => 7

/-- 6.2. -/
def LineState.code : LineState → Nat
  | .off => 0
  | .lit => 1
  | .dark => 2

/-- TABLE 6-3. -/
def Presence.code : Presence → Nat
  | .unknown => 0
  | .present => 1
  | .absent => 2

/-- TABLE 7-1. -/
def RibbonState.code : RibbonState → Nat
  | .off => 0
  | .stopped => 1
  | .running => 2

/-- TABLE 7-1. -/
def Mode.code : Mode → Nat
  | .normal => 0
  | .trim => 1
  | .digits => 2
  | .sample => 3

/-- TABLE 7-3. -/
def PrintBody.kindCode : PrintBody → Nat
  | .trade _ => 0
  | .halt _ _ => 1
  | .resume _ _ => 2
  | .banner _ => 3

/-- 11.5: a ribbon is 0 for A and 1 for B. -/
def RibbonId.code : RibbonId → Nat
  | .a => 0
  | .b => 1

/-- TABLE 8-1. -/
def PollMode.code : PollMode → Nat
  | .continuous => 0
  | .quiet => 1

/-- TABLE 8-2. -/
def TermState.code : TermState → Nat
  | .vacant => 0
  | .joining => 1
  | .active => 2
  | .lapsed => 3
  | .silent => 4

/-- TABLE 8-2: REPLY, BELL, PAGE, STATUS, IDLE, ROWS. -/
def Block.kindCode : Block → Nat
  | .reply _ => 0
  | .bell _ => 1
  | .page _ _ _ => 2
  | .status _ _ => 3
  | .idle => 4
  | .rows _ => 5

/-- TABLE 8-2. -/
def RecordState.code : RecordState → Nat
  | .free => 0
  | .taken => 1
  | .referred => 2
  | .answered => 3
  | .sent => 4

/-- TABLE 9-2. -/
def DealerKind.code : DealerKind → Nat
  | .page => 0
  | .resync => 1
  | .watchAdd => 2
  | .watchDrop => 3
  | .quoteAsk => 4
  | .alertSet => 5
  | .alertClear => 6

/-- TABLE 9-3. -/
def ReplyCode.code : ReplyCode → Nat
  | .accepted => 0
  | .unknown => 1
  | .full => 2
  | .duplicate => 3
  | .denied => 4
  | .noAnswer => 5
  | .wait => 6

/-- TABLE 9-4. -/
def AlertState.code : AlertState → Nat
  | .empty => 0
  | .armed => 1
  | .fired => 2
  | .spent => 3

/-- TABLE 10-1, kinds. -/
def ReferralKind.code : ReferralKind → Nat
  | .watch => 0
  | .quote => 1
  | .alert => 2

/-- TABLE 10-1. -/
def ReferralOutcome.code : ReferralOutcome → Nat
  | .none => 0
  | .granted => 1
  | .denied => 2
  | .expired => 3
  | .cancelled => 4

/-- 11.6. -/
def LoadResult.code : LoadResult → Nat
  | .inProgress => 0
  | .loaded => 1
  | .empty => 2
  | .bad => 3

/-- 11.6. -/
def LoadCause.code : LoadCause → Nat
  | .check => 0
  | .content => 1
  | .noEnd => 2
  | .promSilent => 3

/-- TABLE 4-2: the kind of a job, BOARD, RIBBON, TERMINAL. -/
def Job.kindCode : Job → Nat
  | .board _ _ _ _ => 0
  | .ribbon _ _ _ _ _ _ _ => 1
  | .terminal _ _ _ _ => 2

/-- TABLE 4-2: the position of a job's requester. -/
def Job.requester : Job → Nat
  | .board line _ _ _ => line
  | .ribbon r _ _ _ _ _ _ => 8 + RibbonId.code r
  | .terminal line _ _ _ => 10 + line

/-- An enumeration byte. -/
def enumByte (n : Nat) : List Byte := numBytes 1 n

/-- A counter, four bytes. -/
def counterBytes (s : State) (c : Counter) : List Byte := numBytes 4 (s.counter c)

/-! ### Groups of items several messages carry -/

/-- Second of day, weekday, day, month, year. -/
def timeBytes (c : Clock) : List Byte :=
  numBytes 3 c.second ++ numBytes 1 c.weekday ++ numBytes 1 c.day ++ numBytes 1 c.month ++ numBytes 1 c.year

/-- The session state and the transition record (R57). -/
def sessionBytes (x : Session) : List Byte :=
  enumByte x.state.code ++ enumByte x.left.code ++ enumByte x.entered.code ++ numBytes 3 x.second

/-- A skip record. -/
def skipBytes (r : SkipRecord) : List Byte :=
  numBytes 3 r.second ++ enumByte r.found.code ++ enumByte r.reason.code

/-- A day selector: its type, then the set or the date. -/
def selectorBytes : DaySelector → List Byte
  | .weekdays set => [0, set]
  | .date d => 1 :: numBytes 1 d

/-- A schedule entry in the order of TABLE 3-2, skip record last. -/
def schedBytes (e : SchedEntry) : List Byte :=
  flagByte e.enabled ++ numBytes 1 e.hour ++ flagByte e.hourMatch ++ numBytes 1 e.minute ++ flagByte e.minuteMatch ++
    selectorBytes e.selector ++ flagByte e.dayMatch ++ enumByte e.target.code ++ optBytes 5 skipBytes e.skip

/-- Load result, cause and record number (R204). -/
def loadBytes (l : Loader) : List Byte :=
  enumByte l.result.code ++ optBytes 1 (fun c => enumByte c.code) l.cause ++ optBytes 2 (numBytes 2) l.failing

/-- A symbol as a dealer sent it fits the symbol field. -/
def symbolFits (x : Text) : Bool := decide (x.length ≤ 7) && x.all (fun c => decide (c.toNat < 256))

/-- An item of a dealer request in its field, none when the message lacked it or it does not fit. -/
def fitBytes {α : Type} (fits : α → Bool) (f : α → List Byte) (x : Option α) : Option (List Byte) :=
  match x with
  | some a => if fits a then some (f a) else none
  | none => none

/-- A byte-wide number of a dealer request. -/
def smallItem : Option Nat → Option (List Byte) := fitBytes (fun n => decide (n < 256)) (numBytes 1)

/-- A symbol of a dealer request. -/
def symbolItem : Option Text → Option (List Byte) := fitBytes symbolFits symbolBytes

/-- A condition of an ALERT-SET: the value, then its enable (TABLE 9-2). DEDUCED: a value whose enable is off is sent as the
dealer sent it, since R148 stores the request; R171, by which it is not stored, is read of the alert entry (log entry
14). -/
def conditionItem : Option DealerCondition → Option (List Byte) :=
  fitBytes (fun c => decide (c.value < 2 ^ 24)) (fun c => numBytes 3 c.value ++ flagByte c.enabled)

/-- The optional position of a WATCH-ADD. -/
def positionItem (p : Option Nat) : Option (List Byte) :=
  fitBytes (fun q : Option Nat => decide (q.getD 0 < 256)) (optBytes 1 (numBytes 1)) (some p)

/-- Items one after another, none when one of them is lacking. -/
def joinItems : List (Option (List Byte)) → Option (List Byte)
  | [] => some []
  | none :: _ => none
  | some x :: rest => (joinItems rest).map (x ++ ·)

/-- TABLE 9-2: what a request of a kind carries, in order; none when an item is lacking or fits no field. -/
def requestItems (q : DealerRequest) : DealerKind → Option (List Byte)
  | .page => joinItems [smallItem q.page]
  | .resync => joinItems []
  | .watchAdd => joinItems [symbolItem q.symbol, positionItem q.position]
  | .watchDrop => joinItems [symbolItem q.symbol]
  | .quoteAsk => joinItems [symbolItem q.symbol]
  | .alertSet =>
    joinItems [smallItem q.slot, symbolItem q.symbol, conditionItem q.above, conditionItem q.below,
      conditionItem q.minSize]
  | .alertClear => joinItems [smallItem q.slot]

/-- A request whose form could not be read (R163, step 1), through the free layout (log entry 13). -/
def unreadBytes (q : DealerRequest) : List Byte :=
  freeBytes .dealerRequest
    [optBytes 1 (fun k => enumByte (DealerKind.code k)) q.kind, optBytes 1 (numBytes 1) q.page,
     optBytes 7 symbolBytes q.symbol, optBytes 1 (numBytes 1) q.position, optBytes 1 (numBytes 1) q.slot,
     cond q.above, cond q.below, cond q.minSize]
where
  /-- A condition's enable and value. -/
  cond : Option DealerCondition → List Byte := optBytes 4 (fun c => flagByte c.enabled ++ numBytes 3 c.value)

/-- The items of a dealer request: those of its kind's row of TABLE 9-2, in order. -/
def dealerRequestBytes (q : DealerRequest) : List Byte :=
  match q.kind with
  | some k => (requestItems q k).getD (unreadBytes q)
  | none => unreadBytes q

/-- A request with its kind, numbered by TABLE 9-2; one of no kind of that table through the free layout. -/
def kindedRequestBytes (q : DealerRequest) : List Byte :=
  match q.kind with
  | some k => enumByte (DealerKind.code k) ++ dealerRequestBytes q
  | none => unreadBytes q

/-- The request of a record: an optional item, its kind sent as 0 when it is absent. -/
def recordRequestBytes : Option DealerRequest → List Byte
  | none => 0 :: 0 :: zeroBytes .dealerRequest
  | some q => 1 :: kindedRequestBytes q

/-- The conditions of an alert: above, below, minimum size, each absent when its enable is off. DEDUCED: a present one is
sent as its value, and no byte is sent for the enable that TABLE 9-4 names beside it (log entry 14). -/
def conditionBytes (c : Conditions) : List Byte :=
  markedBytes c.above ++ markedBytes c.below ++ markedBytes c.minSize

/-- The details of a result: a WATCH-ADD's position, an ALERT-SET's conditions, a QUOTE-ASK's index, in a free layout
(log entry 13). -/
def resultDetailBytes (x : DealerResult) : List Byte :=
  freeBytes .dealerResult
    [optBytes 1 (numBytes 1) x.position, optBytes 2 indexBytes x.index, optBytes 9 conditionBytes x.conditions]

/-- The result of a record: an optional item, its reply code numbered by TABLE 9-3, then its details; an absent one is
sent as 0, its code among it. -/
def dealerResultBytes : Option DealerResult → List Byte
  | none => 0 :: 0 :: zeroBytes .dealerResult
  | some x => 1 :: enumByte x.code.code ++ resultDetailBytes x

/-- An alert entry in the order of TABLE 9-4. -/
def alertBytes (a : Alert) : List Byte :=
  enumByte a.state.code ++ optBytes 2 indexBytes a.instrument ++ conditionBytes a.conditions ++
    optBytes 9 (fun f : FiredTrade => numBytes 3 f.price ++ numBytes 3 f.size ++ numBytes 3 f.second) a.fired ++
    flagByte a.marked

/-! ### Replies of the queries (R45, R92, R136, R157, R177, R202, R203) -/

/-- A side of the quote: price and size, each with its absent marker. -/
def sideBytes (x : Option Side) : List Byte :=
  markedBytes (x.map Side.price) ++ markedBytes (x.map Side.size)

/-- ASK-INSTRUMENT (R45): state and cell list of a FREE index, every field of TABLE 2-1 of any other. -/
def instrumentBytes (e : Entry) : List Byte :=
  let cells := freeBytes .cellList (e.cells.map (numBytes 2))
  if e.status = .free then enumByte e.status.code ++ cells
  else
    enumByte e.status.code ++ symbolBytes e.symbol ++ numBytes 1 e.denom ++ numBytes 1 e.lot ++ numBytes 1 e.cls ++
      markedBytes e.prevClose ++ markedBytes e.last ++ markedBytes e.opening ++ markedBytes e.high ++
      markedBytes e.low ++ numBytes 4 e.dayVolume ++ numBytes 3 e.lastSize ++ enumByte e.tick.code ++
      sideBytes e.bid ++ sideBytes e.ask ++ flagByte e.firstPending ++ numBytes 1 e.dayStamp ++
      numBytes 1 e.watchers ++ cells

/-- A hold in the order of TABLE 5-1; its text as a board text with the hold's attributes (log entry 14). -/
def holdBytes (h : Option Hold) : List Byte :=
  match h with
  | none => [0, 0, 0, 0]
  | some x =>
    1 :: boardTextBytes (some (withAttributes x.hue x.flash x.text)) ++ enumByte x.hue.code ++ flagByte x.flash

/-- The cell part of ASK-CELL (R92): TABLE 5-1 in order, then the place in the refresh queue. The previous characters
are an optional item of W board characters. -/
def cellBytes (line slot : Nat) (s : State) : List Byte :=
  let c := s.cell (cellNo line slot)
  optBytes 2 indexBytes c.binding ++ enumByte c.field.code ++ numBytes 1 c.width ++ holdBytes c.hold ++
    numBytes 1 c.flashCount ++ flagByte c.tradeMark ++
    optBytes c.width (fun cs : List BoardChar => cs.map boardCharByte) c.prevChars ++ flagByte c.needsFull ++
    optBytes 1 (numBytes 1) (placeOf (cellNo line slot) (s.refreshQueue line))

/-- The slot part of ASK-CELL (R111). -/
def slotBytes (line slot : Nat) (s : State) : List Byte :=
  let r := s.slotState (cellNo line slot)
  let l := s.line line
  flagByte (decide (slot ∈ l.enabled)) ++ numBytes 1 (l.offset + slot) ++ boardTextBytes r.staging ++
    boardTextBytes r.shown ++ enumByte r.presence.code ++ flagByte r.changed

/-- A slot is in progress for a terminal. -/
def slotInProgress (line addr : Nat) (s : State) : Bool :=
  match (s.tline line).slot with
  | some x => decide (x.address = addr)
  | none => false

/-- The terminal part of ASK-TERMINAL (R157): TABLE 8-2 in order, then whether a slot is in progress. DESIGN CHOICE:
READY sent, true or false, is sent as a flag, true as 1 (log entry 46). -/
def terminalBytes (line addr : Nat) (s : State) : List Byte :=
  let t := s.term (termNo line addr)
  enumByte t.state.code ++ flagByte t.exempt ++ numBytes 1 t.retry ++ numBytes 2 t.lapse ++
    optBytes 1 (fun b => enumByte (Block.kindCode b)) t.outBlock ++ enumByte t.record.state.code ++
    recordRequestBytes t.record.request ++ dealerResultBytes t.record.result ++ flagByte t.fullPage ++
    flagByte t.statusOwed ++ flagByte t.idleOwed ++ flagByte t.readySent ++ flagByte t.changed ++
    flagByte (slotInProgress line addr s)

/-- The watch part of ASK-TERMINAL (R177). -/
def watchBytes (t : Terminal) : List Byte :=
  freeBytes .watchList (t.watchList.map indexBytes) ++ numBytes 1 t.page ++
    freeBytes .rowSet (t.rows.map (numBytes 1)) ++ ((List.range 4).map (fun n => alertBytes (t.alert n))).flatten

/-- How many queued records are of a kind. -/
def kindCount (k : Nat) (r : Ribbon) : Nat := (r.queue.filter (fun p => decide (p.body.kindCode = k))).length

/-- ASK-RIBBON (R136). -/
def ribbonBytes (id : RibbonId) (s : State) : List Byte :=
  let r := s.ribbon id
  enumByte r.state.code ++ [r.mask] ++ numBytes 1 r.rate ++ numBytes 2 r.up1 ++ numBytes 2 r.up2 ++
    numBytes 2 r.up3 ++ numBytes 1 r.trim ++ enumByte r.mode.code ++ numBytes 1 r.dwell ++
    numBytes 2 r.queue.length ++ numBytes 2 (kindCount 0 r) ++ numBytes 2 (kindCount 1 r) ++
    numBytes 2 (kindCount 2 r) ++ numBytes 2 (kindCount 3 r) ++
    optBytes 4 (fun p : PrintRecord => enumByte p.body.kindCode ++ numBytes 3 p.arrival) r.queue.head? ++
    numBytes 1 r.fifo.length ++ numBytes 2 (backlog r) ++ numBytes 2 (projectedLag r) ++
    flagByte (ribbonJobInFlight id s) ++ optBytes 2 indexBytes r.preceding ++ numBytes 2 r.anchors.length ++
    optBytes 2 (numBytes 2) r.lateFigure ++ numBytes 1 r.lateAge

/-- The 24 counters in index order, four bytes each (R203). -/
def allCounterBytes (s : State) : List Byte :=
  ((List.range 24).map (fun n => numBytes 4 (Table.get 0 s.counters n))).flatten

/-- The Format Unit in the status reply (R73). -/
def formatUnitBytes (f : FormatUnit) : List Byte :=
  flagByte f.job.isSome ++ optBytes 2 (fun j => enumByte (Job.requester j) ++ enumByte (Job.kindCode j)) f.job ++
    enumByte f.pointer ++ optBytes 1 enumByte f.holder ++ numBytes 1 f.runCount ++ numBytes 1 f.runLength

/-- ASK-STATUS part 0 (R202). -/
def statusPart0 (s : State) : List Byte :=
  loadBytes s.loader ++ numBytes 2 s.loader.pos ++ numBytes 2 s.loader.lineCount ++ numBytes 2 s.loader.slotCount ++
    numBytes 1 s.link.requests.length ++ numBytes 1 s.link.replies.length ++ numBytes 2 s.link.notices.length ++
    numBytes 1 s.link.noticeSeq ++ timeBytes s.clock ++ enumByte s.clock.state.code ++
    enumByte (if s.clock.present then 0 else 1) ++ sessionBytes s.session ++ numBytes 1 s.dayNumber ++
    flagByte s.walkActive ++ numBytes 2 s.walkPos ++ formatUnitBytes s.fu ++ numBytes 1 s.flashPeriod

/-- ASK-STATUS part 3, one line (R111). -/
def lineBytes (n : Nat) (s : State) : List Byte :=
  let l := s.line n
  numBytes 1 l.size ++ numBytes 1 l.offset ++ slotSetBytes l.enabled ++ numBytes 1 l.rate ++ numBytes 1 l.darkDelay ++
    enumByte l.state.code ++ optBytes 2 (numBytes 2) l.darkTimer ++ optBytes 1 (numBytes 1) l.scrub ++
    numBytes 1 (s.refreshQueue n).length ++ flagByte l.frame.isSome

/-- TABLE 10-2 in order. -/
def heldBytes (h : HeldSlot) : List Byte :=
  numBytes 1 h.line ++ numBytes 1 h.addr ++ enumByte h.kind.code ++ indexBytes h.index ++ numBytes 3 h.start ++
    numBytes 1 h.limit ++ numBytes 1 h.elapsed

/-- ASK-STATUS part 4, one window (R191): TABLE 10-1 in order. -/
def windowBytes (w : Window) : List Byte :=
  flagByte w.enabled ++ numBytes 1 w.k ++ indexBytes w.base ++ [w.kinds] ++ numBytes 1 w.limit ++
    optBytes 10 heldBytes w.slot ++ enumByte w.outcome.code

/-- The round state (TABLE 8-1): idle is 0 with no address; in flight is 1 with the last address a slot was taken for.
Before the first slot there is no such address and the byte is free (log entry 13). -/
def roundBytes : Option Round → List Byte
  | none => [0, 0]
  | some r =>
    match r.last with
    | some a => 1 :: numBytes 1 a
    | none => [1, (freeBytes .roundBeforeSlot []).headD 0]

/-- ASK-STATUS part 5, one terminal line (R137): the five configured items, the round state and the round count.
DEDUCED: "round state" is the row "round" of TABLE 8-1, so quiet count, attention and compose pointer are not reported
(log entry 38). -/
def tlineBytes (l : TermLine) : List Byte :=
  enumByte l.poll.code ++ numBytes 1 l.quietInterval ++ numBytes 1 l.slotLimit ++ numBytes 1 l.retryLimit ++
    numBytes 1 l.lapseTime ++ roundBytes l.round ++ numBytes 1 l.roundCount

/-- ASK-STATUS (R202), after the part number. -/
def statusBytes (part : Nat) (s : State) : List Byte :=
  match part with
  | 0 => statusPart0 s
  | 1 => ((List.range 8).map (fun n => schedBytes (s.schedEntry n))).flatten
  | 2 => ((List.range 8).map (fun n => schedBytes (s.schedEntry (8 + n)))).flatten
  | 3 => (lineNos.map (fun n => lineBytes n s)).flatten
  | 4 => (windowNos.map (fun n => windowBytes (s.window n))).flatten
  | 5 => (tlineNos.map (fun n => tlineBytes (s.tline n))).flatten
  | _ => []
where
  /-- The numbers of the four windows. -/
  windowNos : List Nat := List.range 4

/-! ### Notice bodies (TABLE 11-4) -/

/-- The kind byte of a notice: 0xB0 to 0xB7. -/
def NoticeItem.kindByte : NoticeItem → Byte
  | .boardModule _ _ => 0xB0
  | .terminal _ _ => 0xB1
  | .referral _ => 0xB2
  | .ribbon _ => 0xB3
  | .session => 0xB4
  | .scheduleSkip _ => 0xB5
  | .clock => 0xB6
  | .layout => 0xB7

/-- R105. -/
def moduleNotice (line slot : Nat) (s : State) : List Byte :=
  let r := s.slotState (cellNo line slot)
  numBytes 1 line ++ numBytes 1 slot ++ numBytes 1 ((s.line line).offset + slot) ++ enumByte r.presence.code ++
    boardTextBytes r.shown ++ optBytes 2 indexBytes (s.cell (cellNo line slot)).binding ++
    counterBytes s .bdModuleLost

/-- R155. -/
def terminalNotice (line addr : Nat) (s : State) : List Byte :=
  let t := s.term (termNo line addr)
  numBytes 1 line ++ numBytes 1 addr ++ enumByte t.state.code ++ flagByte t.exempt ++ numBytes 1 t.retry ++
    enumByte t.record.state.code ++ numBytes 1 t.watchList.length ++ counterBytes s .tmSilenced

/-- R189, the part about a HELD slot: its kind stands in it, so the request's items follow as TABLE 9-2 lists them. -/
def heldNotice (h : HeldSlot) (s : State) : List Byte :=
  numBytes 1 h.line ++ numBytes 1 h.addr ++ enumByte h.kind.code ++ indexBytes h.index ++
    symbolBytes (s.entry h.index).symbol ++ numBytes 3 h.start ++ numBytes 1 (h.limit - h.elapsed) ++
    dealerRequestBytes ((s.term (termNo h.line h.addr)).record.request.getD DealerRequest.blank)

/-- R189. -/
def referralNotice (n : Nat) (s : State) : List Byte :=
  let w := s.window n
  numBytes 1 n ++ flagByte w.enabled ++ indexBytes w.base ++ numBytes 2 (2 ^ w.k) ++ [w.kinds] ++ numBytes 1 w.limit ++
    enumByte (if w.slot.isSome then 1 else 0) ++
    (match w.slot with | some h => heldNotice h s | none => []) ++
    enumByte w.outcome.code ++ counterBytes s .rfHeld ++ counterBytes s .rfExpired

/-- R125. -/
def ribbonNotice (id : RibbonId) (s : State) : List Byte :=
  let r := s.ribbon id
  numBytes 1 (RibbonId.code id) ++ enumByte r.state.code ++ enumByte r.mode.code ++ numBytes 1 r.dwell ++
    numBytes 2 r.queue.length ++ numBytes 1 r.fifo.length ++ numBytes 2 (projectedLag r) ++
    counterBytes s .rbDropped ++ counterBytes s .rbModeRises

/-- R201: the body of a notice, built from the state of its object at sending. -/
def noticeBody (s : State) : NoticeItem → List Byte
  | .boardModule line slot => moduleNotice line slot s
  | .terminal line addr => terminalNotice line addr s
  | .referral n => referralNotice n s
  | .ribbon id => ribbonNotice id s
  | .session => sessionBytes s.session
  | .scheduleSkip n => numBytes 1 n ++ schedBytes (s.schedEntry n)
  | .clock => enumByte s.clock.state.code ++ enumByte (if s.clock.present then 0 else 1) ++ timeBytes s.clock
  | .layout => loadBytes s.loader ++ numBytes 2 s.loader.lineCount ++ numBytes 2 s.loader.slotCount

/-! ### Frames on the wire (R192) -/

/-- R192: the check of a frame: the sum of length, kind, tag and body bytes modulo 65,536. -/
def frameSum (length kind tag : Byte) (body : List Byte) : Nat :=
  (length.toNat + kind.toNat + tag.toNat + (body.map BitVec.toNat).sum) % 65536

/-- R192: the bytes of a frame as the sender puts them on the line. -/
def LinkFrame.wire (f : LinkFrame) : List Byte :=
  let length := byteOf f.body.length
  [syncByte, syncByte, length, f.kind, f.tag] ++ f.body ++ numBytes 2 (frameSum length f.kind f.tag f.body)

/-- R131: the byte on a ribbon output, by the character row of TABLE 11-2; none when the output is idle. -/
def State.ribbonOutput (s : State) (id : RibbonId) : Option Byte := (s.ribbon id).output.map (fun c => byteOf c.toNat)

/-- R192: what is on the host link: the frame being sent, or the idle byte. -/
def State.hostOutput (s : State) : List Byte :=
  match s.link.tx with
  | some f => f.wire
  | none => [idleByte]

end Sys2Proof.Machine
end

