-- ==== Sys2Proof/Machine/LinkOps.lean ====
section
/-! DEFINITION. The Link Interface: the receive assembler, taking a request, serving one, and the transmitter
(11.1 to 11.3). -/

namespace Sys2Proof.Machine

/-! ### Receiving (R193 to R196) -/

/-- The assembler moved to a state. -/
def setAsm (a : Asm) (s : State) : State := s.setLink { s.link with asm := a }

/-- R195: the frame timer runs from the first SYNC byte until the frame is judged. -/
def Asm.timerRunning (a : Asm) : Bool := decide (a ≠ .hunt)

/-- R194: a discarded frame. -/
def badFrame (s : State) : State := s.count .lkBadframe

/-- A reply joined to the reply queue (R198). -/
def putReply (r : LinkFrame) (s : State) : State :=
  s.setLink { s.link with replies := s.link.replies ++ [r] }

/-- R198: a DONE reply to a request, its body the request's kind and the result. -/
def doneReply (r : LinkFrame) (result : List Byte) : LinkFrame :=
  { kind := 0xA0, tag := r.tag, body := r.kind :: result }

/-- R198: a REFUSED reply to a request. -/
def refusedReply (r : LinkFrame) (reason : Reason) : LinkFrame :=
  { kind := 0xA1, tag := r.tag, body := [r.kind, reason.code] }

/-- R198: a REFUSED reply made: it joins the queue and In_refused advances. -/
def refuseReply (r : LinkFrame) (reason : Reason) (s : State) : State :=
  (putReply (refusedReply r reason) s).count .inRefused

/-- R196, R197: the reply places a request in service keeps for its own reply. -/
def placesKept (l : Link) : Nat := if l.inService.isSome then 1 else 0

/-- R196: a frame that passes its check. -/
def takeRequest (r : LinkFrame) (s : State) : State :=
  if s.link.requests.length < Config.requestPlaces then
    s.setLink { s.link with requests := s.link.requests ++ [r] }
  else if s.link.replies.length + placesKept s.link < Config.replyPlaces then refuseReply r .full s
  else badFrame s

/-- R193, R194: the end of a frame: its received check judged against the sum. -/
def judgeFrame (length kind tag : Byte) (body : List Byte) (high low : Byte) (s : State) : State :=
  if numberOf [high, low] = frameSum length kind tag body then
    takeRequest { kind := kind, tag := tag, body := body } (setAsm .hunt s)
  else badFrame (setAsm .hunt s)

/-- R193: BODY, or CHECK when the body holds as many bytes as the length gives. -/
def bodyOrCheck (length kind tag : Byte) (taken : List Byte) : Asm :=
  if taken.length < length.toNat then .body length kind tag taken else .checkHigh length kind tag taken

/-- R193, R194: one received byte. -/
def receiveByte (b : Byte) (s : State) : State :=
  match s.link.asm with
  | .hunt => if b = syncByte then setAsm .syncSeen s else s
  | .syncSeen => if b = syncByte then setAsm .headerLength s else setAsm .hunt s
  | .headerLength => if Config.maxBody < b.toNat then badFrame (setAsm .hunt s) else setAsm (.headerKind b) s
  | .headerKind length => setAsm (.headerTag length b) s
  | .headerTag length kind => setAsm (bodyOrCheck length kind b []) s
  | .body length kind tag taken => setAsm (bodyOrCheck length kind tag (taken ++ [b])) s
  | .checkHigh length kind tag body => setAsm (.checkLow length kind tag body b) s
  | .checkLow length kind tag body high => judgeFrame length kind tag body high b s

/-- RECEIVE_FRAME (R193 to R196): bytes received in turn. Log entry 29. -/
def receiveBytes (bytes : List Byte) (s : State) : State := forEach bytes receiveByte s

/-- FIRST_SYNC_BYTE (R193): 0x16 in HUNT. -/
def firstSync (s : State) : State := if s.link.asm = .hunt then receiveByte syncByte s else s

/-- SECOND_SYNC_MISSING (R193): a byte other than 0x16 in SYNC_SEEN. -/
def secondSyncMissing (b : Byte) (s : State) : State :=
  if s.link.asm = .syncSeen ∧ b ≠ syncByte then receiveByte b s else s

/-- FRAME_TIMEOUT (R195): the frame timer runs out. -/
def frameTimeout (s : State) : State :=
  if s.link.asm.timerRunning then (setAsm .hunt s).count .lkTimeout else s

/-! ### Serving (R197, R198) -/

/-- What an owner decides of a request: DONE with the result's bytes, or REFUSED. -/
inductive HostResult where
  | done (bytes : List Byte)
  | refused (reason : Reason)
deriving DecidableEq, Repr

/-- An owner's decision with the state it leaves. -/
structure Served where
  result : HostResult
  state  : State
deriving DecidableEq, Repr

/-- A DONE with an empty result. -/
def Served.done (s : State) : Served := { result := .done [], state := s }

/-- A DONE that carries a result. -/
def Served.reply (bytes : List Byte) (s : State) : Served := { result := .done bytes, state := s }

/-- A refusal that changes nothing else. -/
def Served.refuse (reason : Reason) (s : State) : Served := { result := .refused reason, state := s }

/-- R197, R208: serving may begin. -/
def mayServe (s : State) : Bool :=
  decide (s.loader.result ≠ .inProgress) && s.link.inService.isNone &&
    decide (s.link.replies.length < Config.replyPlaces)

/-- R197: the head request taken out of the queue into service. -/
def beginService (r : LinkFrame) (rest : List LinkFrame) (s : State) : State :=
  s.setLink { s.link with requests := rest, inService := some r }

/-- R197, R198: the owner's result put into a reply, which joins the queue; the request is no longer in service. -/
def endService (r : LinkFrame) (x : Served) : State :=
  let s := x.state.setLink { x.state.link with inService := none }
  match x.result with
  | .done bytes => putReply (doneReply r bytes) s
  | .refused reason => refuseReply r reason s

/-- R197: the service of the head request by an owner's rule. -/
def serveHead (takes : LinkFrame → Bool) (rule : List Byte → State → Served) (s : State) : State :=
  match s.link.requests with
  | [] => s
  | r :: rest => if mayServe s && takes r then endService r (rule r.body (beginService r rest s)) else s

/-- R197: a body read by its kind's reader: MALFORMED when it has not the kind's shape, else the owner's rule. -/
def shaped {α : Type} (read : List Byte → Option α) (rule : α → State → Served) (body : List Byte) (s : State) :
    Served :=
  match read body with
  | none => Served.refuse .malformed s
  | some x => rule x s

/-- R197: the service of a head request of one kind. -/
def serve {α : Type} (kind : HostKind) (read : List Byte → Option α) (rule : α → State → Served) (s : State) : State :=
  serveHead (fun r => decide (r.kind = kind.code)) (shaped read rule) s

/-- UNKNOWN_REQUEST_KIND (R197): the head request's kind byte is not of TABLE 11-3. -/
def serveUnknown (s : State) : State :=
  serveHead (fun r => !knownKind r.kind) (fun _ s => Served.refuse .malformed s) s

/-! ### Transmitting (R199, R201) -/

/-- R105, R155: the changed flag a notice's sending clears. -/
def clearChanged (n : NoticeItem) (s : State) : State :=
  match n with
  | .boardModule line slot =>
    s.setSlot (cellNo line slot) { s.slotState (cellNo line slot) with changed := false }
  | .terminal line addr => s.setTerm (termNo line addr) { s.term (termNo line addr) with changed := false }
  | .referral _ => s
  | .ribbon _ => s
  | .session => s
  | .scheduleSkip _ => s
  | .clock => s
  | .layout => s

/-- R201: the notice frame of an item, built from the present state. -/
def noticeFrame (n : NoticeItem) (s : State) : LinkFrame :=
  { kind := n.kindByte, tag := byteOf s.link.noticeSeq, body := noticeBody s n }

/-- R199: the sending of the head reply starts. -/
def sendReply (s : State) : State :=
  match s.link.replies with
  | [] => s
  | r :: rest => s.setLink { s.link with replies := rest, tx := some r, noticeMayLead := false }

/-- R199, R200, R201: the sending of the oldest notice item starts. -/
def sendNotice (s : State) : State :=
  match s.link.notices with
  | [] => s
  | n :: rest =>
    clearChanged n (s.setLink { s.link with notices := rest, tx := some (noticeFrame n s), noticeMayLead := false })

/-- TRANSMIT_REPLY (R199): an idle transmitter takes the head reply. -/
def transmitReply (s : State) : State := if s.link.tx.isNone then sendReply s else s

/-- TRANSMIT_NOTICE (R199, R201): an idle transmitter takes the oldest notice item when no reply is queued, or when a
reply and a notice appeared together (log entry 21). -/
def transmitNotice (s : State) : State :=
  if s.link.tx.isNone && (s.link.replies.isEmpty || s.link.noticeMayLead) then sendNotice s else s

/-- A frame of a notice kind, 0xB0 to 0xB7. -/
def LinkFrame.isNotice (f : LinkFrame) : Bool :=
  decide (0xB0 ≤ f.kind.toNat) && decide (f.kind.toNat ≤ 0xB7)

/-- R201: the notice sequence after a frame has been sent. Log entry 15. -/
def seqAfter (f : LinkFrame) (n : Nat) : Nat := if f.isNotice then (n + 1) % 256 else n

/-- FRAME_SENT (R199): the transmitter finishes a frame and chooses the next. -/
def frameSent (s : State) : State :=
  match s.link.tx with
  | none => s
  | some f =>
    let s1 := s.setLink { s.link with tx := none, noticeSeq := seqAfter f s.link.noticeSeq }
    if s1.link.replies.isEmpty then sendNotice s1 else sendReply s1

/-! ### Meanings -/

/-- RECEIVE_FRAME. -/
def execReceiveFrame (bytes : List Byte) (s : State) : Host.Outcome State Fault Refusal := act (receiveBytes bytes) s
/-- FRAME_TIMEOUT. -/
def execFrameTimeout (s : State) : Host.Outcome State Fault Refusal := act frameTimeout s
/-- FIRST_SYNC_BYTE. -/
def execFirstSyncByte (s : State) : Host.Outcome State Fault Refusal := act firstSync s
/-- SECOND_SYNC_MISSING. -/
def execSecondSyncMissing (byte : Byte) (s : State) : Host.Outcome State Fault Refusal := act (secondSyncMissing byte) s
/-- TRANSMIT_REPLY. -/
def execTransmitReply (s : State) : Host.Outcome State Fault Refusal := act transmitReply s
/-- TRANSMIT_NOTICE. -/
def execTransmitNotice (s : State) : Host.Outcome State Fault Refusal := act transmitNotice s
/-- FRAME_SENT. -/
def execFrameSent (s : State) : Host.Outcome State Fault Refusal := act frameSent s
/-- UNKNOWN_REQUEST_KIND. -/
def execUnknownRequestKind (s : State) : Host.Outcome State Fault Refusal := act serveUnknown s

end Sys2Proof.Machine
end

