-- ==== Sys2Proof/Machine/Cells.lean ====
section
/-! DEFINITION. The Cell Table's requests: BIND, UNBIND, HOLD, RELEASE, BOARD-SET (chapter 5). -/

namespace Sys2Proof.Machine

/-! ### Cell lists (R74 to R76) -/

/-- A cell number taken out of an index's cell list; the cells after it move up. -/
def leaveList (i c : Nat) (s : State) : State :=
  s.setEntry i { s.entry i with cells := (s.entry i).cells.filter (fun d => decide (d ≠ c)) }

/-- A cell number appended to an index's cell list. -/
def joinList (i c : Nat) (s : State) : State :=
  s.setEntry i { s.entry i with cells := (s.entry i).cells ++ [c] }

/-- A cell out of the cell list of the index it is bound to, if it is bound. -/
def leaveBound (c : Nat) (s : State) : State :=
  match (s.cell c).binding with
  | some i => leaveList i c s
  | none => s

/-- An index's cell list holds four cells. -/
def listFull (i : Nat) (s : State) : Bool := decide (4 ≤ (s.entry i).cells.length)

/-- R75, R76: flash count 0, trade mark clear, previous characters absent. -/
def Cell.fresh (r : Cell) : Cell := { r with flashCount := 0, tradeMark := false, prevChars := none }

/-- R76, R43: a cell unbound, without its index's list and without an offer. -/
def unbindRecord (c : Nat) (s : State) : State := s.setCell c { (s.cell c).fresh with binding := none }

/-! ### Operand checks -/

/-- A line 0 to 7 and a slot 0 to 63. -/
def slotInRange (line slot : Nat) : Bool := decide (line ≤ 7) && decide (slot ≤ 63)

/-- R75, check 1. -/
def BindBody.inRange (b : BindBody) : Bool :=
  slotInRange b.line b.slot && decide (b.index ≤ 1023) && (fieldOf b.field).isSome && decide (1 ≤ b.width) &&
    decide (b.width ≤ 10)

/-- R75, check 2: the cell holds a hold text longer than `w`. -/
def Cell.heldBeyond (w : Nat) (r : Cell) : Bool :=
  match r.hold with
  | some h => decide (w < h.text.length)
  | none => false

/-! ### Rules -/

/-- R75: the effect of an accepted BIND. -/
def bindCell (c i : Nat) (f : Field) (w : Nat) (s : State) : State :=
  let s1 := if (s.cell c).binding = some i then s else joinList i c (leaveBound c s)
  offerCell false c (s1.setCell c { (s1.cell c).fresh with binding := some i, field := f, width := w })

/-- R75. -/
def bindRule (b : BindBody) (s : State) : Served :=
  let c := cellNo b.line b.slot
  if !b.inRange then Served.refuse .range s
  else if (s.cell c).heldBeyond b.width then Served.refuse .state s
  else if (s.cell c).binding ≠ some b.index ∧ listFull b.index s then Served.refuse .noroom s
  else
    match fieldOf b.field with
    | some f => Served.done (bindCell c b.index f b.width s)
    | none => Served.refuse .range s

/-- R76: the effect of an accepted UNBIND. -/
def unbindCell (c : Nat) (s : State) : State := offerCell false c (unbindRecord c (leaveBound c s))

/-- R76. -/
def unbindRule (b : Nat × Nat) (s : State) : Served :=
  if !slotInRange b.1 b.2 then Served.refuse .range s
  else if (s.cell (cellNo b.1 b.2)).binding = none then Served.refuse .state s
  else Served.done (unbindCell (cellNo b.1 b.2) s)

/-- R77: the board characters of a hold text, none when one of them is no board character. -/
def holdText : List Byte → Option (List BoardChar)
  | [] => some []
  | b :: rest =>
    match boardCharOf b, holdText rest with
    | some c, some cs => some (c :: cs)
    | _, _ => none

/-- R77: the hold a HOLD asks for, none when it is refused RANGE. -/
def HoldBody.holdFor (b : HoldBody) (width : Nat) : Option Hold :=
  match holdText b.text, hueOfCode b.hue with
  | some cs, some hue =>
    if 1 ≤ cs.length ∧ cs.length ≤ 10 ∧ cs.length ≤ width then some { text := cs, hue := hue, flash := b.flash } else none
  | _, _ => none

/-- R77: the effect of an accepted HOLD. -/
def holdCell (c : Nat) (h : Hold) (s : State) : State :=
  offerCell false c (s.setCell c { s.cell c with hold := some h, flashCount := 0 })

/-- R77. -/
def holdRule (b : HoldBody) (s : State) : Served :=
  if !slotInRange b.line b.slot then Served.refuse .range s
  else
    match b.holdFor (s.cell (cellNo b.line b.slot)).width with
    | none => Served.refuse .range s
    | some h => Served.done (holdCell (cellNo b.line b.slot) h s)

/-- R78: the effect of an accepted RELEASE. -/
def releaseCell (c : Nat) (s : State) : State := offerCell false c (s.setCell c { s.cell c with hold := none })

/-- R78. -/
def releaseRule (b : Nat × Nat) (s : State) : Served :=
  if !slotInRange b.1 b.2 then Served.refuse .range s
  else if (s.cell (cellNo b.1 b.2)).hold = none then Served.refuse .state s
  else Served.done (releaseCell (cellNo b.1 b.2) s)

/-- R89. -/
def boardSetRule (n : Nat) (s : State) : Served :=
  if 15 < n then Served.refuse .range s else Served.done (s.setFlashPeriod n)

/-! ### Meanings -/

/-- BIND. -/
def execBind (s : State) : Host.Outcome State Fault Refusal := act (serve .bind readBind bindRule) s
/-- UNBIND. -/
def execUnbind (s : State) : Host.Outcome State Fault Refusal := act (serve .unbind read2 unbindRule) s
/-- HOLD. -/
def execHold (s : State) : Host.Outcome State Fault Refusal := act (serve .hold readHold holdRule) s
/-- RELEASE. -/
def execRelease (s : State) : Host.Outcome State Fault Refusal := act (serve .release read2 releaseRule) s
/-- BOARD_SET. -/
def execBoardSet (s : State) : Host.Outcome State Fault Refusal := act (serve .boardSet read1 boardSetRule) s

end Sys2Proof.Machine
end

