-- ==== Sys2Proof/Machine/TermOps.lean ====
section
/-! DEFINITION. Terminal line operations shared by several commands: rounds, records, blocks, referral slots
(chapters 8 and 10). -/

namespace Sys2Proof.Machine

/-! ### Rounds (R142, R143) -/

/-- R142: a round visits this terminal. -/
def Terminal.visited (wide : Bool) (t : Terminal) : Bool :=
  t.served || (wide && (decide (t.state = .joining) || decide (t.state = .silent)))

/-- The addresses above the last slot taken. -/
def addressesAbove : Option Nat → List Nat
  | none => addressNos
  | some a => addressNos.filter (fun b => decide (a < b))

/-- R142: the next address a round takes. -/
def nextAddress (line : Nat) (r : Round) (s : State) : Option Nat :=
  (addressesAbove r.last).find? (fun a => (s.term (termNo line a)).visited r.wide)

/-- Some terminal of a line is not VACANT. -/
def anyAdmitted (line : Nat) (s : State) : Bool :=
  addressNos.any (fun a => decide ((s.term (termNo line a)).state ≠ .vacant))

/-- Some terminal of a line holds an out-block. -/
def anyOutBlock (line : Nat) (s : State) : Bool :=
  addressNos.any (fun a => (s.term (termNo line a)).outBlock.isSome)

/-- R142: the end of a round. -/
def endRound (line : Nat) (s : State) : State :=
  let l := s.tline line
  s.setTLine line { l with round := none, roundCount := (l.roundCount + 1) % 8, quietCount := 0 }

/-- R142, R143: a round begins, clearing attention. -/
def beginRound (line : Nat) (s : State) : State :=
  let l := s.tline line
  s.setTLine line { l with round := some { last := none, wide := decide (l.roundCount = 0) }, attention := false }

/-- R143: what begins the next round at the end of the one before: a CONTINUOUS line with an admitted terminal, or a
QUIET one with an out-block or attention. -/
def roundDue (line : Nat) (s : State) : Bool :=
  anyAdmitted line s &&
    (decide ((s.tline line).poll = .continuous) || anyOutBlock line s || (s.tline line).attention)

/-- R142: the round in flight finds no address left. -/
def roundSpent (line : Nat) (s : State) : Bool :=
  match (s.tline line).round with
  | some r => (nextAddress line r s).isNone
  | none => false

/-- R142, R143: a round begins. One that finds no address to visit ends at its start, and the next begins at once when
it is due, `fuel` rounds in all at most: of eight rounds in turn one is wide, and visits any admitted terminal. -/
def startRounds (line : Nat) : Nat → State → State
  | 0, s => s
  | fuel + 1, s =>
    let s1 := beginRound line s
    if roundSpent line s1 then
      let s2 := endRound line s1
      if roundDue line s2 then startRounds line fuel s2 else s2
    else s1

/-- R142, R143: a round begins, with those that follow it at once while no address is found. -/
def startRound (line : Nat) (s : State) : State := startRounds line 8 s

/-- R142, R143: the end of a round, and the next begun when it is due. -/
def finishRound (line : Nat) (s : State) : State :=
  let s1 := endRound line s
  if roundDue line s1 then startRound line s1 else s1

/-- R142: a round in flight ends when no address is left to visit. -/
def endRoundIfDone (line : Nat) (s : State) : State := if roundSpent line s then finishRound line s else s

/-- R143: a round begins on an idle line with an admitted terminal. -/
def startRoundIfIdle (line : Nat) (s : State) : State :=
  if (s.tline line).round.isNone ∧ anyAdmitted line s then startRound line s else s

/-- R143: one tick of an idle line's quiet count, and the round it starts on a QUIET line. -/
def tickQuiet (line : Nat) (s : State) : State :=
  let l := s.tline line
  if l.round.isSome then s
  else
    let count := min 10 (l.quietCount + 1)
    let s1 := s.setTLine line { l with quietCount := count }
    if l.poll = .quiet ∧ l.quietInterval ≤ count then startRoundIfIdle line s1 else s1

/-! ### Records and results (R149, R163) -/

/-- R163: a result stored with its request; the record becomes ANSWERED. -/
def giveResult (n : Nat) (res : DealerResult) (s : State) : State :=
  let t := s.term n
  s.setTerm n { t with record := { t.record with state := .answered, result := some res } }

/-- R149: a freed record. -/
def Terminal.freeRecord (t : Terminal) : Terminal := { t with record := RequestRecord.cold }

/-! ### Lapse (R150) -/

/-- R150: the terminal after one tick, given the line's lapse time in minutes. -/
def Terminal.tickLapse (lapseTime : Nat) (t : Terminal) : Terminal :=
  if t.state = .active then
    let count := min 3600 (t.lapse + 1)
    if lapseTime ≠ 0 ∧ lapseTime * 60 ≤ count then
      { t with lapse := count, state := .lapsed, idleOwed := true }
    else { t with lapse := count }
  else t

/-- R150: one tick of a terminal's lapse count. -/
def tickLapse (n : Nat) (s : State) : State :=
  s.setTerm n ((s.term n).tickLapse (s.tline (n / 16)).lapseTime)

/-! ### Blocks (R153, R154) -/

/-- R154: what a discard at the entry to SILENT does, by the block's kind. -/
def Terminal.discard (b : Block) (t : Terminal) : Terminal :=
  match b with
  | .reply _ =>
    if t.record.state = .sent then { t with record := { t.record with state := .answered } } else t
  | .bell bell =>
    if (t.alert bell.slot).marked then t.setAlert bell.slot { t.alert bell.slot with marked := false } else t
  | .page _ _ _ => t
  | .status _ _ => t
  | .idle => t
  | .rows _ => t

/-- R153: what a delivery does, by the block's kind. -/
def Terminal.delivered (b : Block) (t : Terminal) : Terminal :=
  match b with
  | .reply _ => t.freeRecord
  | .bell bell =>
    if (t.alert bell.slot).marked then
      t.setAlert bell.slot { t.alert bell.slot with state := .spent, marked := false }
    else t
  | .page _ _ _ => t
  | .status _ _ => t
  | .idle => t
  | .rows _ => t

/-- R69: the terminal of a TERMINAL job in flight has been retired or made SILENT; retirement is the stronger. -/
def Job.meets (fate : JobFate) (line addr : Nat) : Job → Job
  | .terminal l a b f =>
    if l = line ∧ a = addr then
      .terminal l a b (if f = .retired then .retired else fate)
    else .terminal l a b f
  | .board l k t full => .board l k t full
  | .ribbon r late lt t an pr off => .ribbon r late lt t an pr off

/-- R69: the job in flight told of its terminal's fate. -/
def markFate (fate : JobFate) (line addr : Nat) (s : State) : State :=
  s.setFU { s.fu with job := s.fu.job.map (Job.meets fate line addr) }

/-- R146: an ACTIVE or LAPSED terminal becomes SILENT. -/
def goSilent (line addr : Nat) (s : State) : State :=
  let n := termNo line addr
  let t := s.term n
  let t1 := match t.outBlock with | some b => t.discard b | none => t
  let t2 := { t1 with state := .silent, outBlock := none, idleOwed := false, statusOwed := false, changed := true }
  ((markFate .silenced line addr (s.setTerm n t2)).raise (.terminal line addr)).count .tmSilenced

/-! ### Referral slots (R181, R183, R187) -/

/-- A window's slot emptied with an outcome. -/
def emptySlot (w : Nat) (outcome : ReferralOutcome) (s : State) : State :=
  s.setWindow w { s.window w with slot := none, outcome := outcome }

/-- R183: a held request expires. -/
def expireHeld (w : Nat) (h : HeldSlot) (s : State) : State :=
  (giveResult (termNo h.line h.addr) (DealerResult.ofCode .noAnswer)
    ((emptySlot w .expired s).count .rfExpired)).raise (.referral w)

/-- R183: one tick of a window's HELD slot. -/
def tickReferral (w : Nat) (s : State) : State :=
  match (s.window w).slot with
  | none => s
  | some h =>
    if h.limit ≤ h.elapsed + 1 then expireHeld w h s
    else s.setWindow w { s.window w with slot := some { h with elapsed := h.elapsed + 1 } }

/-- The numbers of the four windows. -/
def windowNos : List Nat := List.range 4

/-- R187: the window whose slot holds a terminal's request. -/
def holdingWindow (line addr : Nat) (s : State) : Option Nat :=
  windowNos.find? (fun w =>
    match (s.window w).slot with
    | some h => decide (h.line = line) && decide (h.addr = addr)
    | none => false)

/-- R42: some HELD slot names an instrument. -/
def heldInstrument (i : Nat) (s : State) : Bool :=
  windowNos.any (fun w =>
    match (s.window w).slot with
    | some h => decide (h.index = i)
    | none => false)

/-! ### Session status (R151) -/

/-- R151: status owed set on ACTIVE and LAPSED terminals at a session transition. -/
def oweStatus (s : State) : State :=
  forEach termNos (fun n s =>
    if (s.term n).served then s.setTerm n { s.term n with statusOwed := true } else s) s

end Sys2Proof.Machine
end

