-- ==== Sys2Proof/Machine/Feed.lean ====
section
/-! DEFINITION. The feed requests: LIST, DELIST, TRADE, QUOTE, CLOSE-SET, HALT, RESUME (chapter 2). -/

namespace Sys2Proof.Machine

/-! ### The directory (R25, R26) -/

/-- R26: the index of the member with a symbol. -/
def lookup (sym : Text) : List (Text × Nat) → Option Nat
  | [] => none
  | (t, i) :: rest => if t = sym then some i else lookup sym rest

/-- R25: a pair inserted at the position its symbol takes. -/
def insertSymbol (sym : Text) (i : Nat) : List (Text × Nat) → List (Text × Nat)
  | [] => [(sym, i)]
  | (t, j) :: rest => if symbolLt sym t then (sym, i) :: (t, j) :: rest else (t, j) :: insertSymbol sym i rest

/-- R25: the pair of an index removed. -/
def removeIndex (i : Nat) (d : List (Text × Nat)) : List (Text × Nat) := d.filter (fun p => decide (p.2 ≠ i))

/-! ### LIST (R32) -/

/-- R32: symbol form, D, L and class. -/
def ListBody.inRange (b : ListBody) : Bool :=
  symbolForm b.symbol && decide (b.denom = 8 ∨ b.denom = 16 ∨ b.denom = 32 ∨ b.denom = 64) &&
    decide (b.lot = 10 ∨ b.lot = 100) && decide (b.cls ≤ 7)

/-- R32: the entry an accepted LIST makes. -/
def Entry.listed (b : ListBody) (day : Nat) (e : Entry) : Entry :=
  { status := .listed, symbol := b.symbol, denom := b.denom, lot := b.lot, cls := b.cls, prevClose := none,
    last := none, opening := none, high := none, low := none, dayVolume := 0, lastSize := 0, tick := .none,
    bid := none, ask := none, firstPending := true, dayStamp := day, watchers := 0, cells := e.cells }

/-- R32: the effect of an accepted LIST. -/
def listInstrument (b : ListBody) (s : State) : State :=
  fanCells b.index ((s.setEntry b.index ((s.entry b.index).listed b s.dayNumber)).setDirectory
    (insertSymbol b.symbol b.index s.directory))

/-- R32. -/
def listRule (b : ListBody) (s : State) : Served :=
  if 1023 < b.index then Served.refuse .range s
  else if !b.inRange then Served.refuse .range s
  else if (s.entry b.index).status ≠ .free then Served.refuse .state s
  else if (lookup b.symbol s.directory).isSome then Served.refuse .duplicate s
  else Served.done (listInstrument b s)

/-! ### TRADE (R33, R34, R40) -/

/-- R34: the entry after an accepted trade, first_pending apart. -/
def Entry.traded (p z : Nat) (e : Entry) : Entry :=
  { e with
    tick := tickAfter e p, last := some p
    opening := match e.opening with | some o => some o | none => some p
    high := match e.opening, e.high with | some _, some h => some (max h p) | some _, none => none | none, _ => some p
    low := match e.opening, e.low with | some _, some l => some (min l p) | some _, none => none | none, _ => some p
    dayVolume := min Config.maxVolume (e.dayVolume + z), lastSize := z }

/-- R40: the facts of a trade's print. -/
def tradePrint (i p z : Nat) (e : Entry) : PrintBody :=
  .trade { symbol := e.symbol, index := i, price := p, size := z, lot := e.lot, denom := e.denom,
           first := e.firstPending }

/-- R39, R40: the fan-out of a trade. -/
def fanTrade (i p z : Nat) (s : State) : State :=
  let e := s.entry i
  fanAlerts i p z (fanRows i (offerToClass e.cls (tradePrint i p z e) s.clock.second (fanTradeCells i s)))

/-- R40: first_pending cleared once the offers have taken it. -/
def clearFirst (i : Nat) (s : State) : State := s.setEntry i { s.entry i with firstPending := false }

/-- One for a snap or a clamp made, for the counters of R1 and R3. -/
def countOf (b : Bool) : Nat := if b then 1 else 0

/-- R34: the effect of an accepted TRADE of a stored price and size; `moved` and `clamped` say that the price was
snapped and the size clamped. -/
def tradeInstrument (i p z : Nat) (moved clamped : Bool) (s : State) : State :=
  let s1 := touch i s
  let s2 := s1.setEntry i ((s1.entry i).traded p z)
  let s3 := ((s2.count .inTrades).advance .inOffgrid (countOf moved)).advance .inSizeClamped (countOf clamped)
  clearFirst i (fanTrade i p z s3)

/-- R33. -/
def tradeRule (b : TradeBody) (s : State) : Served :=
  if 1023 < b.index then Served.refuse .range s
  else if (s.entry b.index).status = .free then Served.refuse .unknown s
  else if (s.entry b.index).status = .halted then Served.refuse .halted s
  else if s.session.state ≠ .opened then Served.refuse .session s
  else
    match checkPrice (s.entry b.index).denom b.price, checkSize b.size with
    | some (p, moved), some (z, clamped) => Served.done (tradeInstrument b.index p z moved clamped s)
    | _, _ => Served.refuse .range s

/-! ### QUOTE (R35) -/

/-- A side checked by R1 and R3: what is stored, and whether its price was snapped and its size clamped. -/
structure CheckedSide where
  side    : Option Side
  moved   : Bool
  clamped : Bool
deriving DecidableEq, Repr

/-- R1, R3: a side checked, none when it is refused RANGE. -/
def checkSide (denom : Nat) (x : Option Side) : Option CheckedSide :=
  match x with
  | none => some { side := none, moved := false, clamped := false }
  | some y =>
    match checkPrice denom y.price, checkSize y.size with
    | some (p, m), some (z, c) => some { side := some { price := p, size := z }, moved := m, clamped := c }
    | _, _ => none

/-- R35: the effect of an accepted QUOTE. -/
def quoteInstrument (i : Nat) (bid ask : CheckedSide) (s : State) : State :=
  let s1 := touch i s
  let s2 := s1.setEntry i { s1.entry i with bid := bid.side, ask := ask.side }
  fanRows i ((s2.advance .inOffgrid (countOf bid.moved + countOf ask.moved)).advance .inSizeClamped
    (countOf bid.clamped + countOf ask.clamped))

/-- R35. -/
def quoteRule (b : QuoteBody) (s : State) : Served :=
  if 1023 < b.index then Served.refuse .range s
  else if (s.entry b.index).status = .free then Served.refuse .unknown s
  else
    match checkSide (s.entry b.index).denom b.bid, checkSide (s.entry b.index).denom b.ask with
    | some bid, some ask => Served.done (quoteInstrument b.index bid ask s)
    | _, _ => Served.refuse .range s

/-! ### CLOSE-SET (R36) -/

/-- R2: a close checked: what is stored and whether it was snapped, none when it is refused RANGE. -/
def checkClose (denom : Nat) (close : Option Nat) : Option (Option Nat × Bool) :=
  match close with
  | none => some (none, false)
  | some p => (checkPrice denom p).map (fun x => (some x.1, x.2))

/-- R36: the effect of an accepted CLOSE-SET. -/
def setClose (i : Nat) (close : Option Nat) (moved : Bool) (s : State) : State :=
  let s1 := touch i s
  fanCellsAndRows i ((s1.setEntry i { s1.entry i with prevClose := close }).advance .inOffgrid (countOf moved))

/-- R36. -/
def closeSetRule (b : Nat × Option Nat) (s : State) : Served :=
  if 1023 < b.1 then Served.refuse .range s
  else if (s.entry b.1).status = .free then Served.refuse .unknown s
  else
    match checkClose (s.entry b.1).denom b.2 with
    | some (close, moved) => Served.done (setClose b.1 close moved s)
    | none => Served.refuse .range s

/-! ### HALT and RESUME (R37, R38) -/

/-- R37, R38: the entry's state changed after any roll, cells and rows handed out, and a print offered. -/
def changeStatus (i : Nat) (x : EntryStatus) (print : Text → PrintBody) (s : State) : State :=
  let s1 := touch i s
  let e := s1.entry i
  offerToClass e.cls (print e.symbol) s1.clock.second (fanCellsAndRows i (s1.setEntry i { e with status := x }))

/-- R37. -/
def haltRule (i : Nat) (s : State) : Served :=
  if 1023 < i then Served.refuse .range s
  else if (s.entry i).status ≠ .listed then Served.refuse .state s
  else Served.done (changeStatus i .halted (fun sym => .halt sym i) s)

/-- R38. -/
def resumeRule (i : Nat) (s : State) : Served :=
  if 1023 < i then Served.refuse .range s
  else if (s.entry i).status ≠ .halted then Served.refuse .state s
  else Served.done (changeStatus i .listed (fun sym => .resume sym i) s)

/-! ### DELIST (R42, R43) -/

/-- R43, R167: an instrument removed from a watch list, with the rows the removal changes marked. -/
def Terminal.dropInstrument (i : Nat) (t : Terminal) : Terminal :=
  match placeOf i t.watchList with
  | some k => Terminal.markFrom k t.watchList.length { t with watchList := t.watchList.eraseIdx k }
  | none => t

/-- R43, step 2: alerts naming an instrument made EMPTY. -/
def Terminal.dropAlerts (i : Nat) (t : Terminal) : Terminal :=
  (List.range 4).foldl (fun t n => if (t.alert n).instrument = some i then t.setAlert n Alert.cold else t) t

/-- R43, steps 1 and 2, on every terminal. -/
def dropFromTerminals (i : Nat) (s : State) : State :=
  forEach termNos (fun n s => s.setTerm n (((s.term n).dropInstrument i).dropAlerts i)) s

/-- R43: the cascade of an accepted DELIST. -/
def delistInstrument (i : Nat) (s : State) : State :=
  let s1 := dropFromTerminals i s
  let s2 := forEach (s1.entry i).cells (fun c s => offerCell false c (unbindRecord c s)) s1
  (s2.setEntry i { s2.entry i with cells := [], watchers := 0, status := .free }).setDirectory
    (removeIndex i s2.directory)

/-- R42. -/
def delistRule (i : Nat) (s : State) : Served :=
  if 1023 < i then Served.refuse .range s
  else if (s.entry i).status = .free then Served.refuse .unknown s
  else if heldInstrument i s then Served.refuse .state s
  else Served.done (delistInstrument i s)

/-! ### Meanings -/

/-- LIST. -/
def execList (s : State) : Host.Outcome State Fault Refusal := act (serve .list readList listRule) s
/-- DELIST. -/
def execDelist (s : State) : Host.Outcome State Fault Refusal := act (serve .delist readIndex delistRule) s
/-- TRADE. -/
def execTrade (s : State) : Host.Outcome State Fault Refusal := act (serve .trade readTrade tradeRule) s
/-- QUOTE. -/
def execQuote (s : State) : Host.Outcome State Fault Refusal := act (serve .quote readQuote quoteRule) s
/-- CLOSE_SET. -/
def execCloseSet (s : State) : Host.Outcome State Fault Refusal := act (serve .closeSet readCloseSet closeSetRule) s
/-- HALT. -/
def execHalt (s : State) : Host.Outcome State Fault Refusal := act (serve .halt readIndex haltRule) s
/-- RESUME. -/
def execResume (s : State) : Host.Outcome State Fault Refusal := act (serve .resume readIndex resumeRule) s

end Sys2Proof.Machine
end

