-- ==== Sys2Proof/Machine/Terminals.lean ====
section
/-! DEFINITION. Terminal lines: TERM-ADMIT, TERM-RETIRE, TLINE-SET, rounds and slots (chapter 8). -/

namespace Sys2Proof.Machine

/-- A line 0 to 3 and an address 0 to 15. -/
def termInRange (line addr : Nat) : Bool := decide (line ≤ 3) && decide (addr ≤ 15)

/-! ### TERM-ADMIT (R140) -/

/-- R140: the terminal an admission makes. -/
def Terminal.admitted (exempt : Bool) (t : Terminal) : Terminal :=
  { t with
    state := .joining, exempt := exempt, retry := 0, lapse := 0, outBlock := none,
    record := RequestRecord.cold, fullPage := false, statusOwed := false, idleOwed := false,
    watchList := [], page := 0, rows := [], alerts := [] }

/-- R140, R143: the effect of an accepted TERM-ADMIT. A line on which no terminal was admitted starts a round. -/
def admitTerminal (line addr : Nat) (exempt : Bool) (s : State) : State :=
  let s1 := s.setTerm (termNo line addr) ((s.term (termNo line addr)).admitted exempt)
  if anyAdmitted line s then s1 else startRoundIfIdle line s1

/-- R140. -/
def termAdmitRule (b : Nat × Nat × Bool) (s : State) : Served :=
  if !termInRange b.1 b.2.1 then Served.refuse .range s
  else if (s.term (termNo b.1 b.2.1)).state ≠ .vacant then Served.refuse .state s
  else Served.done (admitTerminal b.1 b.2.1 b.2.2 s)

/-! ### TERM-RETIRE (R141, R187) -/

/-- R187: the referral slot that holds the terminal's request emptied. -/
def cancelReferral (line addr : Nat) (s : State) : State :=
  match holdingWindow line addr s with
  | some w => (emptySlot w .cancelled s).raise (.referral w)
  | none => s

/-- R44: an instrument's watchers count lowered by one. -/
def dropWatcher (i : Nat) (s : State) : State := s.setEntry i { s.entry i with watchers := (s.entry i).watchers - 1 }

/-- R141: the terminal a retirement leaves. The changed flag stays with its pending notice. -/
def Terminal.retired (t : Terminal) : Terminal := { Terminal.cold with changed := t.changed }

/-- R141: a slot in progress for the terminal will have its answer ignored. -/
def ignoreSlot (line addr : Nat) (s : State) : State :=
  match (s.tline line).slot with
  | some x =>
    if x.address = addr then s.setTLine line { s.tline line with slot := some { x with ignored := true } } else s
  | none => s

/-- R141: the effect of an accepted TERM-RETIRE. -/
def retireTerminal (line addr : Nat) (s : State) : State :=
  let n := termNo line addr
  let s1 := if (s.term n).record.state = .referred then cancelReferral line addr s else s
  let s2 := forEach (s1.term n).watchList dropWatcher s1
  markFate .retired line addr (ignoreSlot line addr (s2.setTerm n (s2.term n).retired))

/-- R141. -/
def termRetireRule (b : Nat × Nat) (s : State) : Served :=
  if !termInRange b.1 b.2 then Served.refuse .range s
  else if (s.term (termNo b.1 b.2)).state = .vacant then Served.refuse .state s
  else Served.done (retireTerminal b.1 b.2 s)

/-! ### TLINE-SET (R138) -/

/-- R138. -/
def TLineBody.inRange (b : TLineBody) : Bool :=
  decide (b.line ≤ 3) && decide (1 ≤ b.quietInterval) && decide (b.quietInterval ≤ 10) &&
    decide (20 ≤ b.slotLimit) && decide (b.slotLimit ≤ 200) && decide (1 ≤ b.retryLimit) &&
    decide (b.retryLimit ≤ 15) && decide (b.lapseTime ≤ 60)

/-- R138: the five items replaced. -/
def configureTLine (b : TLineBody) (p : PollMode) (s : State) : State :=
  s.setTLine b.line { s.tline b.line with
    poll := p, quietInterval := b.quietInterval, slotLimit := b.slotLimit, retryLimit := b.retryLimit,
    lapseTime := b.lapseTime }

/-- R138. -/
def tlineSetRule (b : TLineBody) (s : State) : Served :=
  match pollModeOf b.poll with
  | none => Served.refuse .range s
  | some p =>
    if !b.inRange then Served.refuse .range s
    else
      let s1 := configureTLine b p s
      if (s.tline b.line).poll = .quiet ∧ p = .continuous then Served.done (startRoundIfIdle b.line s1)
      else Served.done s1

/-! ### Rounds (R142, R143) -/

/-- ROUND_START (R143): a round that is due on an idle line begins (log entry 9). -/
def roundStart (line : Nat) (s : State) : State := if roundDue line s then startRoundIfIdle line s else s

/-- ATTENTION (R143). -/
def raiseAttention (line : Nat) (s : State) : State :=
  let s1 := s.setTLine line { s.tline line with attention := true }
  if (s.tline line).poll = .quiet then startRoundIfIdle line s1 else s1

/-! ### Slots (R144) -/

/-- R144: the transmission fixed for a terminal. -/
def Terminal.transmission (t : Terminal) : Transmission :=
  let ready := decide (t.record.state = .free)
  match t.outBlock with
  | some b => if t.served then .output ready b else .poll ready
  | none => .poll ready

/-- R144: a slot starts. -/
def startSlot (line addr : Nat) (r : Round) (s : State) : State :=
  let n := termNo line addr
  let t := s.term n
  let l := s.tline line
  (s.setTerm n { t with readySent := decide (t.record.state = .free) }).setTLine line { l with
    round := some { r with last := some addr }
    slot := some { address := addr, tx := t.transmission, limit := l.slotLimit, ignored := false } }

/-- SLOT_START (R142, R144): the next slot of a round in flight, when no slot is in progress; a round that finds no
address left ends. -/
def slotStart (line : Nat) (s : State) : State :=
  match (s.tline line).round, (s.tline line).slot with
  | some r, none =>
    match nextAddress line r s with
    | some addr => startSlot line addr r s
    | none => finishRound line s
  | _, _ => s

/-! ### Meanings -/

/-- TERM_ADMIT. -/
def execTermAdmit (s : State) : Host.Outcome State Fault Refusal := act (serve .termAdmit readTermAdmit termAdmitRule) s
/-- TERM_RETIRE. -/
def execTermRetire (s : State) : Host.Outcome State Fault Refusal := act (serve .termRetire read2 termRetireRule) s
/-- TLINE_SET. -/
def execTLineSet (s : State) : Host.Outcome State Fault Refusal := act (serve .tlineSet readTLineSet tlineSetRule) s
/-- ROUND_START. -/
def execRoundStart (line : TermLineNo) (s : State) : Host.Outcome State Fault Refusal := act (roundStart line) s
/-- SLOT_START. -/
def execSlotStart (line : TermLineNo) (s : State) : Host.Outcome State Fault Refusal := act (slotStart line) s
/-- ATTENTION. -/
def execAttention (line : TermLineNo) (s : State) : Host.Outcome State Fault Refusal := act (raiseAttention line) s

end Sys2Proof.Machine
end

