-- ==== Sys2Proof/Machine/Dealer.lean ====
section
/-! DEFINITION. Dealer requests, and the referral windows that may hold them (chapters 9 and 10). -/

namespace Sys2Proof.Machine

/-! ### Results -/

/-- A result with a code alone, stored. -/
def giveCode (n : Nat) (c : ReplyCode) (s : State) : State := giveResult n (DealerResult.ofCode c) s

/-! ### Checks of a request's own rule (R168, R171) -/

/-- R168: the checks of a WATCH-ADD: the code of the first that fails. -/
def watchAddFails (n i : Nat) (s : State) : Option ReplyCode :=
  if i ∈ (s.term n).watchList then some .duplicate
  else if 24 ≤ (s.term n).watchList.length then some .full
  else none

/-- R171, R2: an alert's threshold: none when it is not valid, some none when its enable is off. -/
def checkThreshold (denom : Nat) (c : DealerCondition) : Option (Option Nat) :=
  if c.enabled then (checkPrice denom c.value).map (fun x => some x.1) else some none

/-- R171: an alert's minimum size. -/
def checkMinSize (c : DealerCondition) : Option (Option Nat) :=
  if c.enabled then (if 1 ≤ c.value ∧ c.value ≤ Config.maxSize then some (some c.value) else none) else some none

/-- R171: the conditions as stored, none when one of them is lacking or not valid. -/
def checkConditions (denom : Nat) (q : DealerRequest) : Option Conditions :=
  match q.above, q.below, q.minSize with
  | some a, some b, some z =>
    match checkThreshold denom a, checkThreshold denom b, checkMinSize z with
    | some above, some below, some size => some { above := above, below := below, minSize := size }
    | _, _, _ => none
  | _, _, _ => none

/-! ### Carrying out (R166 to R172) -/

/-- R166. -/
def carryPage (n page : Nat) (s : State) : State :=
  giveCode n .accepted (s.setTerm n { s.term n with page := page, rows := [], fullPage := true })

/-- R167. -/
def carryResync (n : Nat) (s : State) : State :=
  giveCode n .accepted (s.setTerm n { s.term n with fullPage := true })

/-- R168: the position an added instrument takes. -/
def addPosition (wanted : Option Nat) (length : Nat) : Nat :=
  match wanted with
  | some p => min p length
  | none => length

/-- R44: an instrument's watchers count raised by one. -/
def addWatcher (i : Nat) (s : State) : State := s.setEntry i { s.entry i with watchers := (s.entry i).watchers + 1 }

/-- R168. DEDUCED: the stored result holds the instrument index beside the position (R164, log entry 45). -/
def carryWatchAdd (n i : Nat) (wanted : Option Nat) (s : State) : State :=
  let t := s.term n
  let k := addPosition wanted t.watchList.length
  let t1 := Terminal.markFrom k (t.watchList.length + 1) { t with watchList := insertAt i k t.watchList }
  giveResult n { code := .accepted, position := some k, index := some i, conditions := none }
    (addWatcher i (s.setTerm n t1))

/-- R169. -/
def carryWatchDrop (n i : Nat) (s : State) : State :=
  giveCode n .accepted (dropWatcher i (s.setTerm n ((s.term n).dropInstrument i)))

/-- R170. -/
def carryQuote (n i : Nat) (s : State) : State :=
  giveResult n { code := .accepted, position := none, index := some i, conditions := none } s

/-- R171: the alert an ALERT-SET arms. -/
def armedAlert (i : Nat) (c : Conditions) : Alert :=
  { state := .armed, instrument := some i, conditions := c, fired := none, marked := false }

/-- R171. DEDUCED: the stored result holds the instrument index beside the conditions (R164, log entry 45). -/
def carryAlertSet (n slot i : Nat) (c : Conditions) (s : State) : State :=
  giveResult n { code := .accepted, position := none, index := some i, conditions := some c }
    (s.setTerm n ((s.term n).setAlert slot (armedAlert i c)))

/-- R172. -/
def carryAlertClear (n slot : Nat) (s : State) : State :=
  giveCode n .accepted (s.setTerm n ((s.term n).setAlert slot Alert.cold))

/-! ### Steps 3 and 5 of the referable kinds (R163, R184) -/

/-- R168, step 3, then `next`. -/
def checkedWatchAdd (n i : Nat) (next : State → State) (s : State) : State :=
  match watchAddFails n i s with
  | some c => giveCode n c s
  | none => next s

/-- R171, step 3, then `next` with the conditions as stored. -/
def checkedAlertSet (n i : Nat) (q : DealerRequest) (next : Conditions → State → State) (s : State) : State :=
  match checkConditions (s.entry i).denom q with
  | none => giveCode n .unknown s
  | some c => next c s

/-! ### Referral (R180, R181) -/

/-- R180: a window matches an offer. -/
def Window.restricts (kind : ReferralKind) (i : Nat) (w : Window) : Bool :=
  w.enabled && w.kinds.getLsbD kind.code && decide (w.base ≤ i) && decide (i < w.base + 2 ^ w.k)

/-- R180: the window that decides an offer. -/
def decidingWindow (kind : ReferralKind) (i : Nat) (s : State) : Option Nat :=
  windowNos.find? (fun w => (s.window w).restricts kind i)

/-- R181: a request held in an EMPTY slot. -/
def holdRequest (w line addr : Nat) (kind : ReferralKind) (i : Nat) (s : State) : State :=
  let held : HeldSlot := { line := line, addr := addr, kind := kind, index := i, start := s.clock.second,
                           limit := (s.window w).limit, elapsed := 0 }
  let n := termNo line addr
  let s1 := s.setWindow w { s.window w with slot := some held }
  let s2 := s1.setTerm n { s1.term n with record := { (s1.term n).record with state := .referred, result := none } }
  (s2.count .rfHeld).raise (.referral w)

/-- R163, step 4, and R165: a referable request offered to the Referral Unit, and carried out by `carry` when it is
exempt or not matched. -/
def refer (line addr : Nat) (kind : ReferralKind) (i : Nat) (carry : State → State) (s : State) : State :=
  if (s.term (termNo line addr)).exempt then carry s
  else
    match decidingWindow kind i s with
    | none => carry s
    | some w =>
      if (s.window w).slot.isSome then giveCode (termNo line addr) .wait s
      else holdRequest w line addr kind i s

/-! ### Dealing with a taken request (R163) -/

/-- R163, step 2, and R164: the symbol looked up and its entry rolled if stale, then `next` with the index. -/
def withSymbol (n : Nat) (sym : Option Text) (next : Nat → State → State) (s : State) : State :=
  match sym with
  | none => giveCode n .unknown s
  | some x =>
    match lookup x s.directory with
    | none => giveCode n .unknown s
    | some i => next i (touch i s)

/-- R163, step 1: an alert slot 0 to 3, then `next`. -/
def withSlot (n : Nat) (slot : Option Nat) (next : Nat → State → State) (s : State) : State :=
  match slot with
  | some k => if k ≤ 3 then next k s else giveCode n .unknown s
  | none => giveCode n .unknown s

/-- PAGE (R166). -/
def dealPage (line addr : Nat) (q : DealerRequest) (s : State) : State :=
  let n := termNo line addr
  match q.page with
  | some p => if p ≤ 1 then carryPage n p s else giveCode n .unknown s
  | none => giveCode n .unknown s

/-- RESYNC (R167). -/
def dealResync (line addr : Nat) (_q : DealerRequest) (s : State) : State := carryResync (termNo line addr) s

/-- R163, step 1: a WATCH-ADD position above 23. -/
def positionTooHigh (p : Option Nat) : Bool :=
  match p with
  | some k => decide (23 < k)
  | none => false

/-- WATCH-ADD (R168). -/
def dealWatchAdd (line addr : Nat) (q : DealerRequest) (s : State) : State :=
  let n := termNo line addr
  if positionTooHigh q.position then giveCode n .unknown s
  else
    withSymbol n q.symbol
      (fun i => checkedWatchAdd n i (refer line addr .watch i (carryWatchAdd n i q.position))) s

/-- WATCH-DROP (R169). -/
def dealWatchDrop (line addr : Nat) (q : DealerRequest) (s : State) : State :=
  let n := termNo line addr
  withSymbol n q.symbol
    (fun i s => if i ∈ (s.term n).watchList then carryWatchDrop n i s else giveCode n .unknown s) s

/-- QUOTE-ASK (R170). -/
def dealQuoteAsk (line addr : Nat) (q : DealerRequest) (s : State) : State :=
  let n := termNo line addr
  withSymbol n q.symbol (fun i => refer line addr .quote i (carryQuote n i)) s

/-- The three conditions are all carried (R163, step 1). -/
def allConditions (q : DealerRequest) : Bool := q.above.isSome && q.below.isSome && q.minSize.isSome

/-- ALERT-SET (R171). -/
def dealAlertSet (line addr : Nat) (q : DealerRequest) (s : State) : State :=
  let n := termNo line addr
  if !allConditions q then giveCode n .unknown s
  else
    withSlot n q.slot (fun k =>
      withSymbol n q.symbol (fun i =>
        checkedAlertSet n i q (fun c => refer line addr .alert i (carryAlertSet n k i c)))) s

/-- ALERT-CLEAR (R172). -/
def dealAlertClear (line addr : Nat) (q : DealerRequest) (s : State) : State :=
  let n := termNo line addr
  withSlot n q.slot (carryAlertClear n) s

end Sys2Proof.Machine
end

