-- ==== Sys2Proof/Machine/Answers.lean ====
section
/-! DEFINITION. The ends of terminal slots: answers with the dealer requests they carry, and time limits (8.3, 9.2). -/

namespace Sys2Proof.Machine

/-! ### Answers (R145 to R148, R153) -/

/-- R145: the slot in progress taken off the line. -/
def dropSlot (line : Nat) (s : State) : State := s.setTLine line { s.tline line with slot := none }

/-- R145, R146: a failed slot of an ACTIVE or LAPSED terminal. -/
def slotFailed (line addr : Nat) (s : State) : State :=
  let n := termNo line addr
  let retry := (s.term n).retry + 1
  let s1 := (s.setTerm n { s.term n with retry := retry }).count .tmRetries
  if 2 * (s.tline line).retryLimit ≤ retry then goSilent line addr s1 else s1

/-- R145, R153: an ACK of an ACTIVE or LAPSED terminal. -/
def slotAcked (line addr : Nat) (tx : Transmission) (s : State) : State :=
  let n := termNo line addr
  match tx with
  | .output _ b =>
    (s.setTerm n { ({ s.term n with outBlock := none } : Terminal).delivered b with retry := 0 }).count .tmBlocks
  | .poll _ => s.setTerm n { s.term n with retry := 0 }

/-- R147, R155: an answer of a JOINING or SILENT terminal. -/
def terminalJoins (line addr : Nat) (s : State) : State :=
  let n := termNo line addr
  (s.setTerm n { s.term n with state := .active, retry := 0, lapse := 0, fullPage := true, changed := true }).raise
    (.terminal line addr)

/-- R145, R147: the outcome of an answered slot; `ack` is false for a NAK. -/
def answerOutcome (line : Nat) (x : TermSlot) (ack : Bool) (s : State) : State :=
  match (s.term (termNo line x.address)).state with
  | .active => if ack then slotAcked line x.address x.tx s else slotFailed line x.address s
  | .lapsed => if ack then slotAcked line x.address x.tx s else slotFailed line x.address s
  | .joining => terminalJoins line x.address s
  | .silent => terminalJoins line x.address s
  | .vacant => s

/-- R145, R147: the outcome of a slot that ended with no answer. -/
def silenceOutcome (line : Nat) (x : TermSlot) (s : State) : State :=
  if (s.term (termNo line x.address)).served then slotFailed line x.address s else s

/-- R148, R150: a dealer request taken; a LAPSED terminal becomes ACTIVE. -/
def Terminal.takeRequest (q : DealerRequest) (t : Terminal) : Terminal :=
  let t1 := { t with record := { state := .taken, request := some q, result := none }, lapse := 0 }
  if t.state = .lapsed then { t1 with state := .active, fullPage := true, idleOwed := false } else t1

/-- R163: a request just taken is dealt with at once, by the rule of its kind; one of no kind of TABLE 9-2 gets
UNKNOWN (step 1). -/
def dealTaken (line addr : Nat) (q : DealerRequest) (s : State) : State :=
  match q.kind with
  | none => giveCode (termNo line addr) .unknown s
  | some .page => dealPage line addr q s
  | some .resync => dealResync line addr q s
  | some .watchAdd => dealWatchAdd line addr q s
  | some .watchDrop => dealWatchDrop line addr q s
  | some .quoteAsk => dealQuoteAsk line addr q s
  | some .alertSet => dealAlertSet line addr q s
  | some .alertClear => dealAlertClear line addr q s

/-- R148: a dealer request carried by an answer: taken and dealt with at the moment it is handed over (R163), or
discarded and counted where the slot's READY was false. -/
def dealerRequest (line addr : Nat) (q : DealerRequest) (s : State) : State :=
  let n := termNo line addr
  if (s.term n).readySent then dealTaken line addr q (s.setTerm n ((s.term n).takeRequest q))
  else s.count .tmOverrun

/-- R148: the request an answer may carry. -/
def carriedRequest (line addr : Nat) (q : Option DealerRequest) (s : State) : State :=
  match q with
  | some q => dealerRequest line addr q s
  | none => s

/-- R145: a message that answers the slot. -/
def answers (x : TermSlot) (m : TerminalMessage) : Bool := decide (m.address = x.address) && m.checkHolds

/-- TERMINAL_ANSWER (R145, R148, R163): a message during a slot. One that names another address or fails its check is
no answer, and the slot goes on to its limit. An answer's own outcome comes first, then the request it carries, whole;
then the round ends if no address is left (log entry 10). -/
def terminalAnswer (line : Nat) (m : TerminalMessage) (s : State) : State :=
  match (s.tline line).slot with
  | none => s
  | some x =>
    if answers x m then
      let s1 := dropSlot line s
      endRoundIfDone line
        (if x.ignored then s1 else carriedRequest line x.address m.request (answerOutcome line x m.ack s1))
    else s

/-- SLOT_TIME_LIMIT (R145): the slot ends with no answer. -/
def slotTimeLimit (line : Nat) (s : State) : State :=
  match (s.tline line).slot with
  | none => s
  | some x =>
    let s1 := dropSlot line s
    endRoundIfDone line (if x.ignored then s1 else silenceOutcome line x s1)

/-- A dealer request's command is the answer that carries a request of that kind (log entry 10); a message that
carries no such request is not the command's event, and nothing happens. -/
def dealerAnswer (kind : DealerKind) (line : Nat) (m : TerminalMessage) (s : State) : State :=
  if m.carries kind then terminalAnswer line m s else s

/-! ### Meanings -/

/-- TERMINAL_ANSWER. -/
def execTerminalAnswer (line : TermLineNo) (message : TerminalMessage) (s : State) :
    Host.Outcome State Fault Refusal := act (terminalAnswer line message) s
/-- SLOT_TIME_LIMIT. -/
def execSlotTimeLimit (line : TermLineNo) (s : State) : Host.Outcome State Fault Refusal := act (slotTimeLimit line) s
/-- PAGE. -/
def execPage (line : TermLineNo) (message : TerminalMessage) (s : State) : Host.Outcome State Fault Refusal :=
  act (dealerAnswer .page line message) s
/-- RESYNC. -/
def execResync (line : TermLineNo) (message : TerminalMessage) (s : State) : Host.Outcome State Fault Refusal :=
  act (dealerAnswer .resync line message) s
/-- WATCH_ADD. -/
def execWatchAdd (line : TermLineNo) (message : TerminalMessage) (s : State) : Host.Outcome State Fault Refusal :=
  act (dealerAnswer .watchAdd line message) s
/-- WATCH_DROP. -/
def execWatchDrop (line : TermLineNo) (message : TerminalMessage) (s : State) : Host.Outcome State Fault Refusal :=
  act (dealerAnswer .watchDrop line message) s
/-- QUOTE_ASK. -/
def execQuoteAsk (line : TermLineNo) (message : TerminalMessage) (s : State) : Host.Outcome State Fault Refusal :=
  act (dealerAnswer .quoteAsk line message) s
/-- ALERT_SET. -/
def execAlertSet (line : TermLineNo) (message : TerminalMessage) (s : State) : Host.Outcome State Fault Refusal :=
  act (dealerAnswer .alertSet line message) s
/-- ALERT_CLEAR. -/
def execAlertClear (line : TermLineNo) (message : TerminalMessage) (s : State) : Host.Outcome State Fault Refusal :=
  act (dealerAnswer .alertClear line message) s

end Sys2Proof.Machine
end

