-- ==== Sys2Proof/Machine/LineOps.lean ====
section
/-! DEFINITION. Board line operations shared by several commands: frames, answers, going dark and waking
(chapter 6). -/

namespace Sys2Proof.Machine

/-! ### Slots (R95, R97) -/

/-- R95: the values of a slot that is not enabled; the changed flag is kept. -/
def SlotState.settled (r : SlotState) : SlotState :=
  { staging := none, shown := none, presence := .unknown, changed := r.changed }

/-- R95, R97, R104: one slot brought to the values of a slot that is not enabled, and its cell's needs_full flag cleared,
since a cell whose slot comes up from UNKNOWN has its flag clear (R104). DEDUCED: the flag is cleared at this moment (log
entry 42). -/
def settleSlot (c : Nat) (s : State) : State :=
  (s.setSlot c (s.slotState c).settled).setCell c { s.cell c with needsFull := false }

/-- R95, R97: some slots of a line settled. -/
def settleSlots (line : Nat) (slots : List Nat) (s : State) : State :=
  forEach slots (fun k => settleSlot (cellNo line k)) s

/-- All slots of a line. -/
def slotNos : List Nat := List.range 64

/-! ### Frame start (R100, R101) -/

/-- R101: the next enabled slot after `p` in ascending order, wrapping from the highest to the lowest. -/
def nextEnabled (enabled : List Nat) (p : Nat) : Option Nat :=
  match enabled.find? (fun k => decide (p < k)) with
  | some k => some k
  | none => enabled.head?

/-- R100: the command of an enabled slot at a frame start. -/
def frameCommand (l : BoardLine) (k : Nat) (r : SlotState) : ItemCommand :=
  if l.state = .dark then .blank
  else
    match r.staging with
    | some t => .write t
    | none =>
      match r.shown with
      | some t => if l.scrub = some k then .rewrite t else .sense
      | none => .sense

/-- R100: the send list fixed at a frame start, in ascending slot order. -/
def sendList (line : Nat) (s : State) : List FrameItem :=
  (s.line line).enabled.map (fun k =>
    { slot := k, command := frameCommand (s.line line) k (s.slotState (cellNo line k)) })

/-- R101: the scrub pointer after a frame start. -/
def scrubAfterStart (l : BoardLine) : Option Nat :=
  if l.state = .lit then
    match l.scrub with
    | some p => nextEnabled l.enabled p
    | none => none
  else l.scrub

/-- R100: a frame starts on a LIT or DARK line. -/
def frameStart (line : Nat) (s : State) : State :=
  let l := s.line line
  s.setLine line { l with
    scrub := scrubAfterStart l
    frame := some { items := sendList line s, offset := l.offset, rate := l.rate, sent := 0,
                    applies := l.enabled, settles := false } }

/-! ### Frame end (R102 to R104) -/

/-- R103: a valid answer to an item: in its answer window, from its address, with its check holding. -/
def answered (offset : Nat) (answers : List ModuleAnswer) (k : Nat) : Bool :=
  answers.any (fun a => decide (a.window = some k) && decide (a.address = offset + k) && a.checkHolds)

/-- R102: the slot after an answered command; `width` is the W of its cell at frame end. -/
def SlotState.afterAnswer (width : Nat) (command : ItemCommand) (r : SlotState) : SlotState :=
  match command with
  | .write t => { r with shown := some t, staging := if r.staging = some t then none else r.staging }
  | .rewrite _ => r
  | .sense => r
  | .blank => { r with shown := some (blankText width) }

/-- R102, R104: an answered slot. -/
def slotAnswered (line : Nat) (it : FrameItem) (s : State) : State :=
  let c := cellNo line it.slot
  let r := s.slotState c
  let r1 := r.afterAnswer (s.cell c).width it.command
  if r.presence = .present then s.setSlot c r1
  else
    offerCell true c ((s.setSlot c { r1 with presence := .present, changed := true }).raise
      (.boardModule line it.slot))

/-- R103: a slot that gave no answer. -/
def slotLost (line : Nat) (it : FrameItem) (s : State) : State :=
  let c := cellNo line it.slot
  let r := s.slotState c
  let was := decide (r.presence = .present)
  let s1 := (s.setSlot c { staging := none, shown := none, presence := .absent, changed := r.changed || was }).setCell
    c { s.cell c with needsFull := true }
  if was then (s1.raise (.boardModule line it.slot)).count .bdModuleLost else s1

/-- R102 to R104: one item of the ending frame applied, when its slot is one the frame still applies to (R95). -/
def applyItem (line : Nat) (f : Frame) (answers : List ModuleAnswer) (it : FrameItem) (s : State) : State :=
  if it.slot ∈ f.applies then
    if answered f.offset answers it.slot then slotAnswered line it s else slotLost line it s
  else s

/-- The frame in flight taken off a line. -/
def dropFrame (line : Nat) (s : State) : State := s.setLine line { s.line line with frame := none }

/-- R100: a line that is LIT or DARK begins its next frame, an OFF line none. -/
def nextFrame (line : Nat) (s : State) : State :=
  if (s.line line).state = .off then s else frameStart line s

/-- R97, R100, R102: the end of a frame: answers applied, slots settled where the line entered OFF during it, and
the next frame begun. DESIGN CHOICE: the slots are taken in ascending order, so the forced offers of cells and the MODULE
notices of one frame end enter in that order, which R80 and R104 leave open (log entry 6). -/
def endFrame (line : Nat) (f : Frame) (answers : List ModuleAnswer) (s : State) : State :=
  let s1 := forEach f.items (applyItem line f answers) (dropFrame line s)
  let s2 := if f.settles then settleSlots line slotNos s1 else s1
  nextFrame line s2

/-! ### Line states (R96, R97, R107 to R109) -/

/-- R107, R109: the dark timer started at the full delay. -/
def startDarkTimer (line : Nat) (s : State) : State :=
  s.setLine line { s.line line with darkTimer := some ((s.line line).darkDelay * 60) }

/-- R107: the session enters AFTER: LIT lines with a non-zero delay start their timers. -/
def startDarkTimers (s : State) : State :=
  forEach lineNos (fun n s =>
    if (s.line n).state = .lit ∧ (s.line n).darkDelay ≠ 0 then startDarkTimer n s else s) s

/-- R107, R108: a dark expiry. -/
def darkExpire (line : Nat) (s : State) : State :=
  let l := s.line line
  s.setLine line { l with darkTimer := none, state := if l.state = .lit then .dark else l.state }

/-- R109: a DARK line becomes LIT and its bound and held cells get forced offers. -/
def wakeLine (line : Nat) (s : State) : State :=
  let s1 := s.setLine line { s.line line with state := .lit, darkTimer := none }
  forEach (liveCells line s1) (offerCell true) s1

/-- R109: the session enters PRE_OPEN: DARK lines wake, LIT lines stop their timers, OFF lines are not affected. -/
def wakeLines (s : State) : State :=
  forEach lineNos (fun n s =>
    match (s.line n).state with
    | .dark => wakeLine n s
    | .lit => s.setLine n { s.line n with darkTimer := none }
    | .off => s) s

/-- R107: one tick of a line's dark timer. -/
def tickDark (line : Nat) (s : State) : State :=
  match (s.line line).darkTimer with
  | none => s
  | some n =>
    if n ≤ 1 then darkExpire line s
    else s.setLine line { s.line line with darkTimer := some (n - 1) }

end Sys2Proof.Machine
end

