-- ==== Sys2Proof/Machine/Lines.lean ====
section
/-! DEFINITION. Board lines: LINE-SET, LINE-WAKE, and the events of a frame (chapter 6). -/

namespace Sys2Proof.Machine

/-! ### LINE-SET (R94 to R97) -/

/-- R94, check 1. -/
def LineBody.inRange (b : LineBody) : Bool :=
  decide (b.line ≤ 7) && decide (8 ≤ b.size) && decide (b.size ≤ 64) && decide (b.offset ≤ 15) &&
    decide (b.rate = 5 ∨ b.rate = 10 ∨ b.rate = 20) && decide (b.darkDelay ≤ 255) &&
    b.enabled.all (fun k => decide (k < b.size)) && (lineTargetOf b.target).isSome

/-- R101: the scrub pointer under a new enabled set. -/
def scrubUnder (enabled : List Nat) (scrub : Option Nat) : Option Nat :=
  match scrub with
  | some p => if p ∈ enabled then some p else nextEnabled enabled p
  | none => enabled.head?

/-- R95: the slots a LINE-SET brings to the values of a slot that is not enabled. -/
def settledBy (l : BoardLine) (b : LineBody) : List Nat :=
  if b.offset ≠ l.offset then slotNos else l.enabled.filter (fun k => decide (k ∉ b.enabled))

/-- R95: the frame in flight applies nothing to slots that a LINE-SET settles. -/
def Frame.without (slots : List Nat) (f : Frame) : Frame :=
  { f with applies := f.applies.filter (fun k => decide (k ∉ slots)) }

/-- R94, R101, R107: the line with the request's configuration. -/
def BoardLine.configured (l : BoardLine) (b : LineBody) : BoardLine :=
  { l with
    size := b.size, offset := b.offset, enabled := b.enabled, rate := b.rate, darkDelay := b.darkDelay
    darkTimer := if b.darkDelay = 0 then none else l.darkTimer
    scrub := scrubUnder b.enabled l.scrub
    frame := l.frame.map (Frame.without (settledBy l b)) }

/-- R94, R95: configuration replaced and the affected slots settled. -/
def configureLine (b : LineBody) (s : State) : State :=
  settleSlots b.line (settledBy (s.line b.line) b) (s.setLine b.line ((s.line b.line).configured b))

/-- R97: a LIT or DARK line enters OFF. -/
def lineOff (n : Nat) (s : State) : State :=
  let l := s.line n
  match l.frame with
  | some f => s.setLine n { l with state := .off, darkTimer := none, frame := some { f with settles := true } }
  | none => settleSlots n slotNos (s.setLine n { l with state := .off, darkTimer := none })

/-- R96: a line takes the state LIT or DARK; one that leaves OFF begins its first frame, unless the frame in flight
at its entry to OFF has not ended. -/
def lineTo (x : LineState) (n : Nat) (s : State) : State :=
  let l := s.line n
  let s1 := s.setLine n { l with state := x, darkTimer := if x = .dark then none else l.darkTimer }
  if l.state = .off ∧ l.frame.isNone then frameStart n s1 else s1

/-- R96: the target applied. -/
def applyTarget (t : LineTarget) (n : Nat) (s : State) : State :=
  match t with
  | .unchanged => s
  | .lit => lineTo .lit n s
  | .dark => lineTo .dark n s
  | .off => if (s.line n).state = .off then s else lineOff n s

/-- R94. -/
def lineSetRule (b : LineBody) (s : State) : Served :=
  if !b.inRange then Served.refuse .range s
  else
    match lineTargetOf b.target with
    | none => Served.refuse .range s
    | some t =>
      if t = .lit ∧ (s.line b.line).state = .dark then Served.refuse .state s
      else Served.done (applyTarget t b.line (configureLine b s))

/-! ### LINE-WAKE (R109) -/

/-- R109: the dark timer started in a session that is AFTER or CLOSED, when the delay is not 0. -/
def timerAfterWake (n : Nat) (s : State) : State :=
  if closedOrAfter s.session.state ∧ (s.line n).darkDelay ≠ 0 then startDarkTimer n s else s

/-- R109. -/
def lineWakeRule (n : Nat) (s : State) : Served :=
  if 7 < n then Served.refuse .range s
  else
    match (s.line n).state with
    | .off => Served.refuse .state s
    | .lit => Served.done (timerAfterWake n s)
    | .dark => Served.done (timerAfterWake n (wakeLine n s))

/-! ### Frames (R99, R100, R102) -/

/-- R99: what a module shows after an item it took. -/
def Display.after (d : Display) : ItemCommand → Display
  | .write t => .positions t
  | .rewrite t => .positions t
  | .blank => .spaces
  | .sense => d

/-- FRAME_ITEM_SEND (R99, R100): the next item of the frame in flight goes out to the module address it was fixed
for; `taken` says that a module there took it. -/
def sendItem (n : Nat) (taken : Bool) (s : State) : State :=
  match (s.line n).frame with
  | none => s
  | some f =>
    match f.items[f.sent]? with
    | none => s
    | some it =>
      let s1 := s.setLine n { s.line n with frame := some { f with sent := f.sent + 1 } }
      let addr := f.offset + it.slot
      if taken then s1.setDisplay n addr ((s1.display n addr).after it.command) else s1

/-- FRAME_END (R100, R102): the frame in flight ends once all its items have been sent. -/
def frameEnd (n : Nat) (answers : List ModuleAnswer) (s : State) : State :=
  match (s.line n).frame with
  | none => s
  | some f => if f.sent = f.items.length then endFrame n f answers s else s

/-! ### Staging (R98) -/

/-- R98: a text handed to a slot to be staged. -/
def stageText (line slot : Nat) (t : BoardText) (s : State) : State :=
  let r := s.slotState (cellNo line slot)
  if slot ∉ (s.line line).enabled ∨ r.presence = .absent then s
  else s.setSlot (cellNo line slot) { r with staging := some t }

/-- R90: the text equals the slot's staging, or its shown content when the staging is empty. -/
def SlotState.holds (r : SlotState) (t : BoardText) : Bool :=
  match r.staging with
  | some g => decide (g = t)
  | none => decide (r.shown = some t)

/-- R90: the offer of a BOARD job's text at its completion. -/
def offerText (line slot : Nat) (t : BoardText) (full : Bool) (s : State) : State :=
  if !full && (s.slotState (cellNo line slot)).holds t then s.count .bdUnchanged else stageText line slot t s

/-! ### Meanings -/

/-- LINE_SET. -/
def execLineSet (s : State) : Host.Outcome State Fault Refusal := act (serve .lineSet readLineSet lineSetRule) s
/-- LINE_WAKE. -/
def execLineWake (s : State) : Host.Outcome State Fault Refusal := act (serve .lineWake read1 lineWakeRule) s
/-- FRAME_ITEM_SEND. -/
def execFrameItemSend (line : BoardLineNo) (taken : Bool) (s : State) : Host.Outcome State Fault Refusal :=
  act (sendItem line taken) s
/-- FRAME_END. -/
def execFrameEnd (line : BoardLineNo) (answers : List ModuleAnswer) (s : State) :
    Host.Outcome State Fault Refusal := act (frameEnd line answers) s

end Sys2Proof.Machine
end

