-- ==== Sys2Proof/Machine/Boot.lean ====
section
/-! DEFINITION. The RESET pin and the Layout Loader (11.6). -/

namespace Sys2Proof.Machine

/-! ### RESET (R207) -/

/-- R207: every block at its cold-start value. The waiting commands, the free values used and what the modules
outside the part show are not the part's own. -/
def coldState (asserted : Bool) (s : State) : State :=
  { State.reset with pending := s.pending, free := s.free, displays := s.displays, resetAsserted := asserted }

/-! ### Judging a record (R204, R205) -/

/-- A record of TABLE 11-6 as judged. -/
inductive LayoutRecord where
  | line (line size offset rate : Nat)
  | slot (line slot width : Nat) (field : Field) (index : Option Nat)
  | finish
deriving DecidableEq, Repr

/-- R205, step 1: byte 7 is the sum of bytes 0 to 6 modulo 256. -/
def recordSumHolds (bytes : List Byte) : Bool :=
  decide (((bytes.take 7).map BitVec.toNat).sum % 256 = (bytes.getD 7 0).toNat)

/-- TABLE 11-6: the index of a SLOT record: none within none when it is out of range. -/
def recordIndex (n : Nat) : Option (Option Nat) :=
  if n = 0xFFFF then some none else if n ≤ 1023 then some (some n) else none

/-- R205, steps 2 and 3: the record, none when its kind or a value is outside TABLE 11-6. -/
def readRecord (bytes : List Byte) : Option LayoutRecord :=
  match bytes with
  | [k, b1, b2, b3, b4, b5, b6, _] =>
    if k = 0x01 then
      if b1.toNat ≤ 7 ∧ 8 ≤ b2.toNat ∧ b2.toNat ≤ 64 ∧ b3.toNat ≤ 15 ∧ (b4.toNat = 5 ∨ b4.toNat = 10 ∨ b4.toNat = 20) then
        some (.line b1.toNat b2.toNat b3.toNat b4.toNat)
      else none
    else if k = 0x02 then
      match fieldOf b4.toNat, recordIndex (numberOf [b5, b6]) with
      | some f, some i =>
        if b1.toNat ≤ 7 ∧ b2.toNat ≤ 63 ∧ 1 ≤ b3.toNat ∧ b3.toNat ≤ 10 then
          some (.slot b1.toNat b2.toNat b3.toNat f i)
        else none
      | _, _ => none
    else if k = 0x03 then some .finish
    else none
  | _ => none

/-! ### Taking a record (R74, R93) -/

/-- A number moved to, or joined at, the tail of a list. -/
def toTail (n : Nat) (l : List Nat) : List Nat := l.filter (fun m => decide (m ≠ n)) ++ [n]

/-- R93, R205: a LINE record taken. -/
def takeLine (n size offset rate : Nat) (s : State) : State :=
  let s1 := s.setLine n { s.line n with
    size := size, offset := offset, rate := rate, enabled := List.range size, darkDelay := 0 }
  s1.setLoader { s1.loader with lineCount := s1.loader.lineCount + 1, lines := toTail n s1.loader.lines }

/-- R74: the binding a SLOT record asks for. -/
def layoutBinding (c : Nat) (i : Option Nat) (s : State) : State :=
  if (s.cell c).binding = i then s
  else
    let s1 := leaveBound c s
    match i with
    | none => s1.setCell c { s1.cell c with binding := none }
    | some i =>
      if listFull i s1 then s1.setCell c { s1.cell c with binding := none }
      else joinList i c (s1.setCell c { s1.cell c with binding := some i })

/-- R74, R205: a SLOT record taken. -/
def takeSlot (c width : Nat) (field : Field) (i : Option Nat) (s : State) : State :=
  let s1 := layoutBinding c i (s.setCell c { s.cell c with field := field, width := width })
  s1.setLoader { s1.loader with slotCount := s1.loader.slotCount + 1, cells := toTail c s1.loader.cells }

/-! ### The end of the load (R206) -/

/-- R93, R101: a configured line becomes LIT and begins its first frame. -/
def lightLine (n : Nat) (s : State) : State :=
  frameStart n (s.setLine n { s.line n with state := .lit, scrub := (s.line n).enabled.head? })

/-- R206: the load ends with a result. DEDUCED: the load position stays at the number of the record that ended the load
(log entry 41). -/
def endLoad (result : LoadResult) (cause : Option LoadCause) (failing : Option Nat) (s : State) : State :=
  let s1 := s.setLoader { s.loader with result := result, cause := cause, failing := failing }
  let s2 := forEach s1.loader.lines lightLine s1
  (forEach s2.loader.cells (offerCell true) s2).raise .layout

/-- R204: a load that ends BAD at the record being read. -/
def badLoad (cause : LoadCause) (s : State) : State := endLoad .bad (some cause) (some s.loader.pos) s

/-- R204: the loader goes on to the next record, or ends without an END record after record 511, where the load position
stays (log entry 41). -/
def nextRecord (s : State) : State :=
  if s.loader.pos = 511 then badLoad .noEnd s else s.setLoader { s.loader with pos := s.loader.pos + 1 }

/-- R204, R205: a record read, judged and taken, or ending the load. -/
def judgeRecord (bytes : List Byte) (s : State) : State :=
  if s.loader.pos = 0 ∧ bytes.head? = some 0xFF then endLoad .empty none none s
  else if !recordSumHolds bytes then badLoad .check s
  else
    match readRecord bytes with
    | none => badLoad .content s
    | some .finish => endLoad .loaded none none s
    | some (.line n size offset rate) => nextRecord (takeLine n size offset rate s)
    | some (.slot line slot width field i) => nextRecord (takeSlot (cellNo line slot) width field i s)

/-- LAYOUT_RECORD_READ (R204): what the two-wire port gave for the record at the load position. -/
def recordRead (r : PromRead) (s : State) : State :=
  if s.loader.result = .inProgress then
    match r with
    | .silent => badLoad .promSilent s
    | .record bytes => judgeRecord bytes s
  else s

/-! ### Meanings -/

/-- RESET_ASSERT (R207). -/
def execResetAssert (s : State) : Host.Outcome State Fault Refusal := .next (coldState true s)
/-- RESET_RELEASE (R207): without an assertion before it, no release occurs. -/
def execResetRelease (s : State) : Host.Outcome State Fault Refusal :=
  if s.resetAsserted then .next (coldState false s) else .next s
/-- LAYOUT_RECORD_READ. -/
def execLayoutRecordRead (read : PromRead) (s : State) : Host.Outcome State Fault Refusal := act (recordRead read) s

end Sys2Proof.Machine
end

