-- ==== Sys2Proof/Machine/Session.lean ====
section
/-! DEFINITION. Session transitions, the second tick, and the commands of the clock and of the roll walk
(chapter 3, R29). -/

namespace Sys2Proof.Machine

/-! ### Session transitions (R55 to R57) -/

/-- TABLE 3-3. -/
def legalTransition (x tgt : SessionState) : Bool :=
  match x, tgt with
  | .closed, .preOpen => true
  | .preOpen, .opened => true
  | .preOpen, .closed => true
  | .opened, .haltedAll => true
  | .opened, .after => true
  | .opened, .closed => true
  | .haltedAll, .opened => true
  | .haltedAll, .after => true
  | .haltedAll, .closed => true
  | .after, .preOpen => true
  | .after, .closed => true
  | _, _ => false

/-- TABLE 7-4. -/
def bannerFor (left entered : SessionState) : Option Banner :=
  match left, entered with
  | .preOpen, .opened => some .marketOpen
  | .opened, .haltedAll => some .tradingHalted
  | .haltedAll, .opened => some .tradingResumes
  | .opened, .after => some .marketClosed
  | .haltedAll, .after => some .marketClosed
  | .opened, .closed => some .marketClosed
  | .haltedAll, .closed => some .marketClosed
  | _, _ => none

/-- R27, R29, R56: the day number advances and a roll walk starts at position 0. -/
def beginDay (s : State) : State := (s.setDayNumber ((s.dayNumber + 1) % 256)).setWalk true 0

/-- R120: the banner of a transition offered to each ribbon, whatever its class mask. -/
def offerBanner (left entered : SessionState) (s : State) : State :=
  match bannerFor left entered with
  | some b => forEach ribbonIds (fun id s => offerPrint id (.banner b) s.clock.second s) s
  | none => s

/-- R115, R116: a STOPPED ribbon starts at the entry into PRE_OPEN; the stop test is made at the entry into AFTER
or CLOSED. -/
def ribbonOnSession (entered : SessionState) (id : RibbonId) (s : State) : State :=
  if entered = .preOpen ∧ (s.ribbon id).state = .stopped then startRibbon id s
  else if closedOrAfter entered then stopTest id s
  else s

/-- R57: the part of a transition handed to the Ribbon Controller. -/
def ribbonsOnSession (left entered : SessionState) (s : State) : State :=
  forEach ribbonIds (ribbonOnSession entered) (offerBanner left entered s)

/-- R57: the part of a transition handed to the board lines. -/
def boardsOnSession (entered : SessionState) (s : State) : State :=
  match entered with
  | .after => startDarkTimers s
  | .preOpen => wakeLines s
  | .closed => s
  | .opened => s
  | .haltedAll => s

/-- R57: a transition from the present state into a target, with its hand-offs. -/
def makeTransition (tgt : SessionState) (s : State) : State :=
  let left := s.session.state
  let s1 := (s.setSession { state := tgt, left := left, entered := tgt, second := s.clock.second }).raise .session
  let s2 := if tgt = .preOpen then beginDay s1 else s1
  oweStatus (ribbonsOnSession left tgt (boardsOnSession tgt s2))

/-! ### The calendar (R47) -/

/-- TABLE 3-1. -/
def monthLength (month year : Nat) : Nat :=
  if month = 2 then (if year % 4 = 0 then 29 else 28)
  else if month = 4 ∨ month = 6 ∨ month = 9 ∨ month = 11 then 30
  else 31

/-- R47, steps 1 to 4: the calendar one day on. -/
def Clock.nextDay (c : Clock) : Clock :=
  let weekday := (c.weekday + 1) % 7
  if c.day + 1 ≤ monthLength c.month c.year then { c with weekday := weekday, day := c.day + 1 }
  else if c.month + 1 ≤ 12 then { c with weekday := weekday, day := 1, month := c.month + 1 }
  else { c with weekday := weekday, day := 1, month := 1, year := (c.year + 1) % 100 }

/-- R47: the time of day and calendar one second on. -/
def Clock.tick (c : Clock) : Clock :=
  if c.second = Config.daySeconds - 1 then { c.nextDay with second := 0 }
  else { c with second := c.second + 1 }

/-! ### What a tick hands out (R51) -/

/-- R88: a cell's flash count runs out and the cell is offered. -/
def flashExpire (c : Nat) (s : State) : State :=
  offerCell false c (s.setCell c { s.cell c with flashCount := 0 })

/-- R88: the cells whose flash count reaches 0 at the next tick, by number. -/
def expiringCells (s : State) : List Nat :=
  (Table.keys s.cells).filter (fun c => decide ((s.cell c).flashCount = 1))

/-- R88: one tick of a running flash count that does not run out. -/
def tickFlash (c : Nat) (s : State) : State :=
  if 1 < (s.cell c).flashCount then
    s.setCell c { s.cell c with flashCount := (s.cell c).flashCount - 1 }
  else s

/-- R88: one tick of every flash count. The cells that run out together enter in an order the manual leaves
open (R80, log entry 6). -/
def tickFlashes (s : State) : State :=
  let out := expiringCells s
  let s1 := forEach (Table.keys s.cells) tickFlash s
  forEach (freeOrder out.length s.free out) flashExpire (s1.setFree (s.free + out.length))

/-- R123, R128: one tick of a ribbon's dwell and LATE age. -/
def Ribbon.tick (r : Ribbon) : Ribbon :=
  { r with dwell := if r.state = .off then 0 else min 30 (r.dwell + 1), lateAge := min 120 (r.lateAge + 1) }

/-- R51: a tick handed to the blocks that count seconds. Windows whose holds expire together do so in an order the
manual leaves open (log entry 6). -/
def tickCounts (s : State) : State :=
  let s1 := forEach lineNos tickDark (tickFlashes s)
  let s2 := forEach ribbonIds (fun id s => s.setRibbon id (s.ribbon id).tick) s1
  let s3 := forEach termNos tickLapse (forEach tlineNos tickQuiet s2)
  let held := windowNos.filter (fun w => (s3.window w).slot.isSome)
  forEach (freeOrder held.length s3.free held) tickReferral (s3.setFree (s3.free + held.length))

/-! ### The schedule (R53, R54) -/

/-- R53: the day selector holds a calendar. -/
def DaySelector.holds (c : Clock) : DaySelector → Bool
  | .weekdays set => set.getLsbD c.weekday
  | .date d => decide (c.day = d)

/-- R53: an enabled entry matches a moment. -/
def SchedEntry.holds (c : Clock) (e : SchedEntry) : Bool :=
  e.enabled && (!e.hourMatch || decide (c.second / 3600 = e.hour)) &&
    (!e.minuteMatch || decide (c.second % 3600 / 60 = e.minute)) && (!e.dayMatch || e.selector.holds c)

/-- R54: an entry skipped, with its record and notice. -/
def skipEntry (n : Nat) (reason : SkipReason) (s : State) : State :=
  (s.setSched n { s.schedEntry n with
    skip := some { second := s.clock.second, found := s.session.state, reason := reason } }).raise (.scheduleSkip n)

/-- R54: a matching entry applied against the session state it finds; legality is tested before the walk. -/
def applyEntry (n : Nat) (s : State) : State :=
  let tgt := (s.schedEntry n).target
  if tgt = s.session.state then s
  else if !legalTransition s.session.state tgt then skipEntry n .illegal s
  else if tgt = .preOpen ∧ s.walkActive then skipEntry n .walk s
  else makeTransition tgt s

/-- The numbers of the sixteen schedule entries. -/
def schedNos : List Nat := List.range 16

/-- R53: the entries that match now, in ascending number. -/
def matchingEntries (s : State) : List Nat := schedNos.filter (fun n => (s.schedEntry n).holds s.clock)

/-- R53: this second is a minute boundary of a set clock. -/
def minuteBoundary (c : Clock) : Bool := decide (c.state ≠ .unset) && decide (c.second % 60 = 0)

/-- R53, R54: the minute-boundary test: matching entries applied one after another, each whole. -/
def minuteTest (s : State) : State :=
  if minuteBoundary s.clock then forEach (matchingEntries s) (fun n s => settle s (applyEntry n s)) s else s

/-- R47: one second tick: time and calendar first, then what the tick hands out, then the minute-boundary test. -/
def secondTick (s : State) : State :=
  minuteTest (settle s (tickCounts (s.setClock s.clock.tick)))

/-! ### Reference indication and clock state (R48, R49) -/

/-- R49: a change of clock state raises a CLOCK notice. -/
def setClockState (x : ClockState) (s : State) : State :=
  if s.clock.state = x then s else (s.setClock { s.clock with state := x }).raise .clock

/-- R48, R49: the indication becomes PRESENT and the watch restarts. -/
def referencePresent (s : State) : State :=
  let s1 := s.setClock { s.clock with present := true, watchExpired := false }
  if s1.clock.state = .freeRunning then setClockState .running s1 else s1

/-- R48, R49: the watch expires and the indication becomes LOST. -/
def referenceLost (s : State) : State :=
  let s1 := s.setClock { s.clock with present := false, watchExpired := true }
  if s1.clock.state = .running then setClockState .freeRunning s1 else s1

/-- SECOND_PULSE (R48). R48 lists the three things a pulse does without an order; the model takes the tick first, so a
notice of that tick joins the list before a CLOCK notice (DESIGN CHOICE, log entry 37). -/
def secondPulse (s : State) : State := referencePresent (secondTick s)

/-- REFERENCE_WATCH_EXPIRY (R48): when the watch runs, it expires, and three ticks are taken in turn. -/
def watchExpiry (s : State) : State :=
  if s.clock.watchExpired then s else secondTick (secondTick (secondTick (referenceLost s)))

/-- INTERNAL_SECOND (R48): a tick while the indication is LOST. -/
def internalSecond (s : State) : State := if s.clock.present then s else secondTick s

/-- FLASH_EXPIRY (R88): this cell's part of the next tick, when its flash has one second to run. Log entry 7. -/
def flashExpiry (c : Nat) (s : State) : State :=
  if (s.cell c).flashCount = 1 then flashExpire c s else s

/-- DARK_EXPIRY (R107): this line's part of the next tick, when its timer has one second to run. Log entry 7. -/
def darkExpiry (line : Nat) (s : State) : State :=
  if (s.line line).darkTimer = some 1 then darkExpire line s else s

/-- QUIET_INTERVAL_EXPIRY (R143): this line's part of the next tick, when it brings the quiet count of an idle
QUIET line with an admitted terminal to the quiet interval. Log entry 7. -/
def quietExpiry (line : Nat) (s : State) : State :=
  let l := s.tline line
  if l.round.isNone ∧ l.poll = .quiet ∧ l.quietInterval ≤ min 10 (l.quietCount + 1) ∧ anyAdmitted line s then
    tickQuiet line s
  else s

/-- TERMINAL_LAPSE (R150): this terminal's part of the next tick, when its count reaches the lapse time.
Log entry 7. -/
def lapseExpiry (n : Nat) (s : State) : State :=
  if ((s.term n).tickLapse (s.tline (n / 16)).lapseTime).state ≠ (s.term n).state then tickLapse n s else s

/-- REFERRAL_EXPIRY (R183): this slot's part of the next tick, when its elapsed count reaches its limit.
Log entry 7. -/
def referralExpiry (w : Nat) (s : State) : State :=
  match (s.window w).slot with
  | some h => if h.limit ≤ h.elapsed + 1 then expireHeld w h s else s
  | none => s

/-! ### The roll walk (R29) -/

/-- R29: the walk ends with its flag clear. The manual states no position once index 1,023 has been visited, so it
is a free value (log entry 35). -/
def endWalk (s : State) : State :=
  (s.setWalk false (Config.freeChoice s.free % 1024)).setFree (s.free + 1)

/-- ROLL_WALK_VISIT (R29): the entry at the position is rolled if stale, and the position advances; the visit to
index 1,023 ends the walk. -/
def walkVisit (s : State) : State :=
  if s.walkActive then
    let s1 := touch s.walkPos s
    if s.walkPos < 1023 then s1.setWalk true (s.walkPos + 1) else endWalk s1
  else s

/-! ### Meanings -/

/-- SECOND_PULSE. -/
def execSecondPulse (s : State) : Host.Outcome State Fault Refusal := act secondPulse s
/-- REFERENCE_WATCH_EXPIRY. -/
def execReferenceWatchExpiry (s : State) : Host.Outcome State Fault Refusal := act watchExpiry s
/-- INTERNAL_SECOND. -/
def execInternalSecond (s : State) : Host.Outcome State Fault Refusal := act internalSecond s
/-- ROLL_WALK_VISIT. -/
def execRollWalkVisit (s : State) : Host.Outcome State Fault Refusal := act walkVisit s
/-- FLASH_EXPIRY. -/
def execFlashExpiry (line : BoardLineNo) (slot : SlotNo) (s : State) : Host.Outcome State Fault Refusal :=
  act (flashExpiry (cellNo line slot)) s
/-- DARK_EXPIRY. -/
def execDarkExpiry (line : BoardLineNo) (s : State) : Host.Outcome State Fault Refusal := act (darkExpiry line) s
/-- QUIET_INTERVAL_EXPIRY. -/
def execQuietIntervalExpiry (line : TermLineNo) (s : State) : Host.Outcome State Fault Refusal :=
  act (quietExpiry line) s
/-- TERMINAL_LAPSE. -/
def execTerminalLapse (line : TermLineNo) (address : TermAddr) (s : State) : Host.Outcome State Fault Refusal :=
  act (lapseExpiry (termNo line address)) s
/-- REFERRAL_EXPIRY. -/
def execReferralExpiry (window : WindowNo) (s : State) : Host.Outcome State Fault Refusal :=
  act (referralExpiry window) s

end Sys2Proof.Machine
end

