-- ==== Sys2Proof/Machine/Clocks.lean ====
section
/-! DEFINITION. The Session Clock's requests: SESSION-SET, TIME-SET, SCHED-SET (chapter 3). -/

namespace Sys2Proof.Machine

/-! ### SESSION-SET (R58) -/

/-- R58: DONE with the session state after the request. -/
def sessionDone (s : State) : Served := Served.reply (enumByte s.session.state.code) s

/-- R58. -/
def sessionSetRule (n : Nat) (s : State) : Served :=
  match sessionStateOf n with
  | none => Served.refuse .range s
  | some tgt =>
    if tgt = s.session.state then sessionDone s
    else if !legalTransition s.session.state tgt then Served.refuse .state s
    else if tgt = .preOpen ∧ s.walkActive then Served.refuse .state s
    else sessionDone (makeTransition tgt s)

/-! ### TIME-SET (R50) -/

/-- R50. -/
def TimeBody.inRange (b : TimeBody) : Bool :=
  decide (b.second < Config.daySeconds) && decide (b.weekday ≤ 6) && decide (1 ≤ b.month) && decide (b.month ≤ 12) &&
    decide (b.year ≤ 99) && decide (1 ≤ b.day) && decide (b.day ≤ monthLength b.month b.year)

/-- R50: the five values loaded. -/
def loadTime (b : TimeBody) (s : State) : State :=
  s.setClock { s.clock with second := b.second, weekday := b.weekday, day := b.day, month := b.month, year := b.year }

/-- R50, R49: the clock state an accepted TIME-SET sets. -/
def setStateAfterTime (s : State) : State :=
  setClockState (if s.clock.present then .running else .freeRunning) s

/-- R50. -/
def timeSetRule (b : TimeBody) (s : State) : Served :=
  if !b.inRange then Served.refuse .range s else Served.done (setStateAfterTime (loadTime b s))

/-! ### SCHED-SET (R52) -/

/-- The day selector a body asks for, none when its type or value is out of range. A weekday set names weekdays 0 to 6
only, and there are two types (log entry 22). -/
def SchedBody.selector (b : SchedBody) : Option DaySelector :=
  if b.selectorType = 0 then
    if b.selectorByte.toNat < 128 then some (.weekdays b.selectorByte) else none
  else if b.selectorType = 1 then
    if 1 ≤ b.selectorByte.toNat ∧ b.selectorByte.toNat ≤ 31 then some (.date b.selectorByte.toNat) else none
  else none

/-- R52: the entry a body asks for, none when it is refused RANGE; the skip record is the one given. -/
def SchedBody.toEntry (b : SchedBody) (skip : Option SkipRecord) : Option SchedEntry :=
  match b.selector, sessionStateOf b.target with
  | some sel, some tgt =>
    if 15 < b.entry ∨ 23 < b.hour ∨ 59 < b.minute ∨ (b.dayMatch ∧ sel = .weekdays 0) then none
    else some { enabled := b.enabled, hour := b.hour, hourMatch := b.hourMatch, minute := b.minute,
                minuteMatch := b.minuteMatch, selector := sel, dayMatch := b.dayMatch, target := tgt, skip := skip }
  | _, _ => none

/-- R52. -/
def schedSetRule (b : SchedBody) (s : State) : Served :=
  match b.toEntry (s.schedEntry b.entry).skip with
  | none => Served.refuse .range s
  | some e => Served.done (s.setSched b.entry e)

/-! ### Meanings -/

/-- SESSION_SET. -/
def execSessionSet (s : State) : Host.Outcome State Fault Refusal := act (serve .sessionSet read1 sessionSetRule) s
/-- TIME_SET. -/
def execTimeSet (s : State) : Host.Outcome State Fault Refusal := act (serve .timeSet readTimeSet timeSetRule) s
/-- SCHED_SET. -/
def execSchedSet (s : State) : Host.Outcome State Fault Refusal := act (serve .schedSet readSchedSet schedSetRule) s

end Sys2Proof.Machine
end

