-- ==== Sys2Proof/Machine/Ribbons.lean ====
section
/-! DEFINITION. Ribbons: RIBBON-SET and the character period (chapter 7). -/

namespace Sys2Proof.Machine

/-! ### RIBBON-SET (R113, R114) -/

/-- R113. -/
def RibbonBody.inRange (b : RibbonBody) : Bool :=
  decide (6 ≤ b.rate) && decide (b.rate ≤ 30) && decide (10 ≤ b.up1) && decide (b.up1 < b.up2) &&
    decide (b.up2 < b.up3) && decide (b.up3 ≤ 900) && decide (2 ≤ b.trim) && decide (b.trim ≤ 99)

/-- R113: the ribbon with the request's configuration. -/
def Ribbon.configured (r : Ribbon) (b : RibbonBody) : Ribbon :=
  { r with mask := b.mask, rate := b.rate, up1 := b.up1, up2 := b.up2, up3 := b.up3, trim := b.trim }

/-- R114, R135: queue, FIFO, mode, dwell, anchor bits, preceding instrument and LATE state at their starting values. -/
def Ribbon.cleared (r : Ribbon) : Ribbon :=
  { r with queue := [], fifo := [], mode := .normal, dwell := 0, anchors := [], preceding := none,
           lateFigure := none, lateAge := 120 }

/-- R114: the ribbon at entry to OFF. -/
def Ribbon.turnedOff (r : Ribbon) : Ribbon := { r.cleared with state := .off, period := none, output := none }

/-- R68: a job of the ribbon in flight is told that the ribbon entered OFF. -/
def Job.ribbonOff (id : RibbonId) : Job → Job
  | .ribbon r late lt t an pr off => .ribbon r late lt t an pr (off || decide (r = id))
  | .board line slot t full => .board line slot t full
  | .terminal line addr b f => .terminal line addr b f

/-- R114: entry to OFF. -/
def ribbonOff (id : RibbonId) (s : State) : State :=
  let r := s.ribbon id
  let s1 := s.setRibbon id r.turnedOff
  let s2 := s1.setFU { s1.fu with job := s1.fu.job.map (Job.ribbonOff id) }
  if r.mode = .normal then s2 else s2.raise (.ribbon id)

/-- R114, R135: the session is CLOSED or AFTER: an enabled ribbon is STOPPED, else RUNNING. -/
def enabledState (x : SessionState) : RibbonState := if closedOrAfter x then .stopped else .running

/-- R114: an enable ON. -/
def ribbonOn (id : RibbonId) (s : State) : State :=
  if (s.ribbon id).state ≠ .off then s
  else
    match enabledState s.session.state with
    | .running => startRibbon id s
    | x => s.setRibbon id { s.ribbon id with state := x }

/-- R114. -/
def applyEnable (e : RibbonEnable) (id : RibbonId) (s : State) : State :=
  match e with
  | .unchanged => s
  | .on => ribbonOn id s
  | .off => if (s.ribbon id).state = .off then s else ribbonOff id s

/-- R113. -/
def ribbonSetRule (b : RibbonBody) (s : State) : Served :=
  match ribbonOf b.ribbon, ribbonEnableOf b.enable with
  | some id, some e =>
    if b.inRange then Served.done (applyEnable e id (s.setRibbon id ((s.ribbon id).configured b)))
    else Served.refuse .range s
  | _, _ => Served.refuse .range s

/-! ### The character period (R132, R133) -/

/-- CHARACTER_PERIOD (R132): the next period of a RUNNING ribbon starts; on any other ribbon, the period in which the
last character was still sent ends, and the output falls idle (R116). -/
def characterPeriod (id : RibbonId) (s : State) : State :=
  if (s.ribbon id).state = .running then
    if (s.ribbon id).fifo.isEmpty then periodStart id s else stopTest id (periodStart id s)
  else s.setRibbon id { s.ribbon id with output := none }

/-! ### Meanings -/

/-- RIBBON_SET. -/
def execRibbonSet (s : State) : Host.Outcome State Fault Refusal := act (serve .ribbonSet readRibbonSet ribbonSetRule) s
/-- CHARACTER_PERIOD. -/
def execCharacterPeriod (ribbon : RibbonId) (s : State) : Host.Outcome State Fault Refusal :=
  act (characterPeriod ribbon) s

end Sys2Proof.Machine
end

