-- ==== Sys2Proof/Machine/Jobs.lean ====
section
/-! DEFINITION. The Format Unit's commands: FORMAT-SET and the three job completions (chapter 4). -/

namespace Sys2Proof.Machine

/-- R71. -/
def formatSetRule (g : Nat) (s : State) : Served :=
  if g < 1 ∨ 8 < g then Served.refuse .range s else Served.done (s.setFU { s.fu with runLength := g })

/-- The job in flight taken off the unit. -/
def dropJob (s : State) : State := s.setFU { s.fu with job := none }

/-- R67, R90: a BOARD job delivers its text. -/
def deliverBoard (line slot : Nat) (t : BoardText) (full : Bool) (s : State) : State :=
  (offerText line slot t full s).count .bdFormats

/-- R129: the ribbon after its job's texts are written. DEDUCED: an anchor print sets its bit whatever the ribbon's mode
has become since the print was formed, though R134 has a ribbon in NORMAL or TRIM set no bit (log entry 43). -/
def Ribbon.written (r : Ribbon) (late : Option Nat) (text : Text) (anchor preceding : Option Nat) : Ribbon :=
  { r with
    fifo := r.fifo ++ text
    lateFigure := match late with | some n => some n | none => r.lateFigure
    lateAge := match late with | some _ => 0 | none => r.lateAge
    preceding := preceding
    anchors := match anchor with | some i => insertNo i r.anchors | none => r.anchors }

/-- R129: a RIBBON job delivers its texts, unless the ribbon has entered OFF during it, and the stop test is made
(log entry 28). -/
def deliverRibbon (id : RibbonId) (late : Option Nat) (text : Text) (anchor preceding : Option Nat) (offSince : Bool)
    (s : State) : State :=
  if offSince then stopTest id s
  else
    stopTest id ((s.setRibbon id ((s.ribbon id).written late text anchor preceding)).count (printsCounter id))

/-- R143: on a QUIET line, the placing of an out-block begins a round when the round is idle. -/
def roundForBlock (line : Nat) (s : State) : State :=
  if (s.tline line).poll = .quiet then startRoundIfIdle line s else s

/-- R69, R153, R154: a TERMINAL job delivers its block, or discards it. -/
def deliverTerminal (line addr : Nat) (b : Block) (fate : JobFate) (s : State) : State :=
  let n := termNo line addr
  match fate with
  | .kept => roundForBlock line (s.setTerm n { s.term n with outBlock := some b })
  | .silenced => s.setTerm n ((s.term n).discard b)
  | .retired => s

/-- BOARD_JOB_COMPLETION (R67, R65). -/
def completeBoard (s : State) : State :=
  match s.fu.job with
  | some (.board line slot t full) => arbitrate (deliverBoard line slot t full (dropJob s))
  | _ => s

/-- RIBBON_JOB_COMPLETION (R68, R65). -/
def completeRibbon (s : State) : State :=
  match s.fu.job with
  | some (.ribbon id late lateText text anchor preceding offSince) =>
    arbitrate (deliverRibbon id late (lateText ++ text) anchor preceding offSince (dropJob s))
  | _ => s

/-- TERMINAL_JOB_COMPLETION (R69, R65). -/
def completeTerminal (s : State) : State :=
  match s.fu.job with
  | some (.terminal line addr b fate) => arbitrate (deliverTerminal line addr b fate (dropJob s))
  | _ => s

/-! ### Meanings -/

/-- FORMAT_SET. -/
def execFormatSet (s : State) : Host.Outcome State Fault Refusal := act (serve .formatSet read1 formatSetRule) s
/-- BOARD_JOB_COMPLETION. -/
def execBoardJobCompletion (s : State) : Host.Outcome State Fault Refusal := act completeBoard s
/-- RIBBON_JOB_COMPLETION. -/
def execRibbonJobCompletion (s : State) : Host.Outcome State Fault Refusal := act completeRibbon s
/-- TERMINAL_JOB_COMPLETION. -/
def execTerminalJobCompletion (s : State) : Host.Outcome State Fault Refusal := act completeTerminal s

end Sys2Proof.Machine
end

