-- ==== Sys2Proof/Machine/Queries.lean ====
section
/-! DEFINITION. The queries and CLEAR-COUNTERS (R45, R92, R136, R157, R202, R203). -/

namespace Sys2Proof.Machine

/-- ASK-STATUS (R202). -/
def askStatusRule (part : Nat) (s : State) : Served :=
  if 5 < part then Served.refuse .range s else Served.reply (numBytes 1 part ++ statusBytes part s) s

/-- ASK-INSTRUMENT (R45): a stale entry is rolled first. -/
def askInstrumentRule (i : Nat) (s : State) : Served :=
  if 1023 < i then Served.refuse .range s
  else Served.reply (instrumentBytes ((touch i s).entry i)) (touch i s)

/-- ASK-CELL (R92, R111). -/
def askCellRule (b : Nat × Nat) (s : State) : Served :=
  if !slotInRange b.1 b.2 then Served.refuse .range s
  else Served.reply (cellBytes b.1 b.2 s ++ slotBytes b.1 b.2 s) s

/-- ASK-TERMINAL (R157, R177). -/
def askTerminalRule (b : Nat × Nat) (s : State) : Served :=
  if !termInRange b.1 b.2 then Served.refuse .range s
  else Served.reply (terminalBytes b.1 b.2 s ++ watchBytes (s.term (termNo b.1 b.2))) s

/-- ASK-RIBBON (R136). -/
def askRibbonRule (n : Nat) (s : State) : Served :=
  match ribbonOf n with
  | some id => Served.reply (ribbonBytes id s) s
  | none => Served.refuse .range s

/-- ASK-COUNTERS (R203). -/
def askCountersRule (_u : Unit) (s : State) : Served := Served.reply (allCounterBytes s) s

/-- CLEAR-COUNTERS (R203): the values as they stood just before the clearing. -/
def clearCountersRule (_u : Unit) (s : State) : Served := Served.reply (allCounterBytes s) s.clearCounters

/-- ASK_STATUS. -/
def execAskStatus (s : State) : Host.Outcome State Fault Refusal :=
  actUndecided (serve .askStatus read1 askStatusRule) s
/-- ASK_INSTRUMENT. -/
def execAskInstrument (s : State) : Host.Outcome State Fault Refusal :=
  act (serve .askInstrument readIndex askInstrumentRule) s
/-- ASK_CELL. -/
def execAskCell (s : State) : Host.Outcome State Fault Refusal :=
  actUndecided (serve .askCell read2 askCellRule) s
/-- ASK_TERMINAL. -/
def execAskTerminal (s : State) : Host.Outcome State Fault Refusal :=
  actUndecided (serve .askTerminal read2 askTerminalRule) s
/-- ASK_RIBBON. -/
def execAskRibbon (s : State) : Host.Outcome State Fault Refusal :=
  actUndecided (serve .askRibbon read1 askRibbonRule) s
/-- ASK_COUNTERS. -/
def execAskCounters (s : State) : Host.Outcome State Fault Refusal :=
  actUndecided (serve .askCounters readNone askCountersRule) s
/-- CLEAR_COUNTERS. -/
def execClearCounters (s : State) : Host.Outcome State Fault Refusal :=
  act (serve .clearCounters readNone clearCountersRule) s

end Sys2Proof.Machine
end

