-- ==== Sys2Proof/Machine/Referral.lean ====
section
/-! DEFINITION. The Referral Unit's requests: WINDOW-SET and REFER-ANSWER (chapter 10). -/

namespace Sys2Proof.Machine

/-! ### WINDOW-SET (R178, R179) -/

/-- R178. -/
def WindowBody.inRange (b : WindowBody) : Bool :=
  decide (b.window ≤ 3) && decide (b.k ≤ 10) && decide (b.base ≤ 1023) && decide (b.base % 2 ^ b.k = 0) &&
    decide (b.kinds.toNat < 8) && decide (5 ≤ b.limit) && decide (b.limit ≤ 120)

/-- R178: the window's configuration replaced; slot and last outcome stand. -/
def configureWindow (b : WindowBody) (s : State) : State :=
  s.setWindow b.window { s.window b.window with
    enabled := b.enabled, k := b.k, base := b.base, kinds := b.kinds, limit := b.limit }

/-- R178. -/
def windowSetRule (b : WindowBody) (s : State) : Served :=
  if b.inRange then Served.done (configureWindow b s) else Served.refuse .range s

/-! ### REFER-ANSWER (R184, R185) -/

/-- R184, step 2, and R165: a held request's checks made again and the request carried out against the held index. -/
def grantHeld (h : HeldSlot) (s : State) : State :=
  let n := termNo h.line h.addr
  let q := (s.term n).record.request.getD DealerRequest.blank
  match h.kind with
  | .watch => checkedWatchAdd n h.index (carryWatchAdd n h.index q.position) s
  | .quote => carryQuote n h.index s
  | .alert => checkedAlertSet n h.index q (fun c => carryAlertSet n (q.slot.getD 0) h.index c) s

/-- R184: a GRANT. -/
def grantWindow (w : Nat) (h : HeldSlot) (s : State) : State := grantHeld h (emptySlot w .granted s)

/-- R185: a DENY. -/
def denyWindow (w : Nat) (h : HeldSlot) (s : State) : State :=
  giveCode (termNo h.line h.addr) .denied (emptySlot w .denied s)

/-- The code of the result the dealer was given. -/
def givenCode (n : Nat) (s : State) : ReplyCode :=
  match (s.term n).record.result with
  | some r => r.code
  | none => .unknown

/-- R184, R185: DONE with the window, the decision, the terminal and the result. DEDUCED: the result is sent as its reply
code alone, without the details of an ACCEPTED one (log entry 14). -/
def referReply (w decision : Nat) (h : HeldSlot) (s : State) : Served :=
  Served.reply (numBytes 1 w ++ enumByte decision ++ numBytes 1 h.line ++ numBytes 1 h.addr ++
    enumByte (givenCode (termNo h.line h.addr) s).code) s

/-- R184. DESIGN CHOICE: an unknown decision for an EMPTY slot meets both refusals, and is refused RANGE (log entry 40). -/
def referAnswerRule (b : Nat × Nat) (s : State) : Served :=
  if 3 < b.1 ∨ 1 < b.2 then Served.refuse .range s
  else
    match (s.window b.1).slot with
    | none => Served.refuse .stale s
    | some h => referReply b.1 b.2 h (if b.2 = 0 then grantWindow b.1 h s else denyWindow b.1 h s)

/-! ### Meanings -/

/-- WINDOW_SET. -/
def execWindowSet (s : State) : Host.Outcome State Fault Refusal := act (serve .windowSet readWindowSet windowSetRule) s
/-- REFER_ANSWER. -/
def execReferAnswer (s : State) : Host.Outcome State Fault Refusal := act (serve .referAnswer read2 referAnswerRule) s

end Sys2Proof.Machine
end

