-- ==== Sys2Proof/Machine/Restart.lean ====
section
/-! DEFINITION. RESTART: the warm restart of every block (R209, R210). -/

namespace Sys2Proof.Machine

/-! ### The Format Unit (R72) -/

/-- R72: the Format Unit after a warm restart: IDLE until the first event that finds a requester requesting. -/
def FormatUnit.restarted (f : FormatUnit) : FormatUnit := { FormatUnit.cold with runLength := f.runLength }

/-! ### The Cell Table (R91) -/

/-- R91: a cell after a warm restart. -/
def Cell.restarted (r : Cell) : Cell := { r.fresh with needsFull := false }

/-- R91: the Cell Table's warm restart: every queue emptied, then every bound or held cell entered. -/
def restartCells (s : State) : State :=
  let s1 := forEach (Table.keys s.cells) (fun c s => s.setCell c (s.cell c).restarted) s
  let s2 := forEach lineNos (fun n s => s.setQueue n []) s1
  forEach lineNos (fun n s => forEach (liveCells n s) (offerCell true) s) s2

/-! ### The board lines (R110) -/

/-- R110: a board line's warm restart. -/
def restartLine (n : Nat) (s : State) : State :=
  let s1 := s.setLine n { s.line n with frame := none, darkTimer := none, scrub := (s.line n).enabled.head? }
  nextFrame n (forEach slotNos (fun k s => s.setSlot (cellNo n k) SlotState.cold) s1)

/-! ### The ribbons (R135) -/

/-- R135: a ribbon's warm restart. DEDUCED: the output of a ribbon that is not RUNNING after it falls idle at once, since
R132 has the output of a STOPPED ribbon idle: that of a ribbon which the restart stops in the middle of a period, and that of
a STOPPED one whose last character was still being sent (R116, log entry 16). -/
def restartRibbon (id : RibbonId) (s : State) : State :=
  let r := { (s.ribbon id).cleared with period := none, output := none }
  let s1 := s.setRibbon id r
  if r.state = .off then s1
  else
    match enabledState s.session.state with
    | .running => startRibbon id s1
    | x => s1.setRibbon id { r with state := x }

/-! ### The terminals (R137, R156, R158, R174) -/

/-- R174: an alert after a warm restart. -/
def Alert.unmarked (a : Alert) : Alert := { a with marked := false }

/-- R156, R158, R174: a terminal after a warm restart. -/
def Terminal.restarted (t : Terminal) : Terminal :=
  let t1 := (List.range 4).foldl (fun t n => t.setAlert n (t.alert n).unmarked) t
  { t1 with
    state := if t.state = .vacant then .vacant else .joining
    retry := 0, lapse := 0, outBlock := none, record := RequestRecord.cold, fullPage := true,
    statusOwed := false, idleOwed := false, readySent := true, changed := false, rows := [] }

/-- R137, R72: a terminal line after a warm restart, before its round starts. -/
def TermLine.restarted (l : TermLine) : TermLine :=
  { l with round := none, roundCount := 0, quietCount := 0, attention := false, compose := 15, slot := none }

/-- R137, R156: the terminals' and terminal lines' warm restart. -/
def restartTerminals (s : State) : State :=
  let s1 := forEach termNos (fun n s => s.setTerm n (s.term n).restarted) s
  forEach tlineNos (fun n s => startRoundIfIdle n (s.setTLine n (s.tline n).restarted)) s1

/-! ### The Referral Unit (R190) -/

/-- R190: a window after a warm restart. -/
def Window.restarted (w : Window) : Window :=
  if w.slot.isSome then { w with slot := none, outcome := .cancelled } else w

/-- R190: the Referral Unit's warm restart. -/
def restartWindows (s : State) : State := forEach windowNos (fun n s => s.setWindow n (s.window n).restarted) s

/-! ### The whole (R209) -/

/-- R209, R210: every block's warm restart; no notice is raised. -/
def restartBlocks (s : State) : State :=
  restartWindows (restartTerminals (forEach ribbonIds restartRibbon
    (forEach lineNos restartLine (restartCells (s.setFU s.fu.restarted)))))

/-- R209: the request queue and the notice list emptied. -/
def emptyLink (s : State) : State := s.setLink { s.link with requests := [], notices := [] }

/-- RESTART (R209): DONE with the numbers of requests and notice items discarded. -/
def restartRule (_u : Unit) (s : State) : Served :=
  Served.reply (numBytes 1 s.link.requests.length ++ numBytes 2 s.link.notices.length) (emptyLink (restartBlocks s))

/-- RESTART. -/
def execRestart (s : State) : Host.Outcome State Fault Refusal := actUndecided (serve .restart readNone restartRule) s

end Sys2Proof.Machine
end

