-- ==== Sys2Proof/Machine/Dispatch.lean ====
section
/-! DEFINITION. One arm per command: the meaning it has. -/

namespace Sys2Proof.Machine

/-- The effect of a command on everything but the queue of waiting commands. -/
def exec (i : Instr) (s : State) : Host.Outcome State Fault Refusal :=
  match i with
  | .resetAssert => Sys2Proof.Machine.execResetAssert s
  | .resetRelease => Sys2Proof.Machine.execResetRelease s
  | .layoutRecordRead read => Sys2Proof.Machine.execLayoutRecordRead read s
  | .receiveFrame bytes => Sys2Proof.Machine.execReceiveFrame bytes s
  | .frameTimeout => Sys2Proof.Machine.execFrameTimeout s
  | .transmitReply => Sys2Proof.Machine.execTransmitReply s
  | .transmitNotice => Sys2Proof.Machine.execTransmitNotice s
  | .frameSent => Sys2Proof.Machine.execFrameSent s
  | .list => Sys2Proof.Machine.execList s
  | .delist => Sys2Proof.Machine.execDelist s
  | .trade => Sys2Proof.Machine.execTrade s
  | .quote => Sys2Proof.Machine.execQuote s
  | .closeSet => Sys2Proof.Machine.execCloseSet s
  | .halt => Sys2Proof.Machine.execHalt s
  | .resume => Sys2Proof.Machine.execResume s
  | .rollWalkVisit => Sys2Proof.Machine.execRollWalkVisit s
  | .sessionSet => Sys2Proof.Machine.execSessionSet s
  | .timeSet => Sys2Proof.Machine.execTimeSet s
  | .schedSet => Sys2Proof.Machine.execSchedSet s
  | .secondPulse => Sys2Proof.Machine.execSecondPulse s
  | .referenceWatchExpiry => Sys2Proof.Machine.execReferenceWatchExpiry s
  | .internalSecond => Sys2Proof.Machine.execInternalSecond s
  | .formatSet => Sys2Proof.Machine.execFormatSet s
  | .boardJobCompletion => Sys2Proof.Machine.execBoardJobCompletion s
  | .ribbonJobCompletion => Sys2Proof.Machine.execRibbonJobCompletion s
  | .terminalJobCompletion => Sys2Proof.Machine.execTerminalJobCompletion s
  | .bind => Sys2Proof.Machine.execBind s
  | .unbind => Sys2Proof.Machine.execUnbind s
  | .hold => Sys2Proof.Machine.execHold s
  | .release => Sys2Proof.Machine.execRelease s
  | .boardSet => Sys2Proof.Machine.execBoardSet s
  | .flashExpiry line slot => Sys2Proof.Machine.execFlashExpiry line slot s
  | .lineSet => Sys2Proof.Machine.execLineSet s
  | .lineWake => Sys2Proof.Machine.execLineWake s
  | .frameEnd line answers => Sys2Proof.Machine.execFrameEnd line answers s
  | .frameItemSend line taken => Sys2Proof.Machine.execFrameItemSend line taken s
  | .darkExpiry line => Sys2Proof.Machine.execDarkExpiry line s
  | .ribbonSet => Sys2Proof.Machine.execRibbonSet s
  | .characterPeriod ribbon => Sys2Proof.Machine.execCharacterPeriod ribbon s
  | .termAdmit => Sys2Proof.Machine.execTermAdmit s
  | .termRetire => Sys2Proof.Machine.execTermRetire s
  | .tlineSet => Sys2Proof.Machine.execTLineSet s
  | .roundStart line => Sys2Proof.Machine.execRoundStart line s
  | .slotStart line => Sys2Proof.Machine.execSlotStart line s
  | .terminalAnswer line message => Sys2Proof.Machine.execTerminalAnswer line message s
  | .slotTimeLimit line => Sys2Proof.Machine.execSlotTimeLimit line s
  | .attention line => Sys2Proof.Machine.execAttention line s
  | .quietIntervalExpiry line => Sys2Proof.Machine.execQuietIntervalExpiry line s
  | .terminalLapse line address => Sys2Proof.Machine.execTerminalLapse line address s
  | .page line message => Sys2Proof.Machine.execPage line message s
  | .resync line message => Sys2Proof.Machine.execResync line message s
  | .watchAdd line message => Sys2Proof.Machine.execWatchAdd line message s
  | .watchDrop line message => Sys2Proof.Machine.execWatchDrop line message s
  | .quoteAsk line message => Sys2Proof.Machine.execQuoteAsk line message s
  | .alertSet line message => Sys2Proof.Machine.execAlertSet line message s
  | .alertClear line message => Sys2Proof.Machine.execAlertClear line message s
  | .windowSet => Sys2Proof.Machine.execWindowSet s
  | .referAnswer => Sys2Proof.Machine.execReferAnswer s
  | .referralExpiry window => Sys2Proof.Machine.execReferralExpiry window s
  | .askStatus => Sys2Proof.Machine.execAskStatus s
  | .askInstrument => Sys2Proof.Machine.execAskInstrument s
  | .askCell => Sys2Proof.Machine.execAskCell s
  | .askTerminal => Sys2Proof.Machine.execAskTerminal s
  | .askRibbon => Sys2Proof.Machine.execAskRibbon s
  | .askCounters => Sys2Proof.Machine.execAskCounters s
  | .clearCounters => Sys2Proof.Machine.execClearCounters s
  | .restart => Sys2Proof.Machine.execRestart s
  | .firstSyncByte => Sys2Proof.Machine.execFirstSyncByte s
  | .secondSyncMissing byte => Sys2Proof.Machine.execSecondSyncMissing byte s
  | .unknownRequestKind => Sys2Proof.Machine.execUnknownRequestKind s

end Sys2Proof.Machine
end

