-- ==== Sys2Proof/Safety.lean ====
section
/-! DEFINITION. What a safe state is, and the terms the claims are stated in: the bounds and forms the manual states
of every state of the part, when a request's service may begin, and what a reply leaves in the Link Interface. -/

namespace Sys2Proof.Machine

/-! ### Bounds and forms of a state -/

/-- R196, R198: no more requests or replies than there are places, and no request in service between commands
(serving one is a single command, log entry 20). -/
def State.linkBounded (s : State) : Prop :=
  s.link.requests.length ≤ Config.requestPlaces ∧ s.link.replies.length ≤ Config.replyPlaces ∧
    s.link.inService = none

/-- R200: the notice list holds no pair twice. -/
def State.noticesOnce (s : State) : Prop := s.link.notices.Nodup

/-- R117: no print queue holds more than 512 records. -/
def State.queuesBounded (s : State) : Prop :=
  s.ribbonA.queue.length ≤ Config.printPlaces ∧ s.ribbonB.queue.length ≤ Config.printPlaces

/-- 0.4.7: no counter exceeds its width. -/
def State.countersBounded (s : State) : Prop := ∀ c : Counter, s.counter c ≤ Config.maxCounter

/-- R79: a refresh queue holds no cell twice, and only cells of its own line. -/
def State.refreshOnce (s : State) : Prop :=
  ∀ n, (s.refreshQueue n).Nodup ∧ ∀ c ∈ s.refreshQueue n, c / 64 = n

/-- R94: the enabled slots of every line stand in ascending order. -/
def State.enabledRising (s : State) : Prop := ∀ n, (s.line n).enabled.Pairwise (· < ·)

/-- R159: the pending rows of every terminal stand in ascending order, each once. -/
def State.rowsRising (s : State) : Prop := ∀ n, (s.term n).rows.Pairwise (· < ·)

/-- R25: symbol order. Letters are compared in turn, a symbol that runs out first is the smaller, and "." (0x2E) is smaller
than any letter. -/
def symbolBelow (a b : Text) : Prop :=
  (∃ c r, b = a ++ c :: r) ∨ ∃ p x q y r, a = p ++ x :: q ∧ b = p ++ y :: r ∧ x.toNat < y.toNat

/-- R25: the directory stands in ascending symbol order, so no symbol stands in it twice. -/
def State.directoryRising (s : State) : Prop := s.directory.Pairwise (fun p q => symbolBelow p.1 q.1)

/-- R1, R3, R32: the figures of a print are as short as those of an accepted request. -/
def PrintBody.fits : PrintBody → Prop
  | .trade t => t.symbol.length ≤ 7 ∧ t.price ≤ 639999 ∧ t.size ≤ 9999999
  | .halt sym _ => sym.length ≤ 7
  | .resume sym _ => sym.length ≤ 7
  | .banner _ => True

/-- R131: no FIFO holds more than 64 characters. Three clauses carry that from step to step: the texts of a job in flight
fit behind what the FIFO holds, unless the job will deliver none, and the prints that wait and the symbols of the entries are
short, so that a job that starts at 22 characters or fewer (R62) adds 42 at most. -/
structure State.fifosBounded (s : State) : Prop where
  fifo : ∀ id, (s.ribbon id).fifo.length ≤ 64
  job : ∀ id late lateText text anchor preceding,
    s.fu.job = some (.ribbon id late lateText text anchor preceding false) →
    (s.ribbon id).fifo.length + lateText.length + text.length ≤ 64
  queue : ∀ id, ∀ p ∈ (s.ribbon id).queue, p.body.fits
  symbols : ∀ i, (s.entry i).symbol.length ≤ 7

/-- R158: a watch list holds at most 24 instruments, none twice. -/
def State.watchListsBounded (s : State) : Prop :=
  ∀ n, (s.term n).watchList.length ≤ 24 ∧ (s.term n).watchList.Nodup

/-- R75: a cell list holds at most four cells, none twice, and each names a cell whose binding is its index. -/
def State.cellListsBounded (s : State) : Prop :=
  ∀ i, (s.entry i).cells.length ≤ 4 ∧ (s.entry i).cells.Nodup ∧ ∀ c ∈ (s.entry i).cells, (s.cell c).binding = some i

/-- Every table of the state, each terminal's alerts among them, has the canonical form. -/
def State.tablesWf (s : State) : Prop :=
  Table.wf Entry.cold s.entries = true ∧ Table.wf SchedEntry.cold s.sched = true ∧
    Table.wf Cell.cold s.cells = true ∧ Table.wf [] s.queues = true ∧ Table.wf BoardLine.cold s.lines = true ∧
    Table.wf SlotState.cold s.slots = true ∧ Table.wf Display.unknown s.displays = true ∧
    Table.wf TermLine.cold s.tlines = true ∧ Table.wf Terminal.cold s.terms = true ∧
    Table.wf Window.cold s.windows = true ∧ Table.wf 0 s.counters = true ∧
    ∀ n, Table.wf Alert.cold (s.term n).alerts = true

/-! ### Symbols (0.4.5, R32) -/

/-- R32: one to five capital letters, optionally followed by "." and one capital. -/
def isSymbol (t : Text) : Prop :=
  let capital (c : Char) := 'A' ≤ c ∧ c ≤ 'Z'
  ∃ letters tail, t = letters ++ tail ∧ 1 ≤ letters.length ∧ letters.length ≤ 5 ∧ (∀ c ∈ letters, capital c) ∧
    (tail = [] ∨ ∃ c, tail = ['.', c] ∧ capital c)

/-! ### Serving a request (R197, R198) -/

/-- R197: the head request `r` is of kind `k`, and its service may begin. -/
def State.ready (s : State) (k : HostKind) (r : LinkFrame) (rest : List LinkFrame) : Prop :=
  s.resetAsserted = false ∧ s.loader.result ≠ .inProgress ∧ s.link.inService = none ∧
    s.link.replies.length < Config.replyPlaces ∧ s.link.requests = r :: rest ∧ r.kind = k.code

/-- R198: the Link Interface once the DONE reply to the head request has joined the reply queue. -/
def Link.replied (l : Link) (r : LinkFrame) (rest : List LinkFrame) (result : List Byte) : Link :=
  { l with requests := rest, inService := none, replies := l.replies ++ [doneReply r result] }

/-- R198: the state once the REFUSED reply to the head request has joined the reply queue, In_refused counted. -/
def State.refusedHead (s : State) (r : LinkFrame) (rest : List LinkFrame) (reason : Reason) : State :=
  ({ s with link := { s.link with
      requests := rest, inService := none, replies := s.link.replies ++ [refusedReply r reason] } } : State).count
    .inRefused

/-- The command that serves a request of a kind. -/
def HostKind.command : HostKind → Instr
  | .list => .list
  | .delist => .delist
  | .trade => .trade
  | .quote => .quote
  | .closeSet => .closeSet
  | .halt => .halt
  | .resume => .resume
  | .sessionSet => .sessionSet
  | .timeSet => .timeSet
  | .schedSet => .schedSet
  | .bind => .bind
  | .unbind => .unbind
  | .hold => .hold
  | .release => .release
  | .lineSet => .lineSet
  | .lineWake => .lineWake
  | .boardSet => .boardSet
  | .ribbonSet => .ribbonSet
  | .formatSet => .formatSet
  | .termAdmit => .termAdmit
  | .termRetire => .termRetire
  | .tlineSet => .tlineSet
  | .windowSet => .windowSet
  | .referAnswer => .referAnswer
  | .askStatus => .askStatus
  | .askInstrument => .askInstrument
  | .askCell => .askCell
  | .askTerminal => .askTerminal
  | .askRibbon => .askRibbon
  | .askCounters => .askCounters
  | .clearCounters => .clearCounters
  | .restart => .restart

/-- The service of a kind is followed by the arbiter's decision. One of a query that changes nothing is not (R73, R92,
R136, R157, R202, R203), nor is a RESTART (R72, log entry 36). -/
def HostKind.decides : HostKind → Bool
  | .askStatus => false
  | .askCell => false
  | .askTerminal => false
  | .askRibbon => false
  | .askCounters => false
  | .restart => false
  | _ => true

/-- What follows the service of a kind that found `s` and left `u`. -/
def HostKind.ends (k : HostKind) (s u : State) : State := if k.decides then finish s u else noteTogether s u

/-- TABLE 11-3: the body length a kind requires; none for HOLD, whose length follows its text count. -/
def HostKind.bodyLength : HostKind → Option Nat
  | .list => some 12
  | .delist => some 2
  | .trade => some 8
  | .quote => some 14
  | .closeSet => some 5
  | .halt => some 2
  | .resume => some 2
  | .sessionSet => some 1
  | .timeSet => some 7
  | .schedSet => some 10
  | .bind => some 6
  | .unbind => some 2
  | .hold => none
  | .release => some 2
  | .lineSet => some 14
  | .lineWake => some 1
  | .boardSet => some 1
  | .ribbonSet => some 11
  | .formatSet => some 1
  | .termAdmit => some 3
  | .termRetire => some 2
  | .tlineSet => some 6
  | .windowSet => some 7
  | .referAnswer => some 2
  | .askStatus => some 1
  | .askInstrument => some 2
  | .askCell => some 2
  | .askTerminal => some 2
  | .askRibbon => some 1
  | .askCounters => some 0
  | .clearCounters => some 0
  | .restart => some 0

/-! ### What a job start leaves (R66 to R69) -/

/-- The parts of the state that starting a job, and so a decision of the arbiter, leaves unchanged; an instrument
entry is changed by a roll of a stale entry alone (R30), and the Link Interface by a notice raised. -/
structure JobFrame (s t : State) : Prop where
  pending : t.pending = s.pending
  resetAsserted : t.resetAsserted = s.resetAsserted
  loader : t.loader = s.loader
  directory : t.directory = s.directory
  dayNumber : t.dayNumber = s.dayNumber
  walkActive : t.walkActive = s.walkActive
  walkPos : t.walkPos = s.walkPos
  clock : t.clock = s.clock
  sched : t.sched = s.sched
  session : t.session = s.session
  flashPeriod : t.flashPeriod = s.flashPeriod
  lines : t.lines = s.lines
  slots : t.slots = s.slots
  displays : t.displays = s.displays
  windows : t.windows = s.windows
  link : t.link = { s.link with notices := t.link.notices }
  entries : ∀ i, t.entry i = s.entry i ∨
    ((s.entry i).stale s.dayNumber = true ∧ t.entry i = (s.entry i).rolled s.dayNumber)

/-! ### What offers of cells leave (R80) -/

/-- Cells offered by absorbable offers: each joins its own line's queue, unless its needs_full flag is set, and then it
is absorbed; cells already queued keep their places, no other cell joins, and none joins twice. -/
structure Offered (cells : List Nat) (s u : State) : Prop where
  queued : ∀ c ∈ cells, (s.cell c).needsFull = false → c ∈ u.refreshQueue (c / 64)
  kept : ∀ n, s.refreshQueue n <+: u.refreshQueue n
  others : ∀ n, ∀ c ∈ u.refreshQueue n, c ∈ s.refreshQueue n ∨ c ∈ cells ∧ c / 64 = n ∧ (s.cell c).needsFull = false
  once : ∀ n, (s.refreshQueue n).Nodup → (u.refreshQueue n).Nodup

/-- R80: some cells entered by forced offers: each joins its own line's queue whatever its needs_full flag, cells already
queued keep their places, no other cell joins, and none joins twice. -/
structure Forced (cells : List Nat) (s u : State) : Prop where
  queued : ∀ c ∈ cells, c ∈ u.refreshQueue (c / 64)
  kept : ∀ n, s.refreshQueue n <+: u.refreshQueue n
  others : ∀ n, ∀ c ∈ u.refreshQueue n, c ∈ s.refreshQueue n ∨ c ∈ cells ∧ c / 64 = n
  once : ∀ n, (s.refreshQueue n).Nodup → (u.refreshQueue n).Nodup

/-- A terminal with rows marked since: nothing else of it has changed, and no row has left. -/
structure RowsGrown (a b : Terminal) : Prop where
  rest : b = { a with rows := b.rows }
  kept : ∀ r ∈ a.rows, r ∈ b.rows

/-! ### What reading an entry leaves (R26, R28, R30) -/

/-- R28, R30: the entry at an index as a reader finds it: rolled first when it is stale. -/
def State.current (s : State) (i : Nat) : Entry :=
  if (s.entry i).stale s.dayNumber then (s.entry i).rolled s.dayNumber else s.entry i

/-- R160: row `row` of terminal `n` shows the instrument at an index: the terminal is not VACANT and has the instrument
at that place of its current page. -/
def State.showsRow (s : State) (i n row : Nat) : Prop :=
  (s.entry i).watchers ≠ 0 ∧ n < 64 ∧ (s.term n).state ≠ .vacant ∧
    ∃ k, (s.term n).watchList.idxOf? i = some k ∧ k / 12 = (s.term n).page ∧ row = k % 12

/-- R39, R160: the rows that show an instrument marked, and nothing else of any terminal changed. -/
structure RowsMarked (i : Nat) (s u : State) : Prop where
  grown : ∀ n, RowsGrown (s.term n) (u.term n)
  rows : ∀ n row, row ∈ (u.term n).rows ↔ row ∈ (s.term n).rows ∨ s.showsRow i n row

/-- R26, R30: reading the entry at an index. A current entry is left as it is; a stale one is rolled, its cells are
offered, and its row is marked on each terminal that shows it (R39, R160). -/
structure EntryRead (i : Nat) (s u : State) : Prop where
  fresh : (s.entry i).stale s.dayNumber = false → u = s
  frame : u = { s with entries := u.entries, queues := u.queues, terms := u.terms }
  entry : u.entry i = s.current i
  others : ∀ j, j ≠ i → u.entry j = s.entry j
  cells : (s.entry i).stale s.dayNumber = true → Offered (s.entry i).cells s u
  rows : (s.entry i).stale s.dayNumber = true → RowsMarked i s u

/-- R30, R69: reading the entries at some indices in turn. Each is left as it is when it is current, and rolled when it is
stale, once; of those rolled the cells are offered and the rows that show them are marked (R39, R160). -/
structure EntriesRead (is : List Nat) (s u : State) : Prop where
  fresh : (∀ i ∈ is, (s.entry i).stale s.dayNumber = false) → u = s
  frame : u = { s with entries := u.entries, queues := u.queues, terms := u.terms }
  read : ∀ i ∈ is, u.entry i = s.current i
  others : ∀ i, i ∉ is → u.entry i = s.entry i
  cells : Offered ((is.filter (fun i => (s.entry i).stale s.dayNumber)).flatMap (fun i => (s.entry i).cells)) s u
  grown : ∀ n, RowsGrown (s.term n) (u.term n)
  rows : ∀ n row, row ∈ (u.term n).rows ↔
    row ∈ (s.term n).rows ∨ ∃ i ∈ is, (s.entry i).stale s.dayNumber = true ∧ s.showsRow i n row

/-! ### Counters and notices -/

/-- No counter outside a list has changed. -/
def State.onlyCounted (s u : State) (cs : List Counter) : Prop := ∀ k, k ∉ cs → u.counter k = s.counter k

/-- R200: some notice items raised: each is listed, the items listed before keep their places, and no other joins. -/
structure Noticed (items : List NoticeItem) (s u : State) : Prop where
  listed : ∀ x ∈ items, x ∈ u.link.notices
  kept : s.link.notices <+: u.link.notices
  others : ∀ x ∈ u.link.notices, x ∈ s.link.notices ∨ x ∈ items

/-- A counter has advanced by `n`, up to its largest value; by 0, it stands. -/
def State.advancedBy (s u : State) (c : Counter) (n : Nat) : Prop :=
  u.counter c = if n = 0 then s.counter c else min 4294967295 (s.counter c + n)

/-! ### Frames of board lines (R100, R101) -/

/-- R101: the scrub pointer one place on from slot `p`: the next enabled slot above it, else the lowest; none when no slot
is enabled. -/
def ScrubNext (enabled : List Nat) (p : Nat) : Option Nat → Prop
  | none => enabled = []
  | some k => k ∈ enabled ∧ (p < k ∧ (∀ j ∈ enabled, p < j → k ≤ j) ∨
      (∀ j ∈ enabled, j ≤ p) ∧ ∀ j ∈ enabled, k ≤ j)

/-- R100: a frame that has begun on a line that stands as `l`, none of its items sent. -/
structure FrameBegun (l : BoardLine) (f : Frame) : Prop where
  sent : f.sent = 0
  slots : f.items.map FrameItem.slot = l.enabled
  offset : f.offset = l.offset
  rate : f.rate = l.rate
  applies : f.applies = l.enabled
  settles : f.settles = false

/-- R100: the command of an item fixed on a line that stands as `l`, whose slot stands as `x`: the first of the four cases
that holds. -/
structure CommandFixed (l : BoardLine) (x : SlotState) (it : FrameItem) : Prop where
  dark : l.state = .dark → it.command = .blank
  staged : ∀ t, l.state ≠ .dark → x.staging = some t → it.command = .write t
  scrubbed : ∀ t, l.state ≠ .dark → x.staging = none → l.scrub = some it.slot → x.shown = some t →
    it.command = .rewrite t
  sensed : l.state ≠ .dark → x.staging = none → (l.scrub ≠ some it.slot ∨ x.shown = none) → it.command = .sense

/-- R100, R101: line `n` of `u` in the first moment of a frame that began on it when it stood as `l`: the frame with its send
list, the scrub pointer moved on where the line is LIT, and nothing else of the line changed. -/
structure LineBegun (n : Nat) (l : BoardLine) (u : State) : Prop where
  frame : u.line n = { l with scrub := (u.line n).scrub, frame := (u.line n).frame }
  begun : ∃ f, (u.line n).frame = some f ∧ FrameBegun l f ∧
    ∀ it ∈ f.items, CommandFixed l (u.slotState (cellNo n it.slot)) it
  stays : l.state ≠ .lit ∨ l.scrub = none → (u.line n).scrub = l.scrub
  moves : ∀ p, l.state = .lit → l.scrub = some p → l.enabled.Pairwise (· < ·) →
    ScrubNext l.enabled p (u.line n).scrub

/-! ### What the start of a notice leaves (R199 to R201) -/

/-- R199, R201: the oldest notice item taken from the list and its notice started: the frame carries the kind, the notice
sequence and the body built from the present state, and a MODULE or TERMINAL notice clears its object's changed flag. -/
structure NoticeStarted (n : NoticeItem) (rest : List NoticeItem) (s u : State) : Prop where
  frame : u = { s with
    slots := u.slots, terms := u.terms
    link := { s.link with
      notices := rest, noticeMayLead := false
      tx := some { kind := n.kindByte, tag := byteOf s.link.noticeSeq, body := noticeBody s n } } }
  boardModule : ∀ line slot, n = .boardModule line slot → u.terms = s.terms ∧
    u.slotState (cellNo line slot) = { s.slotState (cellNo line slot) with changed := false } ∧
    ∀ c, c ≠ cellNo line slot → u.slotState c = s.slotState c
  terminal : ∀ line addr, n = .terminal line addr → u.slots = s.slots ∧
    u.term (termNo line addr) = { s.term (termNo line addr) with changed := false } ∧
    ∀ k, k ≠ termNo line addr → u.term k = s.term k
  others : (∀ line slot, n ≠ .boardModule line slot) → (∀ line addr, n ≠ .terminal line addr) →
    u.slots = s.slots ∧ u.terms = s.terms

/-! ### What the start of a job takes (R66 to R69) -/

/-- R66: the job of the requester at position `p` of TABLE 4-2 started from `s`. Its content leaves its requester, which
for a board line is the head cell, for a ribbon its records, for a terminal line the terminal it serves next. Every other
requester keeps what it has: queues only grow at the tail, rows are only marked, notices are only raised. -/
structure JobStarted (p : Nat) (s t : State) : Prop where
  frame : JobFrame s t
  job : ∃ j, t.fu = { s.fu with job := some j } ∧ Job.requester j = p
  free : t.free = s.free
  notices : s.link.notices <+: t.link.notices
  cells : ∀ c, ¬(p < 8 ∧ (s.refreshQueue p).head? = some c) → t.cell c = s.cell c
  queues : ∀ n, ¬(p < 8 ∧ n = p) → s.refreshQueue n <+: t.refreshQueue n
  ownQueue : p < 8 → (s.refreshQueue p).tail <+: t.refreshQueue p
  ribbons : ∀ id, p ≠ 8 + RibbonId.code id → t.ribbon id = s.ribbon id
  tlines : ∀ n, p ≠ 10 + n → t.tline n = s.tline n
  ownLine : 10 ≤ p → ∃ a, t.tline (p - 10) = { s.tline (p - 10) with compose := a }
  terms : ∀ n, ¬(10 ≤ p ∧ ∃ a, nextEligible (p - 10) s = some a ∧ n = termNo (p - 10) a) →
    RowsGrown (s.term n) (t.term n)
  counters : s.onlyCounted t
    (if p < 8 then [.bdCoarsened, .bdOverflow] else if p < 10 then [.rbSkipped, .rbModeRises] else [])

/-! ### Rounds (R142, R143) -/

/-- Some terminal of line `n` is not VACANT. -/
def State.admitted (u : State) (n : Nat) : Prop := ∃ a, a < 16 ∧ (u.term (termNo n a)).state ≠ .vacant

/-- Some terminal of line `n` holds an out-block. -/
def State.holdsBlock (u : State) (n : Nat) : Prop := ∃ a, a < 16 ∧ (u.term (termNo n a)).outBlock ≠ none

/-- A round, wide or not, that has taken no address above `last` finds one to visit on line `n`. -/
def State.findsAddress (u : State) (n : Nat) (r : Round) : Prop :=
  ∃ a, a < 16 ∧ (∀ b, r.last = some b → b < a) ∧
    ((u.term (termNo n a)).state = .active ∨ (u.term (termNo n a)).state = .lapsed ∨
      r.wide = true ∧ ((u.term (termNo n a)).state = .joining ∨ (u.term (termNo n a)).state = .silent))

/-- R142, R143: line `n`, which stood as `l`, once a round has begun on it: the round visits terminals, wide when the
round count was 0. One that finds nobody ends at its start, and on a line that calls for the next one the rounds go on
until the wide one, which visits every admitted terminal. -/
structure RoundBegun (l : TermLine) (n : Nat) (u : State) : Prop where
  visiting : let r : Round := { last := none, wide := decide (l.roundCount = 0) }
    u.findsAddress n r → u.tline n = { l with round := some r, attention := false }
  goesOn : ¬u.findsAddress n { last := none, wide := decide (l.roundCount = 0) } → u.admitted n →
    (l.poll = .continuous ∨ u.holdsBlock n) → l.roundCount < 8 →
    u.tline n = { l with
      round := some { last := none, wide := true }, attention := false, roundCount := 0, quietCount := 0 }
  nobody : ¬u.findsAddress n { last := none, wide := decide (l.roundCount = 0) } →
    (¬u.admitted n ∨ l.poll ≠ .continuous ∧ ¬u.holdsBlock n) →
    u.tline n = { l with round := none, attention := false, roundCount := (l.roundCount + 1) % 8, quietCount := 0 }

/-- R142, R143: line `n`, which stood as `l`, once its round has ended: the count has moved on, and the next round has
begun at once on a CONTINUOUS line, or with an out-block held or attention set. -/
structure RoundEnded (l : TermLine) (n : Nat) (u : State) : Prop where
  next : u.admitted n → (l.poll = .continuous ∨ u.holdsBlock n ∨ l.attention = true) →
    RoundBegun { l with round := none, roundCount := (l.roundCount + 1) % 8, quietCount := 0 } n u
  idle : (¬u.admitted n ∨ l.poll ≠ .continuous ∧ ¬u.holdsBlock n ∧ l.attention = false) →
    u.tline n = { l with round := none, roundCount := (l.roundCount + 1) % 8, quietCount := 0 }

/-- No terminal line but `n` has changed. -/
def State.otherLinesKept (s u : State) (n : Nat) : Prop := ∀ m, m ≠ n → u.tline m = s.tline m

/-! ### Terminals (R148, R150, R152) -/

/-- R148, R150: a terminal whose dealer's request was taken, its record as given: a LAPSED one has become ACTIVE and owes
a full page. -/
def Terminal.tookRequest (rec : RequestRecord) (t : Terminal) : Terminal :=
  { t with
    record := rec, lapse := 0, state := if t.state = .lapsed then .active else t.state
    fullPage := t.fullPage || decide (t.state = .lapsed), idleOwed := t.idleOwed && decide (t.state ≠ .lapsed) }

/-- R152: the terminal has one of the six things a TERMINAL job composes. -/
def Terminal.owes (t : Terminal) : Prop :=
  t.record.state = .answered ∨ (∃ k, k < 4 ∧ (t.alert k).state = .fired ∧ (t.alert k).marked = false) ∨
    t.state = .active ∧ t.fullPage = true ∨ t.statusOwed = true ∨ t.state = .lapsed ∧ t.idleOwed = true ∨
    t.state = .active ∧ t.rows ≠ []

/-- R63: the terminal is eligible. -/
def Terminal.ready (t : Terminal) : Prop :=
  (t.state = .active ∨ t.state = .lapsed) ∧ t.outBlock = none ∧ t.owes

/-- R145: a message answers the slot in progress on a line, whose terminal has not been retired since. -/
def State.answersSlot (s : State) (line : Nat) (x : TermSlot) (m : TerminalMessage) : Prop :=
  s.resetAsserted = false ∧ (s.tline line).slot = some x ∧ x.ignored = false ∧ x.address < 16 ∧
    m.address = x.address ∧ m.checkHolds = true

/-- R148: an answer hands over the dealer request it carries: the slot's READY was true. -/
def State.handsOver (s : State) (line : Nat) (x : TermSlot) (m : TerminalMessage) (q : DealerRequest) : Prop :=
  s.answersSlot line x m ∧ m.request = some q ∧ (s.term (termNo line x.address)).readySent = true

/-! ### Texts of board fields (R6, R7, R9, R84, R85) -/

/-- Characters at the right of `w` positions. -/
def atRight (w : Nat) (cs : List BoardChar) : List BoardChar := List.replicate (w - cs.length) (.plain ' ') ++ cs

/-- Ordinary characters at the right of `w` positions. -/
def textAtRight (w : Nat) (t : Text) : List BoardChar := atRight w (t.map BoardChar.plain)

/-- R6, R7: what a price shows in `w` positions: its exact form if that fits; else, with a denominator above 16, its
coarse form if that fits; else dashes. -/
def PriceShown (w p : Nat) (f : Formed) : Prop :=
  let whole := p / 64
  let frac := p % 64
  let g := Nat.gcd frac 64
  let front := if whole = 0 then [] else (digits whole).map BoardChar.plain
  let glyphs := front ++ [BoardChar.glyph (frac / 4)]
  let exact :=
    if frac = 0 then (digits whole).map BoardChar.plain
    else if 64 / g ≤ 16 then glyphs
    else ((if whole = 0 then [] else digits whole ++ [' ']) ++ digits (frac / g) ++ '/' :: digits (64 / g)).map
      BoardChar.plain
  let coarse := if frac / 4 = 0 then (digits whole).map BoardChar.plain else glyphs
  let coarsens := frac ≠ 0 ∧ 16 < 64 / g
  (exact.length ≤ w → f = { chars := atRight w exact, coarsened := 0, overflow := 0 }) ∧
    (w < exact.length → coarsens → coarse.length ≤ w →
      f = { chars := atRight w coarse, coarsened := 1, overflow := 0 }) ∧
    (w < exact.length → coarsens → w < coarse.length →
      f = { chars := List.replicate w (.plain '-'), coarsened := 1, overflow := 1 }) ∧
    (w < exact.length → ¬coarsens →
      f = { chars := List.replicate w (.plain '-'), coarsened := 0, overflow := 1 })

/-- R6: what a price that may be absent shows in `w` positions. -/
def OptPriceShown (w : Nat) (p : Option Nat) (f : Formed) : Prop :=
  (p = none → f = { chars := List.replicate w (.plain ' '), coarsened := 0, overflow := 0 }) ∧
    ∀ v, p = some v → PriceShown w v f

/-- R9: what the change from a close to a last shows in `w` positions: nothing when one is absent, UNC when they are
equal, else a sign and the price text of the difference in one position less. -/
def ChangeShown (w : Nat) (last close : Option Nat) (f : Formed) : Prop :=
  ((last = none ∨ close = none) → f = { chars := List.replicate w (.plain ' '), coarsened := 0, overflow := 0 }) ∧
    ∀ l c, last = some l → close = some c →
      (l = c → 3 ≤ w → f = { chars := textAtRight w ['U', 'N', 'C'], coarsened := 0, overflow := 0 }) ∧
      (l = c → w < 3 → f = { chars := List.replicate w (.plain '-'), coarsened := 0, overflow := 1 }) ∧
      (l ≠ c → ∃ m, PriceShown (w - 1) (if c < l then l - c else c - l) m ∧ f.coarsened = m.coarsened ∧
        f.overflow = m.overflow ∧
        (m.overflow = 0 → f.chars = .plain (if c < l then '+' else '-') :: m.chars) ∧
        (m.overflow ≠ 0 → f.chars = List.replicate w (.plain '-')))

/-- R84, R85: what a field of an entry shows in `w` positions. The VOLUME text is R13's. -/
def FieldShown (field : Field) (w : Nat) (e : Entry) (f : Formed) : Prop :=
  match field with
  | .symbol =>
    (e.symbol.length ≤ w → f =
      { chars := e.symbol.map BoardChar.plain ++ List.replicate (w - e.symbol.length) (.plain ' '), coarsened := 0
        overflow := 0 }) ∧
    (w < e.symbol.length → f = { chars := List.replicate w (.plain '-'), coarsened := 0, overflow := 1 })
  | .last =>
    (e.status = .halted → f =
      { chars := textAtRight w (if 4 ≤ w then ['H', 'A', 'L', 'T'] else ['H']), coarsened := 0, overflow := 0 }) ∧
    (e.status ≠ .halted → OptPriceShown w e.last f)
  | .change =>
    (e.status = .halted → f = { chars := List.replicate w (.plain ' '), coarsened := 0, overflow := 0 }) ∧
    (e.status ≠ .halted → ChangeShown w e.last e.prevClose f)
  | .volume => f = boardVolume w e.dayVolume
  | .tick => f =
      { chars := atRight w [match e.tick with | .up => .upArrow | .down => .downArrow | _ => .plain ' ']
        coarsened := 0, overflow := 0 }
  | .high => OptPriceShown w e.high f
  | .low => OptPriceShown w e.low f
  | .close => OptPriceShown w e.prevClose f

/-- R12, R86: the HUE a field takes. -/
def hueShown (field : Field) (e : Entry) : Hue :=
  if field = .tick ∨ (field = .last ∨ field = .change) ∧ e.status ≠ .halted then
    match e.tick with
    | .up => .green
    | .down => .red
    | _ => .white
  else .white

/-! ### Texts of prints (R14 to R19) -/

/-- R5: the plain text of the fraction of a price, none when it is whole. -/
def fractionText (p : Nat) : Option Text :=
  let g := Nat.gcd (p % 64) 64
  if p % 64 = 0 then none else some (digits (p % 64 / g) ++ '/' :: digits (64 / g))

/-- R5, R17: the price of a print; `cut` when its whole part is cut to the last digit. -/
def priceText (cut : Bool) (p : Nat) : Text :=
  match fractionText p with
  | none => if cut then digits (p / 64 % 10) else digits (p / 64)
  | some f => if cut then digits (p / 64 % 10) ++ ' ' :: f else if p / 64 = 0 then f else digits (p / 64) ++ ' ' :: f

/-- R14, part 3: the volume part in full. -/
def lotsText (size lot : Nat) : Text :=
  if size = lot then []
  else if size % lot = 0 ∧ size / lot ≤ 99 then digits (size / lot) ++ ['@']
  else digits size ++ ['S', 'H', '@']

/-- R14 to R18: the text of a print on a ribbon that stands as `r`; `late` when a LATE text goes before it. -/
def printShown (r : Ribbon) (late : Bool) : PrintBody → Text
  | .halt sym _ => sym ++ [' ', 'H', 'A', 'L', 'T', 'E', 'D', ' ', ' ']
  | .resume sym _ => sym ++ [' ', 'R', 'E', 'S', 'U', 'M', 'E', 'D', ' ', ' ']
  | .banner .marketOpen => "MARKET OPEN  ".toList
  | .banner .tradingHalted => "TRADING HALTED  ".toList
  | .banner .tradingResumes => "TRADING RESUMES  ".toList
  | .banner .marketClosed => "MARKET CLOSED  ".toList
  | .trade t =>
    let run := decide (r.mode ≠ .normal) && !late && decide (r.preceding = some t.index)
    let small := decide (r.mode = .sample) || decide (r.mode ≠ .normal) && decide (t.size < r.trim * t.lot)
    let cut := (decide (r.mode = .digits) || decide (r.mode = .sample)) && decide (t.index ∈ r.anchors) &&
      decide (10 ≤ t.price / 64)
    (if run then [] else t.symbol ++ [' ']) ++ (if small then [] else lotsText t.size t.lot) ++
      (if t.first then ['*'] else []) ++ priceText cut t.price ++ (if run then [' '] else [' ', ' '])

/-- R19, TABLE 1-5: the full length of a print. -/
def printLength : PrintBody → Nat
  | .trade t =>
    t.symbol.length + 1 + (lotsText t.size t.lot).length + (if t.first then 1 else 0) +
      (priceText false t.price).length + 2
  | .halt sym _ => sym.length + 9
  | .resume sym _ => sym.length + 10
  | .banner .marketOpen => 13
  | .banner .tradingHalted => 16
  | .banner .tradingResumes => 17
  | .banner .marketClosed => 15

/-- R19, R118 to R120: the record of a print that arrived at a second. -/
def recordOf (body : PrintBody) (arrival : Nat) : PrintRecord :=
  { body := body, arrival := arrival, fullLength := printLength body }

/-- R39, R118 to R122: a print offered to the ribbons that take it. One that is OFF or does not take it stands; on one with
room the record joins the tail and the mode is evaluated; a full queue follows its policy (R121). -/
structure PrintOffered (takes : RibbonId → Bool) (body : PrintBody) (s u : State) : Prop where
  kept : ∀ id, takes id = false ∨ (s.ribbon id).state = .off → u.ribbon id = s.ribbon id
  queued : ∀ id, takes id = true → (s.ribbon id).state ≠ .off → (s.ribbon id).queue.length < 512 →
    (u.ribbon id).queue = (s.ribbon id).queue ++ [recordOf body s.clock.second]
  evaluated : ∀ id, takes id = true → (s.ribbon id).state ≠ .off → (s.ribbon id).queue.length < 512 →
    u.ribbon id = (evalMode id (s.setRibbon id
      { s.ribbon id with queue := (s.ribbon id).queue ++ [recordOf body s.clock.second] })).ribbon id
  full : ∀ id, takes id = true → (s.ribbon id).state ≠ .off → 512 ≤ (s.ribbon id).queue.length →
    u.ribbon id = (offerPrint id body s.clock.second s).ribbon id
  dropped : s.advancedBy u .rbDropped ([RibbonId.a, .b].countP (fun id =>
    takes id && decide ((s.ribbon id).state ≠ .off) && decide (512 ≤ (s.ribbon id).queue.length)))
  risen : s.advancedBy u .rbModeRises ([RibbonId.a, .b].countP (fun id =>
    decide ((s.ribbon id).mode.code < (u.ribbon id).mode.code)))

/-- R124: the RIBBON notices that changes of mode raise. -/
def modeNotices (s u : State) : List NoticeItem :=
  ([RibbonId.a, .b].filter (fun id => decide ((u.ribbon id).mode ≠ (s.ribbon id).mode))).map NoticeItem.ribbon

/-- R126: in SAMPLE, a head record is skipped: a trade not first of its day, with a trade of its instrument queued behind
it. -/
def skipped (p : PrintRecord) (behind : List PrintRecord) : Prop :=
  ∃ t, p.body = .trade t ∧ t.first = false ∧ ∃ q ∈ behind, ∃ u, q.body = .trade u ∧ u.index = t.index

/-! ### Rows of the terminals (R20) -/

/-- R10: the change from a close to a last on a terminal. -/
def changeText : Option Nat → Option Nat → Text
  | some l, some c =>
    if l = c then ['U', 'N', 'C']
    else (if c < l then '+' else '-') :: priceText false (if c < l then l - c else c - l)
  | _, _ => []

/-- R20, TABLE 1-7: the row of an entry. -/
def watchRow (e : Entry) : Text :=
  let column (w : Nat) (t : Text) : Text := List.replicate (w - t.length) ' ' ++ t
  let price (p : Option Nat) : Text := match p with | some v => priceText false v | none => []
  let last := if e.status = .halted then ['H', 'A', 'L', 'T'] else price e.last
  let tick := match e.tick with | .up => '+' | .down => '-' | .level => '=' | .none => ' '
  e.symbol ++ List.replicate (7 - e.symbol.length) ' ' ++ ' ' :: column 10 last ++
    ' ' :: column 11 (changeText e.last e.prevClose) ++ ' ' :: column 10 (price (e.bid.map Side.price)) ++
    ' ' :: column 10 (price (e.ask.map Side.price)) ++ ' ' :: column 8 (digits e.dayVolume) ++ [' ', tick]

/-- The figures that a row shows lie in the ranges of TABLE 2-1 (0.4.5, R1, R34). -/
structure Entry.figuresInRange (e : Entry) : Prop where
  symbol : e.symbol.length ≤ 7
  last : ∀ p, e.last = some p → p ≤ 639999
  close : ∀ p, e.prevClose = some p → p ≤ 639999
  bid : ∀ x, e.bid = some x → x.price ≤ 639999
  ask : ∀ x, e.ask = some x → x.price ≤ 639999
  volume : e.dayVolume ≤ 99999999

/-! ### Conditions of alerts (R2, R171, R175) -/

/-- R2, R171: what an enabled threshold is stored as on the grid of a denominator, none when it is not valid; one whose
enable is off is not checked and not stored. -/
def ThresholdStored (denom : Nat) (c : DealerCondition) (r : Option (Option Nat)) : Prop :=
  (c.enabled = false → r = some none) ∧
    (c.enabled = true → (c.value = 0 ∨ 639999 < c.value ∨ c.value < 64 / denom) → r = none) ∧
    (c.enabled = true → 64 / denom ≤ c.value → c.value ≤ 639999 → r = some (some (c.value - c.value % (64 / denom))))

/-- R171: what an enabled minimum size is stored as, none when it is not valid. -/
def MinSizeStored (c : DealerCondition) (r : Option (Option Nat)) : Prop :=
  (c.enabled = false → r = some none) ∧ (c.enabled = true → (c.value = 0 ∨ 9999999 < c.value) → r = none) ∧
    (c.enabled = true → 1 ≤ c.value → c.value ≤ 9999999 → r = some (some c.value))

/-- R2, R171: what the conditions of an ALERT-SET are stored as on the grid of a denominator: none when one of the three
is missing or not valid. -/
def ConditionsStored (denom : Nat) (q : DealerRequest) (r : Option Conditions) : Prop :=
  ((q.above = none ∨ q.below = none ∨ q.minSize = none) → r = none) ∧
    ∀ a b z, q.above = some a → q.below = some b → q.minSize = some z →
      ∃ x y m, ThresholdStored denom a x ∧ ThresholdStored denom b y ∧ MinSizeStored z m ∧
        ((x = none ∨ y = none ∨ m = none) → r = none) ∧
        ∀ above below size, x = some above → y = some below → m = some size →
          r = some { above := above, below := below, minSize := size }

/-- R175: every enabled condition holds of a trade. -/
def Conditions.met (c : Conditions) (price size : Nat) : Prop :=
  (∀ a, c.above = some a → a ≤ price) ∧ (∀ b, c.below = some b → price ≤ b) ∧ ∀ m, c.minSize = some m → m ≤ size

/-! ### Fields of messages (TABLE 11-2) -/

/-- TABLE 11-2: a number in `k` bytes, most significant byte first. -/
def beField (k n : Nat) : List Byte := (List.range k).map (fun j => BitVec.ofNat 8 (n / 256 ^ (k - 1 - j)))

/-- TABLE 11-2: a flag; 1 for one that is set is the model's choice (log entry 46). -/
def flagField (b : Bool) : List Byte := [if b then 1 else 0]

/-- TABLE 11-2: a price or a size, 0xFFFFFF when absent. -/
def markedField (x : Option Nat) : List Byte := beField 3 (x.getD 0xFFFFFF)

/-- TABLE 11-2: an enumeration: the place of the value in its defining table. -/
def tableField {α : Type} [DecidableEq α] (table : List α) (x : α) : List Byte := beField 1 (table.idxOf x)

/-- TABLE 11-2: an optional item of a size: a flag byte, then the item, all 0 when there is none. -/
def optField (size : Nat) : Option (List Byte) → List Byte
  | none => List.replicate (size + 1) 0
  | some item => 1 :: item

/-- TABLE 11-2: a symbol, seven characters, padded with spaces. -/
def symbolField (x : Text) : List Byte :=
  (x ++ List.replicate (7 - x.length) ' ').map (fun c => BitVec.ofNat 8 c.toNat)

/-- TABLE 11-2: a board character; the glyphs in the order of its row. -/
def boardCharField : BoardChar → Byte
  | .plain c => BitVec.ofNat 8 c.toNat
  | .upArrow => 0x80
  | .downArrow => 0x81
  | .glyph k => BitVec.ofNat 8 (0x82 + (([8, 4, 12, 2, 6, 10, 14, 1, 3, 5, 7, 9, 11, 13, 15] : List Nat).idxOf? k).getD 0)

/-- TABLE 11-2: a board text: its count, then its positions, the HUE in the low two bits and FLASH in bit 2 of the second
byte of each; a text that is empty or UNKNOWN has count 0. -/
def boardTextField : Option BoardText → List Byte
  | none => [0]
  | some t => beField 1 t.length ++ t.flatMap (fun p =>
      [boardCharField p.char,
       BitVec.ofNat 8 ([Hue.white, .green, .red].idxOf p.hue + if p.flash then 4 else 0)])

/-- TABLE 3-3: the session states in order. -/
def sessionTable : List SessionState := [.closed, .preOpen, .opened, .haltedAll, .after]

/-- R57: the session state and the transition record. -/
def sessionField (x : Session) : List Byte :=
  tableField sessionTable x.state ++ tableField sessionTable x.left ++ tableField sessionTable x.entered ++
    beField 3 x.second

/-- R46: second of day, weekday, day, month, year. -/
def timeField (c : Clock) : List Byte :=
  beField 3 c.second ++ beField 1 c.weekday ++ beField 1 c.day ++ beField 1 c.month ++ beField 1 c.year

/-- R49: the clock state and the reference indication, PRESENT 0 and LOST 1 (log entry 14). -/
def clockStateField (c : Clock) : List Byte :=
  tableField [ClockState.unset, .running, .freeRunning] c.state ++ [if c.present then 0 else 1]

/-- TABLE 3-2: a schedule entry with its skip record. -/
def schedField (e : SchedEntry) : List Byte :=
  flagField e.enabled ++ beField 1 e.hour ++ flagField e.hourMatch ++ beField 1 e.minute ++ flagField e.minuteMatch ++
    (match e.selector with | .weekdays set => [0, set] | .date d => 1 :: beField 1 d) ++ flagField e.dayMatch ++
    tableField sessionTable e.target ++ optField 5 (e.skip.map (fun r =>
      beField 3 r.second ++ tableField sessionTable r.found ++ tableField [SkipReason.walk, .illegal] r.reason))

/-- R204, R206: the load result, its cause and its record number. -/
def loadField (l : Loader) : List Byte :=
  tableField [LoadResult.inProgress, .loaded, .empty, .bad] l.result ++
    optField 1 (l.cause.map (tableField [LoadCause.check, .content, .noEnd, .promSilent])) ++
    optField 2 (l.failing.map (beField 2))

/-- TABLE 9-4: an alert entry. That a condition is its value or the absent marker, without its enable, is log entry 14. -/
def alertField (a : Alert) : List Byte :=
  tableField [AlertState.empty, .armed, .fired, .spent] a.state ++ optField 2 (a.instrument.map (beField 2)) ++
    markedField a.conditions.above ++ markedField a.conditions.below ++ markedField a.conditions.minSize ++
    optField 9 (a.fired.map (fun f => beField 3 f.price ++ beField 3 f.size ++ beField 3 f.second)) ++ flagField a.marked

/-- R21: the backlog of a ribbon in characters. -/
def backlogOf (r : Ribbon) : Nat := (r.queue.map PrintRecord.fullLength).sum + r.fifo.length

/-- TABLE 9-2: the items of a dealer request as they are sent, where the request carries them and each fits its field. That
they are sent so, and a condition's value also when its enable is off, is log entry 14. -/
structure RequestSent (q : DealerRequest) (items : List Byte) : Prop where
  page : ∀ p, q.kind = some .page → q.page = some p → p < 256 → items = beField 1 p
  resync : q.kind = some .resync → items = []
  watchAdd : ∀ sym, q.kind = some .watchAdd → q.symbol = some sym → sym.length ≤ 7 → (∀ c ∈ sym, c.toNat < 256) →
    (∀ p, q.position = some p → p < 256) → items = symbolField sym ++ optField 1 (q.position.map (beField 1))
  symbol : ∀ sym, q.kind = some .watchDrop ∨ q.kind = some .quoteAsk → q.symbol = some sym → sym.length ≤ 7 →
    (∀ c ∈ sym, c.toNat < 256) → items = symbolField sym
  alertSet : ∀ k sym a b z, q.kind = some .alertSet → q.slot = some k → k < 256 → q.symbol = some sym →
    sym.length ≤ 7 → (∀ c ∈ sym, c.toNat < 256) → q.above = some a → q.below = some b → q.minSize = some z →
    a.value < 2 ^ 24 → b.value < 2 ^ 24 → z.value < 2 ^ 24 →
    items = beField 1 k ++ symbolField sym ++
      [a, b, z].flatMap (fun c => beField 3 c.value ++ flagField c.enabled)
  alertClear : ∀ k, q.kind = some .alertClear → q.slot = some k → k < 256 → items = beField 1 k

/-- TABLE 4-2, R73: the requester and the kind of a job: BOARD 0, RIBBON 1, TERMINAL 2. -/
def jobField : Job → List Byte
  | .board line _ _ _ => beField 1 line ++ [0]
  | .ribbon id _ _ _ _ _ _ => beField 1 (8 + [RibbonId.a, .b].idxOf id) ++ [1]
  | .terminal line _ _ _ => beField 1 (10 + line) ++ [2]

/-- TABLE 8-2: the kind of a block, in the order of its row. -/
def blockField : Block → List Byte
  | .reply _ => [0]
  | .bell _ => [1]
  | .page _ _ _ => [2]
  | .status _ _ => [3]
  | .idle => [4]
  | .rows _ => [5]

/-- TABLE 7-3: the kind of a print, in the order of its row. -/
def printField : PrintBody → List Byte
  | .trade _ => [0]
  | .halt _ _ => [1]
  | .resume _ _ => [2]
  | .banner _ => [3]

/-- R136: how many queued records are of a kind. -/
def printsOf (k : Byte) (r : Ribbon) : Nat := r.queue.countP (fun p => decide (printField p.body = [k]))

/-- TABLE 5-1: a hold, an optional item: its text, its HUE and its flash flag. That its text is a board text carrying them
is log entry 14. -/
def holdField : Option Hold → List Byte
  | none => [0, 0, 0, 0]
  | some h =>
    1 :: boardTextField (some (h.text.map (fun c => { char := c, hue := h.hue, flash := h.flash }))) ++
      tableField [Hue.white, .green, .red] h.hue ++ flagField h.flash

/-- TABLE 10-2: a held slot. -/
def heldField (h : HeldSlot) : List Byte :=
  beField 1 h.line ++ beField 1 h.addr ++ tableField [ReferralKind.watch, .quote, .alert] h.kind ++
    beField 2 h.index ++ beField 3 h.start ++ beField 1 h.limit ++ beField 1 h.elapsed

/-- TABLE 10-1: how the last held request of a window ended. -/
def outcomeField (o : ReferralOutcome) : List Byte :=
  tableField [ReferralOutcome.none, .granted, .denied, .expired, .cancelled] o

/-- TABLE 6-3: whether the module of a slot answers. -/
def presenceField (p : Presence) : List Byte := tableField [Presence.unknown, .present, .absent] p

/-- TABLE 8-2: the state of a terminal. -/
def termStateField (x : TermState) : List Byte := tableField [TermState.vacant, .joining, .active, .lapsed, .silent] x

/-- TABLE 8-2: the state of a request record. -/
def recordField (x : RecordState) : List Byte := tableField [RecordState.free, .taken, .referred, .answered, .sent] x

/-- TABLE 7-1: the mode of a ribbon. -/
def modeField (m : Mode) : List Byte := tableField [Mode.normal, .trim, .digits, .sample] m

/-- TABLE 7-1: the state of a ribbon. -/
def ribbonStateField (x : RibbonState) : List Byte := tableField [RibbonState.off, .stopped, .running] x

/-- TABLE 11-4: what the notice of each kind carries, from the state at its sending. What the bytes of an item rest on beside
TABLE 11-2 is log entries 13, 14 and 46. -/
structure NoticesCarry (s : State) : Prop where
  /-- R105. -/
  boardModule : ∀ line slot, noticeBody s (.boardModule line slot) =
    beField 1 line ++ beField 1 slot ++ beField 1 ((s.line line).offset + slot) ++
      presenceField (s.slotState (cellNo line slot)).presence ++
      boardTextField (s.slotState (cellNo line slot)).shown ++
      optField 2 ((s.cell (cellNo line slot)).binding.map (beField 2)) ++ beField 4 (s.counter .bdModuleLost)
  /-- R155. -/
  terminal : ∀ line addr, noticeBody s (.terminal line addr) =
    let t := s.term (termNo line addr)
    beField 1 line ++ beField 1 addr ++ termStateField t.state ++ flagField t.exempt ++ beField 1 t.retry ++
      recordField t.record.state ++ beField 1 t.watchList.length ++ beField 4 (s.counter .tmSilenced)
  /-- R189: the window, then its slot state, then of a HELD slot the part `held`, then the rest. -/
  referral : ∀ n, let w := s.window n
    ∃ held : List Byte, noticeBody s (.referral n) =
        beField 1 n ++ flagField w.enabled ++ beField 2 w.base ++ beField 2 (2 ^ w.k) ++ [w.kinds] ++
          beField 1 w.limit ++ beField 1 (if w.slot.isSome then 1 else 0) ++ held ++ outcomeField w.outcome ++
          beField 4 (s.counter .rfHeld) ++ beField 4 (s.counter .rfExpired) ∧
      (w.slot = none → held = []) ∧
      ∀ h, w.slot = some h → ∃ items, held =
          beField 1 h.line ++ beField 1 h.addr ++ tableField [ReferralKind.watch, .quote, .alert] h.kind ++
            beField 2 h.index ++ symbolField (s.entry h.index).symbol ++ beField 3 h.start ++
            beField 1 (h.limit - h.elapsed) ++ items ∧
        ∀ q, (s.term (termNo h.line h.addr)).record.request = some q → RequestSent q items
  /-- R125. -/
  ribbon : ∀ id, noticeBody s (.ribbon id) =
    let r := s.ribbon id
    tableField [RibbonId.a, .b] id ++ ribbonStateField r.state ++ modeField r.mode ++ beField 1 r.dwell ++
      beField 2 r.queue.length ++ beField 1 r.fifo.length ++ beField 2 (backlogOf r / r.rate) ++
      beField 4 (s.counter .rbDropped) ++ beField 4 (s.counter .rbModeRises)
  /-- R57. -/
  session : noticeBody s .session = sessionField s.session
  /-- R54. -/
  scheduleSkip : ∀ n, noticeBody s (.scheduleSkip n) = beField 1 n ++ schedField (s.schedEntry n)
  /-- R49. -/
  clock : noticeBody s .clock = clockStateField s.clock ++ timeField s.clock
  /-- R204, R206. -/
  layout : noticeBody s .layout = loadField s.loader ++ beField 2 s.loader.lineCount ++ beField 2 s.loader.slotCount

/-- R45, R92, R136, R157, R177, R202: what the replies to the queries carry. `cells`, `watched` and `pending` give the bytes
of a cell list, a watch list and a pending-row set, and `before` the byte of a round's address before its first slot, which no
table lays out (log entry 13). What the bytes of an item rest on beside TABLE 11-2 is log entries 13, 14, 38 and 46. -/
structure RepliesCarry (cells watched pending : List Nat → List Byte) (before : Byte) (s : State) : Prop where
  /-- R45, of a FREE index. -/
  free : ∀ e : Entry, e.status = .free → instrumentBytes e = 0 :: cells e.cells
  /-- R45, TABLE 2-1. -/
  instrument : ∀ e : Entry, e.status ≠ .free → instrumentBytes e =
    tableField [EntryStatus.free, .listed, .halted] e.status ++ symbolField e.symbol ++ beField 1 e.denom ++
      beField 1 e.lot ++ beField 1 e.cls ++ markedField e.prevClose ++ markedField e.last ++ markedField e.opening ++
      markedField e.high ++ markedField e.low ++ beField 4 e.dayVolume ++ beField 3 e.lastSize ++
      tableField [Tick.none, .up, .down, .level] e.tick ++ markedField (e.bid.map Side.price) ++
      markedField (e.bid.map Side.size) ++ markedField (e.ask.map Side.price) ++ markedField (e.ask.map Side.size) ++
      flagField e.firstPending ++ beField 1 e.dayStamp ++ beField 1 e.watchers ++ cells e.cells
  /-- R92, TABLE 5-1. -/
  cell : ∀ line slot, cellBytes line slot s =
    let c := s.cell (cellNo line slot)
    optField 2 (c.binding.map (beField 2)) ++
      tableField [Field.symbol, .last, .change, .volume, .tick, .high, .low, .close] c.field ++ beField 1 c.width ++
      holdField c.hold ++ beField 1 c.flashCount ++ flagField c.tradeMark ++
      optField c.width (c.prevChars.map (fun cs => cs.map boardCharField)) ++ flagField c.needsFull ++
      optField 1 (((s.refreshQueue line).idxOf? (cellNo line slot)).map (beField 1))
  /-- R111, the slot part. -/
  slot : ∀ line slot, slotBytes line slot s =
    let x := s.slotState (cellNo line slot)
    flagField (decide (slot ∈ (s.line line).enabled)) ++ beField 1 ((s.line line).offset + slot) ++
      boardTextField x.staging ++ boardTextField x.shown ++ presenceField x.presence ++ flagField x.changed
  /-- R157, TABLE 8-2: `request` and `result` are those of the request record. -/
  terminal : ∀ line addr, let t := s.term (termNo line addr)
    ∃ request result : List Byte, terminalBytes line addr s =
        termStateField t.state ++ flagField t.exempt ++ beField 1 t.retry ++ beField 2 t.lapse ++
          optField 1 (t.outBlock.map blockField) ++ recordField t.record.state ++ request ++ result ++
          flagField t.fullPage ++ flagField t.statusOwed ++ flagField t.idleOwed ++ flagField t.readySent ++
          flagField t.changed ++ flagField ((s.tline line).slot.any (fun x => decide (x.address = addr))) ∧
      (t.record.request = none → ∃ k, request = List.replicate (k + 2) 0) ∧
      (∀ q k, t.record.request = some q → q.kind = some k → ∃ items, RequestSent q items ∧ request =
        1 :: tableField [DealerKind.page, .resync, .watchAdd, .watchDrop, .quoteAsk, .alertSet, .alertClear] k ++ items) ∧
      (t.record.result = none → ∃ k, result = List.replicate (k + 2) 0) ∧
      ∀ x, t.record.result = some x → ∃ details, result =
        1 :: tableField [ReplyCode.accepted, .unknown, .full, .duplicate, .denied, .noAnswer, .wait] x.code ++ details
  /-- R177. -/
  watch : ∀ t : Terminal, watchBytes t =
    watched t.watchList ++ beField 1 t.page ++ pending t.rows ++ (List.range 4).flatMap (fun k => alertField (t.alert k))
  /-- R136. -/
  ribbon : ∀ id, ribbonBytes id s =
    let r := s.ribbon id
    ribbonStateField r.state ++ [r.mask] ++ beField 1 r.rate ++ beField 2 r.up1 ++ beField 2 r.up2 ++ beField 2 r.up3 ++
      beField 1 r.trim ++ modeField r.mode ++ beField 1 r.dwell ++ beField 2 r.queue.length ++
      ([0, 1, 2, 3] : List Byte).flatMap (fun k => beField 2 (printsOf k r)) ++
      optField 4 (r.queue.head?.map (fun p => printField p.body ++ beField 3 p.arrival)) ++ beField 1 r.fifo.length ++
      beField 2 (backlogOf r) ++ beField 2 (backlogOf r / r.rate) ++ flagField (ribbonJobInFlight id s) ++
      optField 2 (r.preceding.map (beField 2)) ++ beField 2 r.anchors.length ++
      optField 2 (r.lateFigure.map (beField 2)) ++ beField 1 r.lateAge
  /-- R202, part 0: the load, the link, the clock (R46, R49), the session (R57), the day and the walk, the Format Unit (R73),
  the flash period. -/
  part0 : statusBytes 0 s =
    loadField s.loader ++ beField 2 s.loader.pos ++ beField 2 s.loader.lineCount ++ beField 2 s.loader.slotCount ++
      beField 1 s.link.requests.length ++ beField 1 s.link.replies.length ++ beField 2 s.link.notices.length ++
      beField 1 s.link.noticeSeq ++ timeField s.clock ++ clockStateField s.clock ++ sessionField s.session ++
      beField 1 s.dayNumber ++ flagField s.walkActive ++ beField 2 s.walkPos ++ beField 1 (if s.fu.job.isSome then 1 else 0) ++
      optField 2 (s.fu.job.map jobField) ++ beField 1 s.fu.pointer ++ optField 1 (s.fu.holder.map (beField 1)) ++
      beField 1 s.fu.runCount ++ beField 1 s.fu.runLength ++ beField 1 s.flashPeriod
  /-- R202, part 1 (R52). -/
  part1 : statusBytes 1 s = (List.range 8).flatMap (fun n => schedField (s.schedEntry n))
  /-- R202, part 2 (R52). -/
  part2 : statusBytes 2 s = (List.range 8).flatMap (fun n => schedField (s.schedEntry (8 + n)))
  /-- R202, part 3 (R111). -/
  part3 : statusBytes 3 s = (List.range 8).flatMap (fun n =>
    let l := s.line n
    beField 1 l.size ++ beField 1 l.offset ++ beField 8 ((l.enabled.map (fun k => 2 ^ k)).sum) ++ beField 1 l.rate ++
      beField 1 l.darkDelay ++ tableField [LineState.off, .lit, .dark] l.state ++
      optField 2 (l.darkTimer.map (beField 2)) ++ optField 1 (l.scrub.map (beField 1)) ++
      beField 1 (s.refreshQueue n).length ++ flagField l.frame.isSome)
  /-- R202, part 4 (R191). -/
  part4 : statusBytes 4 s = (List.range 4).flatMap (fun n =>
    let w := s.window n
    flagField w.enabled ++ beField 1 w.k ++ beField 2 w.base ++ [w.kinds] ++ beField 1 w.limit ++
      optField 10 (w.slot.map heldField) ++ outcomeField w.outcome)
  /-- R202, part 5 (R137). -/
  part5 : statusBytes 5 s = (List.range 4).flatMap (fun n =>
    let l := s.tline n
    tableField [PollMode.continuous, .quiet] l.poll ++ beField 1 l.quietInterval ++ beField 1 l.slotLimit ++
      beField 1 l.retryLimit ++ beField 1 l.lapseTime ++
      (match l.round with
       | none => [0, 0]
       | some r => 1 :: (match r.last with | none => [before] | some a => beField 1 a)) ++
      beField 1 l.roundCount)

/-! ### The end of a load (R206) -/

/-- R206: what the end of a load leaves: the result, every line that a taken LINE record named LIT and in its first
frame, every cell that a taken SLOT record named queued, and a LAYOUT notice. -/
structure LoadEnded (result : LoadResult) (cause : Option LoadCause) (failing : Option Nat) (s u : State) : Prop where
  frame : u = { s with
    lines := u.lines, queues := u.queues
    loader := { s.loader with result := result, cause := cause, failing := failing }
    link := { s.link with notices := u.link.notices } }
  lit : ∀ n ∈ s.loader.lines,
    LineBegun n { s.line n with state := .lit, scrub := (s.line n).enabled.head? } u
  others : ∀ n, n ∉ s.loader.lines → u.line n = s.line n
  cells : Forced s.loader.cells s u
  notice : Noticed [.layout] s u

/-- A machine that has gone `n` steps. -/
def runs : Nat → State → State → Prop
  | 0, s, t => t = s
  | n + 1, s, t => ∃ u, step s = .next u ∧ runs n u t

end Sys2Proof.Machine
end

