-- ==== Sys2Proof/Certificates/Slice0/Obligations.lean ====
section
/-! DEFINITION. The statements for the provers. In a statement of the form `∃ u, exec c s = .next (finish s u) ∧ …`,
`u` is the state the command's own effect leaves, and `finish` is what follows a command: the arbiter's decision when the
Format Unit is IDLE (R64) and the transmitter's note of what appeared together (R199, log entry 21);
`ArbiterLeavesTheRest` says what `finish` does. After a query that changes nothing, and after a RESTART (R72, log entry
36), there is no decision, and `noteTogether` alone stands in its place. An equation `u = { s with … }` is a frame: every
part of the state that it does not name is unchanged. -/

open Sys2Proof Sys2Proof.Machine

/-! ### The queue of commands, RESET, and every command -/

/-- A step takes the command at the front of the queue and is `exec` of it with the queue's rest; on an empty queue the
block idles (log entry 2). -/
def Obligations.StepTakesTheFrontCommand : Prop :=
  (∀ s : State, s.pending = [] → step s = .next s) ∧
    ∀ (s : State) (c : Instr) (rest : List Instr), s.pending = c :: rest → step s = exec c { s with pending := rest }

/-- Every command of the table, in every state, answers a next state and leaves the waiting commands alone. That this
holds also of a command whose event cannot occur in the state, which then changes nothing, and that no event stops the
part, is the model's reading (log entries 1 and 30, both DEDUCED). -/
def Obligations.EveryCommandAnswersANextState : Prop :=
  ∀ (c : Instr) (s : State), ∃ t, exec c s = .next t ∧ t.pending = s.pending

/-- What follows a command that found `s` and left `u`: nothing while a job is in flight; the whole decision of R65 when
`s` was IDLE with a requester requesting, as after a RESTART (log entry 36); otherwise, with no requester the run ends,
one requester is granted, and of several the one that a free value names is taken alone (log entry 5). A job started takes
its content from the requester granted and leaves every other requester what it has. -/
def Obligations.ArbiterLeavesTheRest : Prop :=
  (∀ s u : State,
    let v := settle s u
    let urgentGrant (p : Nat) := if u.fu.holder = some p ∧ u.fu.runCount < u.fu.runLength then
        startJob p { u with fu := { u.fu with runCount := u.fu.runCount + 1 } }
      else startJob p (({ u with fu := { u.fu with holder := some p, runCount := 1 } } : State).count .fuUrgentGrants)
    let roundGrant (p : Nat) := startJob p { u with fu := { u.fu with pointer := p, holder := some p, runCount := 1 } }
    let waiting := s.fu.job = none ∧ ∃ p, p < 14 ∧ requests p s = true
    finish s u = { v with link := { v.link with noticeMayLead := (finish s u).link.noticeMayLead } } ∧
      (u.fu.job ≠ none → v = u) ∧
      (u.fu.job = none → waiting → v = arbitrate u) ∧
      (u.fu.job = none → ¬waiting →
        ((∀ p, p < 14 → requests p u = false) → v = { u with fu := { u.fu with holder := none, runCount := 0 } }) ∧
        (∀ p, p < 14 → requests p u = true → (∀ q, q < 14 → requests q u = true → q = p) →
          v = if urgent p u = true then urgentGrant p else roundGrant p) ∧
        ∀ p q, p < 14 → q < 14 → p ≠ q → requests p u = true → requests q u = true →
          ∃ k, k < 14 ∧ requests k u = true ∧ v = grantIdle k { u with free := u.free + 1 })) ∧
  ∀ (p : Nat) (s : State), p < 14 → requests p s = true → JobStarted p s (startJob p s)

/-- The cold-start values each chapter gives its own block, which R207 gathers, as they stand right after reset: the
instrument table (R24), the clock, the schedule and the session (R46, R52, R55, R57), the Format Unit (R72), the cells,
refresh queues and flash period (R74, R79, R89), the board lines (R93, R101, R105, R107), the ribbons (R112), the terminal
lines and terminals (R137, R139, R158, R174), the referral windows (R190), the link, its notices and the counters (R193,
R198, R200, R201, R203) and the load (R204). That the state after reset is the part with RESET released, that no request is
in service between commands, and the note of what appeared together are the model's (log entries 3, 20 and 21). -/
def Obligations.ResetIsTheColdState : Prop :=
  let s := State.reset
  s.link = { asm := .hunt, requests := [], inService := none, replies := [], notices := [], noticeSeq := 0,
             tx := none, noticeMayLead := false } ∧
    (s.loader.pos = 0 ∧ s.loader.result = .inProgress ∧ s.loader.lineCount = 0 ∧ s.loader.slotCount = 0) ∧
    (∀ i, (s.entry i).status = .free ∧ (s.entry i).cells = [] ∧ (s.entry i).watchers = 0) ∧
    (s.directory = [] ∧ s.dayNumber = 0 ∧ s.walkActive = false) ∧
    s.clock = { second := 0, weekday := 0, day := 1, month := 1, year := 0, state := .unset, present := false,
                watchExpired := true } ∧
    (∀ n, (s.schedEntry n).enabled = false ∧ (s.schedEntry n).target = .closed ∧ (s.schedEntry n).skip = none) ∧
    s.session = { state := .closed, left := .closed, entered := .closed, second := 0 } ∧
    s.fu = { job := none, pointer := 13, holder := none, runCount := 0, runLength := 4 } ∧
    (∀ c, s.cell c = { binding := none, field := .symbol, width := 1, hold := none, flashCount := 0,
                       tradeMark := false, prevChars := none, needsFull := false }) ∧
    s.flashPeriod = 0 ∧ (∀ n, s.refreshQueue n = []) ∧
    (∀ n, (s.line n).state = .off ∧ (s.line n).size = 64 ∧ (s.line n).offset = 0 ∧ (s.line n).rate = 10 ∧
      (s.line n).darkDelay = 0 ∧ (s.line n).enabled = List.range 64 ∧ (s.line n).darkTimer = none ∧
      (s.line n).scrub = some 0) ∧
    (∀ c, s.slotState c = { staging := none, shown := none, presence := .unknown, changed := false }) ∧
    (∀ id, (s.ribbon id).state = .stopped ∧ (s.ribbon id).mask = 0xFF ∧ (s.ribbon id).rate = 12 ∧
      (s.ribbon id).up1 = 30 ∧ (s.ribbon id).up2 = 90 ∧ (s.ribbon id).up3 = 240 ∧ (s.ribbon id).trim = 10 ∧
      (s.ribbon id).mode = .normal ∧ (s.ribbon id).dwell = 0 ∧ (s.ribbon id).queue = [] ∧ (s.ribbon id).fifo = [] ∧
      (s.ribbon id).anchors = [] ∧ (s.ribbon id).preceding = none ∧ (s.ribbon id).lateFigure = none ∧
      (s.ribbon id).lateAge = 120 ∧ (s.ribbon id).period = none) ∧
    (∀ n, (s.tline n).poll = .quiet ∧ (s.tline n).quietInterval = 5 ∧ (s.tline n).slotLimit = 50 ∧
      (s.tline n).retryLimit = 4 ∧ (s.tline n).lapseTime = 0 ∧ (s.tline n).round = none ∧
      (s.tline n).roundCount = 0 ∧ (s.tline n).quietCount = 0 ∧ (s.tline n).attention = false ∧
      (s.tline n).compose = 15) ∧
    (∀ n, (s.term n).state = .vacant ∧ (s.term n).readySent = true ∧ (s.term n).record.state = .free ∧
      (s.term n).outBlock = none ∧ (s.term n).watchList = [] ∧ ∀ k, ((s.term n).alert k).state = .empty) ∧
    (∀ w, (s.window w).enabled = false ∧ (s.window w).k = 0 ∧ (s.window w).base = 0 ∧ (s.window w).kinds = 0 ∧
      (s.window w).limit = 30 ∧ (s.window w).slot = none ∧ (s.window w).outcome = .none) ∧
    ∀ c, s.counter c = 0

/-- RESET_ASSERT and RESET_RELEASE: asserting RESET and releasing it put every block at its cold-start value. What
stands outside the part (the waiting commands, the free values used, what the modules show) is kept. While RESET is
asserted no other command has any effect. A release without an assertion before it is no event (the model's reading,
log entries 1 and 3). -/
def Obligations.ResetPinGivesTheColdState : Prop :=
  (∀ s : State,
     exec .resetAssert s = .next { State.reset with
       pending := s.pending, free := s.free, displays := s.displays, resetAsserted := true } ∧
     (s.resetAsserted = true → exec .resetRelease s = .next { State.reset with
       pending := s.pending, free := s.free, displays := s.displays }) ∧
     (s.resetAsserted = false → exec .resetRelease s = .next s)) ∧
  ∀ (c : Instr) (s : State), s.resetAsserted = true → c ≠ .resetAssert → c ≠ .resetRelease → exec c s = .next s

/-! ### Invariants -/

/-- Every step keeps these bounds and forms: at most 16 requests and 4 replies are queued and, in the model (log entry
20), no request is in service between commands; the notice list holds no pair twice; no print queue holds more than 512
records; no counter exceeds 4,294,967,295; a refresh queue holds no cell twice and only cells of its own line; the enabled
slots of a line, and the pending rows of a terminal, stand in ascending order; the symbol directory stands in ascending
symbol order, with no symbol twice; a ribbon's FIFO holds at most 64 characters (with the lengths of the texts in flight and
of the records and symbols they come from, which carry that bound); a watch list holds at most 24 instruments, none twice; a
cell list holds at most four cells, none twice, each bound to its index. -/
def Obligations.BoundsKept : Prop :=
  (∀ s t : State, s.linkBounded → step s = .next t → t.linkBounded) ∧
  (∀ s t : State, s.noticesOnce → step s = .next t → t.noticesOnce) ∧
  (∀ s t : State, s.queuesBounded → step s = .next t → t.queuesBounded) ∧
  (∀ s t : State, s.countersBounded → step s = .next t → t.countersBounded) ∧
  (∀ s t : State, s.refreshOnce → step s = .next t → t.refreshOnce) ∧
  (∀ s t : State, s.enabledRising → step s = .next t → t.enabledRising) ∧
  (∀ s t : State, s.rowsRising → step s = .next t → t.rowsRising) ∧
  (∀ s t : State, s.directoryRising → step s = .next t → t.directoryRising) ∧
  (∀ s t : State, s.fifosBounded → step s = .next t → t.fifosBounded) ∧
  (∀ s t : State, s.watchListsBounded → step s = .next t → t.watchListsBounded) ∧
  ∀ s t : State, s.cellListsBounded → step s = .next t → t.cellListsBounded

/-- Every table, each terminal's alerts among them, keeps its canonical form: equal tables are equal data after any step.
The form is the model's own way of holding records by number; the manual says nothing of it. -/
def Obligations.TablesKeptCanonical : Prop :=
  ∀ s t : State, s.tablesWf → step s = .next t → t.tablesWf

/-- The invariants that every step keeps hold right after reset. -/
def Obligations.InvariantsAtReset : Prop :=
  State.reset.linkBounded ∧ State.reset.noticesOnce ∧ State.reset.queuesBounded ∧ State.reset.countersBounded ∧
    State.reset.refreshOnce ∧ State.reset.enabledRising ∧ State.reset.rowsRising ∧
    State.reset.directoryRising ∧ State.reset.tablesWf ∧ State.reset.fifosBounded ∧ State.reset.watchListsBounded ∧
    State.reset.cellListsBounded

/-! ### The host link: receiving -/

/-- RECEIVE_FRAME: the bytes of a frame as R192 lays them out, received in HUNT with room in the queue, put exactly
that request at the tail of the request queue, and change nothing else. -/
def Obligations.ReceivedFrameJoinsTheQueue : Prop :=
  ∀ (s : State) (f : LinkFrame), s.resetAsserted = false → s.link.asm = .hunt → f.body.length ≤ 248 →
    s.link.requests.length < 16 →
    exec (.receiveFrame f.wire) s =
      .next (finish s { s with link := { s.link with requests := s.link.requests ++ [f] } })

/-- RECEIVE_FRAME with 16 requests queued: refused FULL when a reply place is free beside the one kept for a request in
service, else discarded as a bad frame. -/
def Obligations.FullQueueRefusesOrDiscards : Prop :=
  ∀ (s : State) (f : LinkFrame), s.resetAsserted = false → s.link.asm = .hunt → f.body.length ≤ 248 →
    16 ≤ s.link.requests.length →
    exec (.receiveFrame f.wire) s =
      if s.link.replies.length + (if s.link.inService.isSome then 1 else 0) < 4 then
        .next (finish s (({ s with link := { s.link with
          replies := s.link.replies ++ [{ kind := 0xA1, tag := f.tag, body := [f.kind, 10] }] } } : State).count
          .inRefused))
      else .next (finish s (s.count .lkBadframe))

/-- RECEIVE_FRAME, FIRST_SYNC_BYTE, SECOND_SYNC_MISSING, FRAME_TIMEOUT: a length byte above 248 is discarded at once, and
so is a frame whose two check bytes do not give the sum, Lk_badframe advancing by one; and what the sync bytes and the
frame timer do to the assembler. -/
def Obligations.AssemblerEvents : Prop :=
  (∀ s : State, s.resetAsserted = false → s.link.asm = .hunt →
     (∀ b : Byte, 248 < b.toNat →
       exec (.receiveFrame [0x16, 0x16, b]) s = .next (finish s (s.count .lkBadframe))) ∧
     ∀ (f : LinkFrame) (hi lo : Byte), f.body.length ≤ 248 →
       hi.toNat * 256 + lo.toNat ≠
         (f.body.length + f.kind.toNat + f.tag.toNat + (f.body.map BitVec.toNat).sum) % 65536 →
       exec (.receiveFrame ([0x16, 0x16, byteOf f.body.length, f.kind, f.tag] ++ f.body ++ [hi, lo])) s =
         .next (finish s (s.count .lkBadframe))) ∧
  ∀ s : State, s.resetAsserted = false →
    (s.link.asm = .hunt →
      exec .firstSyncByte s = .next (finish s { s with link := { s.link with asm := .syncSeen } })) ∧
    (∀ b : Byte, s.link.asm = .syncSeen → b ≠ 0x16 →
      exec (.secondSyncMissing b) s = .next (finish s { s with link := { s.link with asm := .hunt } })) ∧
    (s.link.asm ≠ .hunt →
      exec .frameTimeout s =
        .next (finish s (({ s with link := { s.link with asm := .hunt } } : State).count .lkTimeout)))

/-! ### The host link: transmitting -/

/-- TRANSMIT_REPLY, TRANSMIT_NOTICE, FRAME_SENT: the head reply goes out first; with none queued the oldest notice item
leaves the list and is sent as a notice of its kind, tagged with the notice sequence, its body built from the present
state, and a MODULE or TERMINAL notice clears its object's changed flag; with neither, the line falls idle. The kind bytes
are 0xB0 to 0xB7, and the body of each kind carries the items of TABLE 11-4 (`NoticesCarry`; log entries 13, 14 and 46 mark
what its bytes rest on beside TABLE 11-2). A notice goes
ahead of a queued reply only when the two appeared together at an idle transmitter with nothing waiting, which the model
notes in a field of its own until a frame is taken (log entry 21). A notice's end advances the notice sequence before the
next notice takes its tag (log entry 15). -/
def Obligations.TransmitterChooses : Prop :=
  ((∀ (s : State) (r : LinkFrame) (rest : List LinkFrame), s.resetAsserted = false → s.link.replies = r :: rest →
      (s.link.tx = none →
        exec .transmitReply s = .next (finish s { s with link := { s.link with
          replies := rest, tx := some r, noticeMayLead := false } })) ∧
      (s.link.tx = none → s.link.noticeMayLead = false → exec .transmitNotice s = .next (finish s s)) ∧
      ∀ f, s.link.tx = some f →
        exec .frameSent s = .next (finish s { s with link := { s.link with
          replies := rest, tx := some r, noticeMayLead := false,
          noticeSeq := if f.isNotice then (s.link.noticeSeq + 1) % 256 else s.link.noticeSeq } })) ∧
   ∀ (s : State) (f : LinkFrame), s.resetAsserted = false → s.link.tx = some f → s.link.replies = [] →
     let seq := if f.isNotice then (s.link.noticeSeq + 1) % 256 else s.link.noticeSeq
     (s.link.notices = [] →
       exec .frameSent s = .next (finish s { s with link := { s.link with tx := none, noticeSeq := seq } })) ∧
     ∀ n rest, s.link.notices = n :: rest →
       ∃ u, exec .frameSent s = .next (finish s u) ∧
         NoticeStarted n rest { s with link := { s.link with tx := none, noticeSeq := seq } } u) ∧
  (∀ (s : State) (n : NoticeItem) (rest : List NoticeItem), s.resetAsserted = false → s.link.tx = none →
    (s.link.replies = [] ∨ s.link.noticeMayLead = true) → s.link.notices = n :: rest →
    ∃ u, exec .transmitNotice s = .next (finish s u) ∧ NoticeStarted n rest s u) ∧
  (∀ line slot addr window id entry,
    [NoticeItem.boardModule line slot, .terminal line addr, .referral window, .ribbon id, .session, .scheduleSkip entry,
      .clock, .layout].map NoticeItem.kindByte = [0xB0, 0xB1, 0xB2, 0xB3, 0xB4, 0xB5, 0xB6, 0xB7]) ∧
  (∀ s : State, NoticesCarry s) ∧
  ∀ s u : State,
    let t := finish s u
    t.link.noticeMayLead = true ↔ t.link.tx = none ∧ t.link.replies ≠ [] ∧ t.link.notices ≠ [] ∧
      (s.link.noticeMayLead = true ∨ s.link.tx = none ∧ s.link.replies = [] ∧ s.link.notices = [])

/-! ### The host link: serving -/

/-- A served request of the wrong shape is refused MALFORMED: a kind not of TABLE 11-3 (UNKNOWN_REQUEST_KIND), a body
length other than the table's for its kind, a HOLD whose length is not 5 plus its text count, a TRADE with the absent
marker in its price or its size, a QUOTE with a side half present. -/
def Obligations.WrongShapeIsMalformed : Prop :=
  ((∀ (k : HostKind) (n : Nat) (r : LinkFrame) (rest : List LinkFrame) (s : State), s.ready k r rest →
     k.bodyLength = some n → r.body.length ≠ n →
     exec k.command s = .next (k.ends s (s.refusedHead r rest .malformed))) ∧
   (∀ (r : LinkFrame) (rest : List LinkFrame) (s : State), s.ready .hold r rest →
     (r.body.length < 5 ∨ r.body.length ≠ 5 + (r.body.getD 4 0).toNat) →
     exec .hold s = .next (finish s (s.refusedHead r rest .malformed))) ∧
   ∀ (r : LinkFrame) (rest : List LinkFrame) (s : State), s.resetAsserted = false →
     s.loader.result ≠ .inProgress → s.link.inService = none → s.link.replies.length < 4 →
     s.link.requests = r :: rest → (∀ k : HostKind, r.kind ≠ k.code) →
     exec .unknownRequestKind s = .next (finish s (s.refusedHead r rest .malformed))) ∧
  ∀ (r : LinkFrame) (rest : List LinkFrame) (s : State) (index price size bid bidSize ask askSize : List Byte),
    let absent : List Byte := [0xFF, 0xFF, 0xFF]
    index.length = 2 → price.length = 3 → size.length = 3 → bid.length = 3 → bidSize.length = 3 → ask.length = 3 →
    askSize.length = 3 →
    (s.ready .trade r rest → r.body = index ++ price ++ size → (price = absent ∨ size = absent) →
      exec .trade s = .next (finish s (s.refusedHead r rest .malformed))) ∧
    (s.ready .quote r rest → r.body = index ++ bid ++ bidSize ++ ask ++ askSize →
      (¬(bid = absent ↔ bidSize = absent) ∨ ¬(ask = absent ↔ askSize = absent)) →
      exec .quote s = .next (finish s (s.refusedHead r rest .malformed)))

/-- Every served request of every kind gets one reply. It is REFUSED, and then the request has changed nothing but the
queues of the link and In_refused; or it is DONE, with the request's tag and its kind byte first, behind the replies
already queued, and In_refused has not advanced (CLEAR-COUNTERS clears it). RESTART discards the requests behind it. A
command that serves changes nothing when its service may not begin: while the load is in progress, with a request in
service or four replies queued, with no request queued, or with a head request of another kind. That a service is one
command, with nothing between its beginning and its reply, and that a command at a moment when it does not occur changes
nothing, is the model's (log entries 20 and 1). -/
def Obligations.EveryServiceGivesOneReply : Prop :=
  (∀ (k : HostKind) (r : LinkFrame) (rest : List LinkFrame) (s : State), s.ready k r rest →
    ∃ u, exec k.command s = .next (k.ends s u) ∧
      ((∃ reason, u = s.refusedHead r rest reason) ∨
        ∃ result, u.link.replies = s.link.replies ++ [{ kind := 0xA0, tag := r.tag, body := r.kind :: result }] ∧
          u.link.requests = (if k = .restart then [] else rest) ∧ u.link.inService = none ∧
          u.counter .inRefused = if k = .clearCounters then 0 else s.counter .inRefused)) ∧
  ∀ s : State, s.resetAsserted = false →
    let waits := s.loader.result = .inProgress ∨ s.link.inService ≠ none ∨ 4 ≤ s.link.replies.length ∨ s.link.requests = []
    (∀ k : HostKind, (waits ∨ ∀ r rest, s.link.requests = r :: rest → r.kind ≠ k.code) →
      exec k.command s = .next (k.ends s s)) ∧
    ((waits ∨ ∀ r rest, s.link.requests = r :: rest → ∃ k : HostKind, r.kind = k.code) →
      exec .unknownRequestKind s = .next (finish s s))

/-! ### Feed requests -/

/-- What a price becomes on the grid of a denominator, and what a size becomes: refused, kept, moved down to the nearest
grid price, or clamped. -/
def Obligations.PricesAndSizesAreChecked : Prop :=
  (∀ d, d = 8 ∨ d = 16 ∨ d = 32 ∨ d = 64 → ∀ p : Nat,
    (p = 0 ∨ 639999 < p ∨ p < 64 / d → checkPrice d p = none) ∧
    (64 / d ≤ p → p ≤ 639999 → ∃ q moved, checkPrice d p = some (q, moved) ∧ q ≤ p ∧ p < q + 64 / d ∧
      q % (64 / d) = 0 ∧ (moved = true ↔ q ≠ p))) ∧
  ∀ z : Nat, (z = 0 → checkSize z = none) ∧ (1 ≤ z → z ≤ 9999999 → checkSize z = some (z, false)) ∧
    (9999999 < z → checkSize z = some (9999999, true))

/-- TABLE 2-2: the checks of the seven feed requests in their order, and the reason each failure gives; a refused one
changes nothing else. -/
def Obligations.FeedChecksInOrder : Prop :=
  (∀ (r : LinkFrame) (rest : List LinkFrame) (s : State) (b : TradeBody), s.ready .trade r rest →
    readTrade r.body = some b →
    let e := s.entry b.index
    let refused (x : Reason) := exec .trade s = .next (finish s (s.refusedHead r rest x))
    (1023 < b.index → refused .range) ∧
    (b.index ≤ 1023 → e.status = .free → refused .unknown) ∧
    (b.index ≤ 1023 → e.status = .halted → refused .halted) ∧
    (b.index ≤ 1023 → e.status = .listed → s.session.state ≠ .opened → refused .session) ∧
    (b.index ≤ 1023 → e.status = .listed → s.session.state = .opened →
      (checkPrice e.denom b.price = none ∨ checkSize b.size = none) → refused .range)) ∧
  (∀ (r : LinkFrame) (rest : List LinkFrame) (s : State) (b : ListBody), s.ready .list r rest →
    readList r.body = some b →
    let refused (x : Reason) := exec .list s = .next (finish s (s.refusedHead r rest x))
    let good := isSymbol b.symbol ∧ (b.denom = 8 ∨ b.denom = 16 ∨ b.denom = 32 ∨ b.denom = 64) ∧
      (b.lot = 10 ∨ b.lot = 100) ∧ b.cls ≤ 7
    ((1023 < b.index ∨ ¬good) → refused .range) ∧
    (b.index ≤ 1023 → good → (s.entry b.index).status ≠ .free → refused .state) ∧
    (b.index ≤ 1023 → good → (s.entry b.index).status = .free → (∃ i, (b.symbol, i) ∈ s.directory) →
      refused .duplicate)) ∧
  (∀ (r : LinkFrame) (rest : List LinkFrame) (s : State) (b : QuoteBody), s.ready .quote r rest →
    readQuote r.body = some b →
    let e := s.entry b.index
    let refused (x : Reason) := exec .quote s = .next (finish s (s.refusedHead r rest x))
    let bad (x : Option Side) := ∃ y, x = some y ∧ (checkPrice e.denom y.price = none ∨ checkSize y.size = none)
    (1023 < b.index → refused .range) ∧
    (b.index ≤ 1023 → e.status = .free → refused .unknown) ∧
    (b.index ≤ 1023 → e.status ≠ .free → (bad b.bid ∨ bad b.ask) → refused .range)) ∧
  (∀ (r : LinkFrame) (rest : List LinkFrame) (s : State) (i : Nat) (close : Option Nat), s.ready .closeSet r rest →
    readCloseSet r.body = some (i, close) →
    let refused (x : Reason) := exec .closeSet s = .next (finish s (s.refusedHead r rest x))
    (1023 < i → refused .range) ∧
    (i ≤ 1023 → (s.entry i).status = .free → refused .unknown) ∧
    (i ≤ 1023 → (s.entry i).status ≠ .free → (∃ p, close = some p ∧ checkPrice (s.entry i).denom p = none) →
      refused .range)) ∧
  ∀ (r : LinkFrame) (rest : List LinkFrame) (s : State) (i : Nat), readIndex r.body = some i →
    let refused (k : HostKind) (x : Reason) := exec k.command s = .next (finish s (s.refusedHead r rest x))
    (∀ k, k = .delist ∨ k = .halt ∨ k = .resume → s.ready k r rest → 1023 < i → refused k .range) ∧
    (s.ready .delist r rest → i ≤ 1023 → (s.entry i).status = .free → refused .delist .unknown) ∧
    (s.ready .delist r rest → i ≤ 1023 → (s.entry i).status ≠ .free →
      (∃ w h, w < 4 ∧ (s.window w).slot = some h ∧ h.index = i) → refused .delist .state) ∧
    (s.ready .halt r rest → i ≤ 1023 → (s.entry i).status ≠ .listed → refused .halt .state) ∧
    (s.ready .resume r rest → i ≤ 1023 → (s.entry i).status ≠ .halted → refused .resume .state)

/-- LIST: an accepted LIST makes the entry LISTED with the values sent and every figure absent or 0, inserts the pair
into the directory at the position its symbol takes in symbol order, the other members keeping their order, offers the
cells bound to the index, and changes nothing else. -/
def Obligations.ListMakesAnEntry : Prop :=
  ∀ (r : LinkFrame) (rest : List LinkFrame) (s : State) (b : ListBody), s.ready .list r rest →
    readList r.body = some b → b.index ≤ 1023 → b.inRange = true → (s.entry b.index).status = .free →
    lookup b.symbol s.directory = none →
    ∃ u, exec .list s = .next (finish s u) ∧
      u = { s with
        entries := u.entries, queues := u.queues, directory := u.directory
        link := s.link.replied r rest [] } ∧
      u.entry b.index =
        { status := .listed, symbol := b.symbol, denom := b.denom, lot := b.lot, cls := b.cls, prevClose := none,
          last := none, opening := none, high := none, low := none, dayVolume := 0, lastSize := 0, tick := .none,
          bid := none, ask := none, firstPending := true, dayStamp := s.dayNumber, watchers := 0,
          cells := (s.entry b.index).cells } ∧
      (∀ j, j ≠ b.index → u.entry j = s.entry j) ∧ Offered (s.entry b.index).cells s u ∧
      ∃ before after, s.directory = before ++ after ∧ u.directory = before ++ (b.symbol, b.index) :: after ∧
        (s.directoryRising → (∀ p ∈ before, symbolBelow p.1 b.symbol) ∧ ∀ p ∈ after, symbolBelow b.symbol p.1)

/-- DELIST: an accepted DELIST takes the instrument out of every watch list, marking the rows from its place to the end of
the list and none before its place, empties the alerts that name it, unbinds and offers its cells, and frees the entry and
its directory pair. -/
def Obligations.DelistCascade : Prop :=
  ∀ (r : LinkFrame) (rest : List LinkFrame) (s : State) (i : Nat), s.ready .delist r rest →
    readIndex r.body = some i → i ≤ 1023 → (s.entry i).status ≠ .free →
    (∀ w h, w < 4 → (s.window w).slot = some h → h.index ≠ i) →
    ∃ u, exec .delist s = .next (finish s u) ∧
      u = { s with
        entries := u.entries, queues := u.queues, cells := u.cells, terms := u.terms
        directory := s.directory.filter (fun p => decide (p.2 ≠ i)), link := s.link.replied r rest [] } ∧
      u.entry i = { s.entry i with status := .free, cells := [], watchers := 0 } ∧
      (∀ j, j ≠ i → u.entry j = s.entry j) ∧
      (∀ c ∈ (s.entry i).cells, u.cell c =
        { s.cell c with binding := none, flashCount := 0, tradeMark := false, prevChars := none }) ∧
      (∀ c, c ∉ (s.entry i).cells → u.cell c = s.cell c) ∧ Offered (s.entry i).cells s u ∧
      (∀ n, n < 64 →
        let x := s.term n
        let y := u.term n
        y = { x with watchList := x.watchList.erase i, rows := y.rows, alerts := y.alerts } ∧
        (i ∉ x.watchList → y.rows = x.rows) ∧ (∀ row ∈ x.rows, row ∈ y.rows) ∧
        (∀ k, x.watchList[k]? = some i → (∀ j, j < k → x.watchList[j]? ≠ some i) → ∀ row, row < 12 →
          k ≤ 12 * x.page + row → 12 * x.page + row < x.watchList.length → row ∈ y.rows) ∧
        (∀ k, x.watchList[k]? = some i → (∀ j, j < k → x.watchList[j]? ≠ some i) → ∀ row ∈ y.rows,
          row ∈ x.rows ∨ row < 12 ∧ k ≤ 12 * x.page + row) ∧
        ∀ k, k < 4 → y.alert k = if (x.alert k).instrument = some i then Alert.cold else x.alert k) ∧
      ∀ n, 64 ≤ n → u.term n = s.term n

/-- TRADE: the entry an accepted TRADE leaves, from the entry as it stands once a stale one has been rolled, and the
counters; no other entry, and nothing that no fan-out reaches, changes. The tick comes from the price against the last
before it, or against the close when that is absent; a price equal to the last keeps the tick. -/
def Obligations.TradeUpdatesTheEntry : Prop :=
  ∀ (r : LinkFrame) (rest : List LinkFrame) (s : State) (b : TradeBody) (p z : Nat) (moved clamped : Bool),
    s.ready .trade r rest → readTrade r.body = some b → b.index ≤ 1023 → (s.entry b.index).status = .listed →
    s.session.state = .opened → checkPrice (s.entry b.index).denom b.price = some (p, moved) →
    checkSize b.size = some (z, clamped) →
    let e := s.current b.index
    ∃ u, exec .trade s = .next (finish s u) ∧
      u = { s with
        entries := u.entries, cells := u.cells, queues := u.queues, ribbonA := u.ribbonA, ribbonB := u.ribbonB,
        terms := u.terms, counters := u.counters
        link := { s.link.replied r rest [] with notices := u.link.notices } } ∧
      u.entry b.index = { e with
        tick := match e.last, e.prevClose with
          | some l, _ => if l < p then .up else if p < l then .down else e.tick
          | none, some c => if c < p then .up else if p < c then .down else .level
          | none, none => .level
        last := some p
        opening := some (e.opening.getD p)
        high := if e.opening = none then some p else e.high.map (fun h => max h p)
        low := if e.opening = none then some p else e.low.map (fun l => min l p)
        dayVolume := min 99999999 (e.dayVolume + z), lastSize := z, firstPending := false } ∧
      (∀ j, j ≠ b.index → u.entry j = s.entry j) ∧
      s.onlyCounted u [.inTrades, .inOffgrid, .inSizeClamped, .rbDropped, .rbModeRises] ∧
      u.counter .inTrades = min 4294967295 (s.counter .inTrades + 1) ∧
      u.counter .inOffgrid = min 4294967295 (s.counter .inOffgrid + if moved then 1 else 0) ∧
      u.counter .inSizeClamped = min 4294967295 (s.counter .inSizeClamped + if clamped then 1 else 0)

/-- TRADE: what an accepted TRADE hands out: every cell of the list marked and offered; a print at the tail of each ribbon
that is not OFF, admits the class and has room, and the mode evaluation that follows it, with the RIBBON notice of a
change of mode; a full queue follows its policy (`FullQueuePolicy`); the instrument's row marked where a terminal shows
it, and no other row; every ARMED alert of the instrument whose enabled conditions all hold fired, and no other. The rest
of every terminal is kept. -/
def Obligations.TradeFansOut : Prop :=
  ∀ (r : LinkFrame) (rest : List LinkFrame) (s : State) (b : TradeBody) (p z : Nat) (moved clamped : Bool),
    s.ready .trade r rest → readTrade r.body = some b → b.index ≤ 1023 → (s.entry b.index).status = .listed →
    s.session.state = .opened → checkPrice (s.entry b.index).denom b.price = some (p, moved) →
    checkSize b.size = some (z, clamped) →
    let e := s.current b.index
    ∃ u, exec .trade s = .next (finish s u) ∧
      (∀ c, u.cell c = if c ∈ e.cells then { s.cell c with tradeMark := true } else s.cell c) ∧
      Offered e.cells s u ∧
      PrintOffered (fun id => (s.ribbon id).mask.getLsbD e.cls)
        (.trade { symbol := e.symbol, index := b.index, price := p, size := z, lot := e.lot, denom := e.denom
                  first := e.firstPending }) s u ∧
      Noticed (modeNotices s u) s u ∧
      (∀ n, u.term n = { s.term n with rows := (u.term n).rows, alerts := (u.term n).alerts }) ∧
      (∀ n row, row ∈ (u.term n).rows ↔ row ∈ (s.term n).rows ∨ s.showsRow b.index n row) ∧
      ∀ n k,
        let a := (s.term n).alert k
        let fires := n < 64 ∧ k < 4 ∧ a.state = .armed ∧ a.instrument = some b.index ∧ a.conditions.met p z
        (fires → (u.term n).alert k =
          { a with state := .fired, fired := some { price := p, size := z, second := s.clock.second } }) ∧
        (¬fires → (u.term n).alert k = a)

/-- QUOTE and CLOSE_SET: an accepted QUOTE replaces both sides, an accepted CLOSE-SET the close, of the entry rolled
first when stale; no other field of the entry and no other entry changes, and the rows that show it are marked. The cells
are offered by a CLOSE-SET and by a roll; a QUOTE of a current entry offers no cell. -/
def Obligations.QuoteAndCloseSet : Prop :=
  (∀ (r : LinkFrame) (rest : List LinkFrame) (s : State) (b : QuoteBody) (x y : CheckedSide),
    s.ready .quote r rest → readQuote r.body = some b → b.index ≤ 1023 → (s.entry b.index).status ≠ .free →
    checkSide (s.entry b.index).denom b.bid = some x → checkSide (s.entry b.index).denom b.ask = some y →
    ∃ u, exec .quote s = .next (finish s u) ∧
      u = { s with
        entries := u.entries, queues := u.queues, terms := u.terms, counters := u.counters
        link := s.link.replied r rest [] } ∧
      u.entry b.index = { s.current b.index with bid := x.side, ask := y.side } ∧
      (∀ j, j ≠ b.index → u.entry j = s.entry j) ∧
      ((s.entry b.index).stale s.dayNumber = false → u.queues = s.queues) ∧
      ((s.entry b.index).stale s.dayNumber = true → Offered (s.entry b.index).cells s u) ∧
      RowsMarked b.index s u ∧ s.onlyCounted u [.inOffgrid, .inSizeClamped] ∧
      u.counter .inOffgrid = min 4294967295
        (s.counter .inOffgrid + ((if x.moved then 1 else 0) + if y.moved then 1 else 0)) ∧
      u.counter .inSizeClamped = min 4294967295
        (s.counter .inSizeClamped + ((if x.clamped then 1 else 0) + if y.clamped then 1 else 0))) ∧
  ∀ (r : LinkFrame) (rest : List LinkFrame) (s : State) (i : Nat) (close stored : Option Nat) (moved : Bool),
    s.ready .closeSet r rest → readCloseSet r.body = some (i, close) → i ≤ 1023 → (s.entry i).status ≠ .free →
    checkClose (s.entry i).denom close = some (stored, moved) →
    ∃ u, exec .closeSet s = .next (finish s u) ∧
      u = { s with
        entries := u.entries, queues := u.queues, terms := u.terms, counters := u.counters
        link := s.link.replied r rest [] } ∧
      u.entry i = { s.current i with prevClose := stored } ∧ (∀ j, j ≠ i → u.entry j = s.entry j) ∧
      Offered (s.entry i).cells s u ∧ RowsMarked i s u ∧ s.onlyCounted u [.inOffgrid] ∧
      u.counter .inOffgrid = min 4294967295 (s.counter .inOffgrid + if moved then 1 else 0)

/-- HALT and RESUME: the entry's state alone changes, after any roll; the cells are offered, the rows that show it are
marked, and a HALT or RESUME print joins each ribbon that is not OFF, admits the class and has room, with the mode evaluation
that follows and the RIBBON notice of a change of mode; a full queue follows its policy (`FullQueuePolicy`). -/
def Obligations.HaltAndResume : Prop :=
  ∀ (r : LinkFrame) (rest : List LinkFrame) (s : State) (i : Nat) (k : HostKind) (before after : EntryStatus)
    (print : Text → PrintBody),
    (k = .halt ∧ before = .listed ∧ after = .halted ∧ print = (fun sym => .halt sym i)) ∨
      (k = .resume ∧ before = .halted ∧ after = .listed ∧ print = (fun sym => .resume sym i)) →
    s.ready k r rest → readIndex r.body = some i → i ≤ 1023 → (s.entry i).status = before →
    ∃ u, exec k.command s = .next (finish s u) ∧
      u = { s with
        entries := u.entries, queues := u.queues, ribbonA := u.ribbonA, ribbonB := u.ribbonB, terms := u.terms,
        counters := u.counters, link := { s.link.replied r rest [] with notices := u.link.notices } } ∧
      u.entry i = { s.current i with status := after } ∧ (∀ j, j ≠ i → u.entry j = s.entry j) ∧
      Offered (s.entry i).cells s u ∧ RowsMarked i s u ∧
      PrintOffered (fun id => (s.ribbon id).mask.getLsbD (s.entry i).cls) (print (s.entry i).symbol) s u ∧
      Noticed (modeNotices s u) s u ∧ s.onlyCounted u [.rbDropped, .rbModeRises]

/-- ROLL_WALK_VISIT: the entry at the position is rolled when it is stale (its last becomes the close, the day's figures
are cleared), its cells are offered and the rows that show it are marked; the position advances, and the visit to index
1,023 clears the flag. -/
def Obligations.RollWalkVisit : Prop :=
  ∀ s : State, s.resetAsserted = false → s.walkActive = true →
    let e := s.entry s.walkPos
    ∃ u, exec .rollWalkVisit s = .next (finish s u) ∧
      u = { s with
        entries := u.entries, queues := u.queues, terms := u.terms, walkActive := u.walkActive, walkPos := u.walkPos
        free := u.free } ∧
      u.entry s.walkPos =
        (if e.status ≠ .free ∧ e.dayStamp ≠ s.dayNumber then
          { e with
            prevClose := if e.last = none then e.prevClose else e.last
            last := none, opening := none, high := none, low := none, bid := none, ask := none
            dayVolume := 0, lastSize := 0, tick := .none, firstPending := true, dayStamp := s.dayNumber }
        else e) ∧
      (∀ j, j ≠ s.walkPos → u.entry j = s.entry j) ∧
      (e.status ≠ .free → e.dayStamp ≠ s.dayNumber → Offered e.cells s u ∧ RowsMarked s.walkPos s u) ∧
      ((e.status = .free ∨ e.dayStamp = s.dayNumber) → u.queues = s.queues ∧ u.terms = s.terms) ∧
      (s.walkPos < 1023 → u.walkActive = true ∧ u.walkPos = s.walkPos + 1) ∧
      (1023 ≤ s.walkPos → u.walkActive = false)

/-! ### The session and the clock -/

/-- SESSION_SET: refused, or equal to the present state, it makes no transition and no notice. A legal target makes one:
the session and the transition record, a SESSION notice (with the RIBBON notices of the modes that its banner changes, and no
other), the day number and the roll walk for PRE_OPEN, the board lines
with the cells that the DARK ones queue, and the owed status, and the target in the reply. The legal transitions are those
of TABLE 3-3. -/
def Obligations.SessionSetMakesATransition : Prop :=
  (∀ x y, legalTransition x y = true ↔ (x, y) ∈
    [(SessionState.closed, SessionState.preOpen), (.preOpen, .opened), (.preOpen, .closed), (.opened, .haltedAll),
     (.opened, .after), (.opened, .closed), (.haltedAll, .opened), (.haltedAll, .after), (.haltedAll, .closed),
     (.after, .preOpen), (.after, .closed)]) ∧
  (∀ (r : LinkFrame) (rest : List LinkFrame) (s : State) (n : Nat), s.ready .sessionSet r rest → read1 r.body = some n →
     (4 < n → exec .sessionSet s = .next (finish s (s.refusedHead r rest .range))) ∧
     ∀ tgt, sessionStateOf n = some tgt →
       (tgt = s.session.state → exec .sessionSet s =
         .next (finish s { s with link := s.link.replied r rest [byteOf tgt.code] })) ∧
       (tgt ≠ s.session.state → legalTransition s.session.state tgt = false →
         exec .sessionSet s = .next (finish s (s.refusedHead r rest .state))) ∧
       (tgt ≠ s.session.state → tgt = .preOpen → s.walkActive = true →
         exec .sessionSet s = .next (finish s (s.refusedHead r rest .state)))) ∧
  ∀ (r : LinkFrame) (rest : List LinkFrame) (s : State) (n : Nat) (tgt : SessionState),
    s.ready .sessionSet r rest → read1 r.body = some n → sessionStateOf n = some tgt →
    legalTransition s.session.state tgt = true → ¬(tgt = .preOpen ∧ s.walkActive = true) →
    ∃ u, exec .sessionSet s = .next (finish s u) ∧
      u = { s with
        session := { state := tgt, left := s.session.state, entered := tgt, second := s.clock.second }
        dayNumber := if tgt = .preOpen then (s.dayNumber + 1) % 256 else s.dayNumber
        walkActive := if tgt = .preOpen then true else s.walkActive
        walkPos := if tgt = .preOpen then 0 else s.walkPos
        lines := u.lines, queues := u.queues, ribbonA := u.ribbonA, ribbonB := u.ribbonB, terms := u.terms
        counters := u.counters
        link := { s.link.replied r rest [byteOf tgt.code] with notices := u.link.notices } } ∧
      Noticed (.session :: modeNotices s u) s u ∧ s.onlyCounted u [.rbDropped, .rbModeRises, .rbUnderrun] ∧
      s.advancedBy u .rbUnderrun ([RibbonId.a, .b].countP (fun id => decide (tgt = .preOpen) &&
        decide ((s.ribbon id).state = .stopped) && (s.ribbon id).fifo.isEmpty && !(s.ribbon id).queue.isEmpty)) ∧
      (∀ k, k < 64 → u.term k =
        { s.term k with statusOwed := (s.term k).statusOwed || (s.term k).served }) ∧
      (∀ m, m < 8 → u.line m =
        if tgt = .after ∧ (s.line m).state = .lit ∧ (s.line m).darkDelay ≠ 0 then
          { s.line m with darkTimer := some ((s.line m).darkDelay * 60) }
        else if tgt = .preOpen ∧ (s.line m).state ≠ .off then { s.line m with state := .lit, darkTimer := none }
        else s.line m) ∧
      (tgt ≠ .preOpen → u.queues = s.queues) ∧
      (tgt = .preOpen →
        let woken := (List.range 8).filter (fun m => decide ((s.line m).state = .dark))
        Forced (woken.flatMap (fun m => liveCells m s)) s u)

/-- SESSION_SET to a legal target: a banner joins the queue of every ribbon that is not OFF and has room, whatever its
class mask, and the mode is evaluated; a full queue follows its policy (`FullQueuePolicy`); entry into PRE_OPEN starts a
STOPPED ribbon; entry into AFTER or CLOSED without a banner stops a ribbon that has nothing left; every other ribbon
stands. The banner of each transition is that of TABLE 7-4. That the first character of a ribbon that starts leaves the
FIFO inside the command, before the arbiter's decision, in the place of a last character that is still being sent, and
that a ribbon that stops at the transition keeps the character on its output, is the model's reading of R115, R116 and
R132 (log entry 16, DEDUCED). -/
def Obligations.SessionReachesTheRibbons : Prop :=
  (∀ x y b, bannerFor x y = some b ↔ (x, y, b) ∈
    [(SessionState.preOpen, SessionState.opened, Banner.marketOpen), (.opened, .haltedAll, .tradingHalted),
     (.haltedAll, .opened, .tradingResumes), (.opened, .after, .marketClosed), (.haltedAll, .after, .marketClosed),
     (.opened, .closed, .marketClosed), (.haltedAll, .closed, .marketClosed)]) ∧
  ∀ (r : LinkFrame) (rest : List LinkFrame) (s : State) (n : Nat) (tgt : SessionState) (id : RibbonId),
    s.ready .sessionSet r rest → read1 r.body = some n → sessionStateOf n = some tgt →
    legalTransition s.session.state tgt = true → ¬(tgt = .preOpen ∧ s.walkActive = true) →
    ∃ u, exec .sessionSet s = .next (finish s u) ∧
      (∀ b, bannerFor s.session.state tgt = some b → PrintOffered (fun _ => true) (.banner b) s u) ∧
      (bannerFor s.session.state tgt = none → u.counter .rbDropped = s.counter .rbDropped ∧
        u.counter .rbModeRises = s.counter .rbModeRises) ∧
      ((s.ribbon id).state = .off → u.ribbon id = s.ribbon id) ∧
      (tgt = .preOpen → (s.ribbon id).state ≠ .stopped → u.ribbon id = s.ribbon id) ∧
      (tgt = .preOpen → (s.ribbon id).state = .stopped →
        u.ribbon id = { s.ribbon id with
          state := .running, fifo := (s.ribbon id).fifo.tail, period := some (s.ribbon id).rate
          output := some ((s.ribbon id).fifo.head?.getD ' ') }) ∧
      (closedOrAfter tgt = true → bannerFor s.session.state tgt = none → (s.ribbon id).state = .running →
        (s.ribbon id).queue = [] → (s.ribbon id).fifo = [] → ribbonJobInFlight id s = false →
        u.ribbon id = { s.ribbon id with state := .stopped, period := none }) ∧
      (closedOrAfter tgt = true → bannerFor s.session.state tgt = none →
        ((s.ribbon id).state ≠ .running ∨ (s.ribbon id).queue ≠ [] ∨ (s.ribbon id).fifo ≠ [] ∨
          ribbonJobInFlight id s = true) →
        u.ribbon id = s.ribbon id)

/-- TIME_SET and SCHED_SET: an accepted TIME-SET loads the five values and sets the clock state by the reference
indication; an accepted SCHED-SET replaces the entry and keeps its skip record; values out of range are refused. -/
def Obligations.TimeAndScheduleAreSet : Prop :=
  (∀ (r : LinkFrame) (rest : List LinkFrame) (s : State) (b : TimeBody), s.ready .timeSet r rest →
    readTimeSet r.body = some b →
    let good := b.second < 86400 ∧ b.weekday ≤ 6 ∧ 1 ≤ b.month ∧ b.month ≤ 12 ∧ b.year ≤ 99 ∧ 1 ≤ b.day ∧
      b.day ≤ monthLength b.month b.year
    let x := if s.clock.present then ClockState.running else .freeRunning
    (¬good → exec .timeSet s = .next (finish s (s.refusedHead r rest .range))) ∧
    (good → exec .timeSet s = .next (finish s { s with
      clock := { s.clock with
        second := b.second, weekday := b.weekday, day := b.day, month := b.month, year := b.year, state := x }
      link := { s.link.replied r rest [] with
        notices := if s.clock.state = x ∨ .clock ∈ s.link.notices then s.link.notices
          else s.link.notices ++ [.clock] } }))) ∧
  ∀ (r : LinkFrame) (rest : List LinkFrame) (s : State) (b : SchedBody), s.ready .schedSet r rest →
    readSchedSet r.body = some b →
    ((15 < b.entry ∨ 23 < b.hour ∨ 59 < b.minute ∨ 4 < b.target ∨ (b.dayMatch = true ∧ b.selectorType = 0 ∧
        b.selectorByte = 0) ∨ (b.selectorType = 1 ∧ (b.selectorByte = 0 ∨ 31 < b.selectorByte.toNat))) →
      exec .schedSet s = .next (finish s (s.refusedHead r rest .range))) ∧
    ∀ sel tgt, b.entry ≤ 15 → b.hour ≤ 23 → b.minute ≤ 59 → sessionStateOf b.target = some tgt →
      (b.selectorType = 0 ∧ b.selectorByte.toNat < 128 ∧ (b.dayMatch = true → b.selectorByte ≠ 0) ∧
          sel = .weekdays b.selectorByte ∨
        b.selectorType = 1 ∧ 1 ≤ b.selectorByte.toNat ∧ b.selectorByte.toNat ≤ 31 ∧
          sel = .date b.selectorByte.toNat) →
      ∃ u, exec .schedSet s = .next (finish s u) ∧
        u = { s with sched := u.sched, link := s.link.replied r rest [] } ∧
        u.schedEntry b.entry =
          { enabled := b.enabled, hour := b.hour, hourMatch := b.hourMatch, minute := b.minute,
            minuteMatch := b.minuteMatch, selector := sel, dayMatch := b.dayMatch, target := tgt,
            skip := (s.schedEntry b.entry).skip } ∧
        ∀ n, n ≠ b.entry → u.schedEntry n = s.schedEntry n

/-- SECOND_PULSE, INTERNAL_SECOND, REFERENCE_WATCH_EXPIRY: a second tick's time and calendar with the month lengths of
TABLE 3-1, February's 29 in a year divisible by 4; and what each of the three
does to the clock. A pulse takes its tick, then sets the indication PRESENT, and a FREE_RUNNING clock RUNNING with a CLOCK
notice (tick first: log entry 37); an expiry of the watch sets the indication LOST, and a RUNNING clock FREE_RUNNING with a
CLOCK notice, and takes three ticks. An internal second while the reference is PRESENT, and an expiry of a watch already
expired, do nothing (the model's reading, log entry 1). -/
def Obligations.TicksAdvanceTheClock : Prop :=
  (∀ year, (List.range 12).map (fun m => monthLength (m + 1) year) =
    [31, if year % 4 = 0 then 29 else 28, 31, 30, 31, 30, 31, 31, 30, 31, 30, 31]) ∧
  (∀ c : Clock,
     (c.second ≠ 86399 → c.tick = { c with second := c.second + 1 }) ∧
     (c.second = 86399 → c.day < monthLength c.month c.year →
       c.tick = { c with second := 0, weekday := (c.weekday + 1) % 7, day := c.day + 1 }) ∧
     (c.second = 86399 → monthLength c.month c.year ≤ c.day → c.month < 12 →
       c.tick = { c with second := 0, weekday := (c.weekday + 1) % 7, day := 1, month := c.month + 1 }) ∧
     (c.second = 86399 → monthLength c.month c.year ≤ c.day → 12 ≤ c.month →
       c.tick = { c with
         second := 0, weekday := (c.weekday + 1) % 7, day := 1, month := 1, year := (c.year + 1) % 100 })) ∧
  ∀ s : State, s.resetAsserted = false →
    let kept (u : State) := (u.loader, u.directory, u.flashPeriod, u.slots, u.displays) =
      (s.loader, s.directory, s.flashPeriod, s.slots, s.displays)
    let noticed (v : State) (x : ClockState) := { v.link with
      notices := if v.clock.state = x ∧ .clock ∉ v.link.notices then v.link.notices ++ [.clock] else v.link.notices }
    let v := secondTick s
    let lost : State := { s with
      clock := { s.clock with
        present := false, watchExpired := true
        state := if s.clock.state = .running then .freeRunning else s.clock.state }
      link := noticed s .running }
    let w := secondTick (secondTick (secondTick lost))
    (v.clock = s.clock.tick ∧ kept v ∧ w.clock = lost.clock.tick.tick.tick ∧ kept w) ∧
    exec .secondPulse s = .next (finish s { v with
      clock := { v.clock with
        present := true, watchExpired := false
        state := if v.clock.state = .freeRunning then .running else v.clock.state }
      link := noticed v .freeRunning }) ∧
    (s.clock.present = false → exec .internalSecond s = .next (finish s v)) ∧
    (s.clock.present = true → exec .internalSecond s = .next (finish s s)) ∧
    (s.clock.watchExpired = false → exec .referenceWatchExpiry s = .next (finish s w)) ∧
    (s.clock.watchExpired = true → exec .referenceWatchExpiry s = .next (finish s s))

/-- A second tick: the time and calendar, what it hands to the blocks that count seconds, the decision of an IDLE unit,
and, only at a minute boundary of a set clock, the matching schedule entries applied in ascending number (that order inside
a tick is log entry 8). What the tick hands out: flash counts with the cells whose flash runs out, dark timers, dwell and
LATE age, quiet counts with the rounds they begin, lapse counts with the terminals that lapse, and the holds of the
referral windows, where each hold that runs out is counted, gives its terminal's record NO-ANSWER and raises its notice. It
leaves everything else as it is: every other record, counter, notice, and part of the state. And which entries match, and
what a matching entry does: nothing, a skip with its record and notice, or the transition. -/
def Obligations.TickReachesTheCounters : Prop :=
  (∀ s : State,
    let s1 : State := { s with clock := s.clock.tick }
    let u := settle s (tickCounts s1)
    (u.clock.state = .unset ∨ u.clock.second % 60 ≠ 0 → secondTick s = u) ∧
    (u.clock.state ≠ .unset → u.clock.second % 60 = 0 →
      secondTick s = (matchingEntries u).foldl (fun v n => settle v (applyEntry n v)) u ∧
        (matchingEntries u).Pairwise (· < ·))) ∧
  (∀ s : State, s.tablesWf →
    let u := tickCounts s
    ((∀ c, u.cell c = { s.cell c with flashCount := (s.cell c).flashCount - 1 }) ∧
      (∀ c, (s.cell c).flashCount = 1 → (s.cell c).needsFull = false → c ∈ u.refreshQueue (c / 64)) ∧
      (∀ n, s.refreshQueue n <+: u.refreshQueue n) ∧
      (∀ n, ∀ c ∈ u.refreshQueue n, c ∈ s.refreshQueue n ∨
        (s.cell c).flashCount = 1 ∧ c / 64 = n ∧ (s.cell c).needsFull = false) ∧
      ∀ n, (s.refreshQueue n).Nodup → (u.refreshQueue n).Nodup) ∧
    (let runsOut (w : Nat) := match (s.window w).slot with
       | some h => decide (h.limit ≤ h.elapsed + 1)
       | none => false
     let out := (List.range 4).filter runsOut
     u = { s with
         cells := u.cells, queues := u.queues, lines := u.lines, ribbonA := u.ribbonA, ribbonB := u.ribbonB
         tlines := u.tlines, terms := u.terms, windows := u.windows, counters := u.counters, free := u.free
         link := { s.link with notices := u.link.notices } } ∧
       s.onlyCounted u [.rfExpired] ∧
       u.counter .rfExpired =
         (if out = [] then s.counter .rfExpired else min 4294967295 (s.counter .rfExpired + out.length)) ∧
       Noticed (out.map NoticeItem.referral) s u ∧
       ∀ n, (∀ w h, w ∈ out → (s.window w).slot = some h → termNo h.line h.addr ≠ n) →
         (u.term n).record = (s.term n).record) ∧
    ((∀ n, 8 ≤ n → u.line n = s.line n) ∧ (∀ n, 4 ≤ n → u.tline n = s.tline n) ∧
      (∀ n, 64 ≤ n → u.term n = { s.term n with record := (u.term n).record }) ∧
      ∀ w, 4 ≤ w → u.window w = s.window w) ∧
    (∀ n, n < 8 → u.line n = match (s.line n).darkTimer with
      | none => s.line n
      | some k =>
        if k ≤ 1 then { s.line n with
          darkTimer := none, state := if (s.line n).state = .lit then .dark else (s.line n).state }
        else { s.line n with darkTimer := some (k - 1) }) ∧
    (∀ id, u.ribbon id = { s.ribbon id with
      dwell := if (s.ribbon id).state = .off then 0 else min 30 ((s.ribbon id).dwell + 1)
      lateAge := min 120 ((s.ribbon id).lateAge + 1) }) ∧
    (∀ n, n < 4 →
      let l := s.tline n
      let m := { l with quietCount := min 10 (l.quietCount + 1) }
      (l.round ≠ none → u.tline n = l) ∧
      (l.round = none → (l.poll = .continuous ∨ m.quietCount < l.quietInterval ∨ ¬s.admitted n) → u.tline n = m) ∧
      (l.round = none → l.poll = .quiet → l.quietInterval ≤ m.quietCount → s.admitted n → RoundBegun m n u)) ∧
    (∀ n, n < 64 →
      let t := s.term n
      let count := min 3600 (t.lapse + 1)
      let lapses := (s.tline (n / 16)).lapseTime ≠ 0 ∧ (s.tline (n / 16)).lapseTime * 60 ≤ count
      (t.state ≠ .active → u.term n = { t with record := (u.term n).record }) ∧
      (t.state = .active → ¬lapses → u.term n = { t with record := (u.term n).record, lapse := count }) ∧
      (t.state = .active → lapses →
        u.term n = { t with record := (u.term n).record, lapse := count, state := .lapsed, idleOwed := true })) ∧
    ∀ w, w < 4 →
      ((s.window w).slot = none → u.window w = s.window w) ∧
      ∀ h, (s.window w).slot = some h →
        (h.elapsed + 1 < h.limit →
          u.window w = { s.window w with slot := some { h with elapsed := h.elapsed + 1 } }) ∧
        (h.limit ≤ h.elapsed + 1 → u.window w = { s.window w with slot := none, outcome := .expired } ∧
          .referral w ∈ u.link.notices ∧
          (u.term (termNo h.line h.addr)).record = { (s.term (termNo h.line h.addr)).record with
            state := .answered
            result := some { code := .noAnswer, position := none, index := none, conditions := none } })) ∧
  (∀ (s : State) (n : Nat),
    let e := s.schedEntry n
    let c := s.clock
    n ∈ matchingEntries s ↔ n < 16 ∧ e.enabled = true ∧ (e.hourMatch = true → c.second / 3600 = e.hour) ∧
      (e.minuteMatch = true → c.second % 3600 / 60 = e.minute) ∧
      (e.dayMatch = true → (∃ set, e.selector = .weekdays set ∧ set.getLsbD c.weekday = true) ∨
        e.selector = .date c.day)) ∧
  ∀ (s : State) (n : Nat),
    let e := s.schedEntry n
    let skipped (u : State) (reason : SkipReason) :=
      u = { s with sched := u.sched, link := { s.link with notices := u.link.notices } } ∧
        u.schedEntry n = { e with
          skip := some { second := s.clock.second, found := s.session.state, reason := reason } } ∧
        (∀ m, m ≠ n → u.schedEntry m = s.schedEntry m) ∧ Noticed [.scheduleSkip n] s u
    (e.target = s.session.state → applyEntry n s = s) ∧
    (e.target ≠ s.session.state → legalTransition s.session.state e.target = false →
      skipped (applyEntry n s) .illegal) ∧
    (legalTransition s.session.state e.target = true → e.target = .preOpen → s.walkActive = true →
      skipped (applyEntry n s) .walk) ∧
    (legalTransition s.session.state e.target = true → ¬(e.target = .preOpen ∧ s.walkActive = true) →
      applyEntry n s = makeTransition e.target s)

/-- FLASH_EXPIRY, DARK_EXPIRY, QUIET_INTERVAL_EXPIRY, TERMINAL_LAPSE, REFERRAL_EXPIRY: the object's own part of the tick
that brings its count to its limit (log entry 7). -/
def Obligations.ExpiriesOfCounts : Prop :=
  ((∀ (line : BoardLineNo) (slot : SlotNo) (s : State), s.resetAsserted = false →
     let c := cellNo line slot
     ((s.cell c).flashCount = 1 → ∃ u, exec (.flashExpiry line slot) s = .next (finish s u) ∧
       u = { s with cells := u.cells, queues := u.queues } ∧ u.cell c = { s.cell c with flashCount := 0 } ∧
       (∀ d, d ≠ c → u.cell d = s.cell d) ∧ Offered [c] s u) ∧
     ((s.cell c).flashCount ≠ 1 → exec (.flashExpiry line slot) s = .next (finish s s))) ∧
   ∀ (line : BoardLineNo) (s : State), s.resetAsserted = false →
     ((s.line line).darkTimer = some 1 → ∃ u, exec (.darkExpiry line) s = .next (finish s u) ∧
       u = { s with lines := u.lines } ∧
       u.line line = { s.line line with
         darkTimer := none, state := if (s.line line).state = .lit then .dark else (s.line line).state } ∧
       ∀ n, n ≠ (line : Nat) → u.line n = s.line n) ∧
     ((s.line line).darkTimer ≠ some 1 → exec (.darkExpiry line) s = .next (finish s s))) ∧
  (∀ (line : TermLineNo) (s : State), s.resetAsserted = false →
    let l := s.tline line
    l.round = none → l.poll = .quiet → l.quietInterval ≤ min 10 (l.quietCount + 1) →
    s.admitted line →
    ∃ u, exec (.quietIntervalExpiry line) s = .next (finish s u) ∧ u = { s with tlines := u.tlines } ∧
      RoundBegun { l with quietCount := min 10 (l.quietCount + 1) } line u ∧ s.otherLinesKept u line) ∧
  (∀ (line : TermLineNo) (addr : TermAddr) (s : State), s.resetAsserted = false →
    let n := termNo line addr
    let t := s.term n
    t.state = .active → (s.tline line).lapseTime ≠ 0 → (s.tline line).lapseTime * 60 ≤ min 3600 (t.lapse + 1) →
    ∃ u, exec (.terminalLapse line addr) s = .next (finish s u) ∧ u = { s with terms := u.terms } ∧
      u.term n = { t with lapse := min 3600 (t.lapse + 1), state := .lapsed, idleOwed := true } ∧
      ∀ m, m ≠ n → u.term m = s.term m) ∧
  ∀ (w : WindowNo) (s : State) (h : HeldSlot), s.resetAsserted = false → (s.window w).slot = some h →
    h.limit ≤ h.elapsed + 1 →
    let n := termNo h.line h.addr
    ∃ u, exec (.referralExpiry w) s = .next (finish s u) ∧
      u = { s with
        windows := u.windows, terms := u.terms, counters := u.counters
        link := { s.link with notices := u.link.notices } } ∧
      u.window w = { s.window w with slot := none, outcome := .expired } ∧
      (∀ v, v ≠ (w : Nat) → u.window v = s.window v) ∧
      u.term n = { s.term n with record := { (s.term n).record with
        state := .answered
        result := some { code := .noAnswer, position := none, index := none, conditions := none } } } ∧
      (∀ m, m ≠ n → u.term m = s.term m) ∧ Noticed [.referral w] s u ∧
      u.counter .rfExpired = min 4294967295 (s.counter .rfExpired + 1) ∧ s.onlyCounted u [.rfExpired]

/-! ### Configurations -/

/-- FORMAT_SET, BOARD_SET, WINDOW_SET, TLINE_SET: an accepted one replaces its items and nothing else; values out of range
are refused. A terminal line that leaves QUIET for CONTINUOUS with its round idle and a terminal admitted begins a
round. -/
def Obligations.PlainConfigurations : Prop :=
  ((∀ (r : LinkFrame) (rest : List LinkFrame) (s : State) (g : Nat), s.ready .formatSet r rest →
     read1 r.body = some g →
     exec .formatSet s = .next (finish s
       (if 1 ≤ g ∧ g ≤ 8 then { s with fu := { s.fu with runLength := g }, link := s.link.replied r rest [] }
        else s.refusedHead r rest .range))) ∧
   (∀ (r : LinkFrame) (rest : List LinkFrame) (s : State) (n : Nat), s.ready .boardSet r rest → read1 r.body = some n →
     exec .boardSet s = .next (finish s
       (if n ≤ 15 then { s with flashPeriod := n, link := s.link.replied r rest [] }
        else s.refusedHead r rest .range))) ∧
   ∀ (r : LinkFrame) (rest : List LinkFrame) (s : State) (b : WindowBody), s.ready .windowSet r rest →
     readWindowSet r.body = some b →
     ((3 < b.window ∨ 10 < b.k ∨ 1023 < b.base ∨ b.base % 2 ^ b.k ≠ 0 ∨ 7 < b.kinds.toNat ∨
         b.limit < 5 ∨ 120 < b.limit) →
       exec .windowSet s = .next (finish s (s.refusedHead r rest .range))) ∧
     (b.window ≤ 3 → b.k ≤ 10 → b.base ≤ 1023 → b.base % 2 ^ b.k = 0 → b.kinds.toNat < 8 → 5 ≤ b.limit →
       b.limit ≤ 120 →
       ∃ u, exec .windowSet s = .next (finish s u) ∧
         u = { s with windows := u.windows, link := s.link.replied r rest [] } ∧
         u.window b.window = { s.window b.window with
           enabled := b.enabled, k := b.k, base := b.base, kinds := b.kinds, limit := b.limit } ∧
         ∀ w, w ≠ b.window → u.window w = s.window w)) ∧
  ∀ (r : LinkFrame) (rest : List LinkFrame) (s : State) (b : TLineBody), s.ready .tlineSet r rest →
    readTLineSet r.body = some b →
    ((3 < b.line ∨ 1 < b.poll ∨ b.quietInterval < 1 ∨ 10 < b.quietInterval ∨ b.slotLimit < 20 ∨ 200 < b.slotLimit ∨
        b.retryLimit < 1 ∨ 15 < b.retryLimit ∨ 60 < b.lapseTime) →
      exec .tlineSet s = .next (finish s (s.refusedHead r rest .range))) ∧
    ∀ p, pollModeOf b.poll = some p → b.line ≤ 3 → 1 ≤ b.quietInterval → b.quietInterval ≤ 10 → 20 ≤ b.slotLimit →
      b.slotLimit ≤ 200 → 1 ≤ b.retryLimit → b.retryLimit ≤ 15 → b.lapseTime ≤ 60 →
      let l := { s.tline b.line with
        poll := p, quietInterval := b.quietInterval, slotLimit := b.slotLimit, retryLimit := b.retryLimit
        lapseTime := b.lapseTime }
      let begins := (s.tline b.line).poll = .quiet ∧ p = .continuous ∧ l.round = none ∧ s.admitted b.line
      ∃ u, exec .tlineSet s = .next (finish s u) ∧
        u = { s with tlines := u.tlines, link := s.link.replied r rest [] } ∧
        (begins → RoundBegun l b.line u) ∧ (¬begins → u.tline b.line = l) ∧ s.otherLinesKept u b.line

/-! ### The Format Unit -/

/-- Who requests and who is URGENT, and the decision at a job completion: urgency, the run, then round robin after the
pointer, else IDLE. -/
def Obligations.ArbiterGrantsInOrder : Prop :=
  (∀ s : State,
     (∀ n, n < 8 → (requests n s = true ↔ (s.line n).state = .lit ∧ s.refreshQueue n ≠ [])) ∧
     (requests 8 s = true ↔
       (s.ribbon .a).state = .running ∧ (s.ribbon .a).queue ≠ [] ∧ (s.ribbon .a).fifo.length ≤ 22) ∧
     (requests 9 s = true ↔
       (s.ribbon .b).state = .running ∧ (s.ribbon .b).queue ≠ [] ∧ (s.ribbon .b).fifo.length ≤ 22) ∧
     (∀ n, n < 4 → (requests (10 + n) s = true ↔ ∃ a, a < 16 ∧ (s.term (termNo n a)).ready)) ∧
     (urgent 8 s = true ↔ requests 8 s = true ∧ (s.ribbon .a).fifo.length < 16) ∧
     (urgent 9 s = true ↔ requests 9 s = true ∧ (s.ribbon .b).fifo.length < 16) ∧
     ∀ p, p ≠ 8 → p ≠ 9 → urgent p s = false) ∧
  ∀ s : State, s.fu.pointer < 14 →
    let granted (p : Nat) := if s.fu.holder = some p ∧ s.fu.runCount < s.fu.runLength then
        startJob p { s with fu := { s.fu with runCount := s.fu.runCount + 1 } }
      else startJob p (({ s with fu := { s.fu with holder := some p, runCount := 1 } } : State).count .fuUrgentGrants)
    (urgent 8 s = true → arbitrate s = granted 8) ∧
    (urgent 8 s = false → urgent 9 s = true → arbitrate s = granted 9) ∧
    (urgent 8 s = false → urgent 9 s = false →
      (∀ h, s.fu.holder = some h → requests h s = true → s.fu.runCount < s.fu.runLength →
        arbitrate s = startJob h { s with fu := { s.fu with runCount := s.fu.runCount + 1 } }) ∧
      ((∀ h, s.fu.holder = some h → requests h s = true → s.fu.runLength ≤ s.fu.runCount) →
        (∀ p, p < 14 → requests p s = true →
          (∀ q, q < 14 → requests q s = true → (p + 13 - s.fu.pointer) % 14 ≤ (q + 13 - s.fu.pointer) % 14) →
          arbitrate s = startJob p { s with fu := { s.fu with pointer := p, holder := some p, runCount := 1 } }) ∧
        ((∀ p, p < 14 → requests p s = false) →
          arbitrate s = { s with fu := { s.fu with holder := none, runCount := 0 } })))

/-- The start of a BOARD job: the head cell leaves its queue, its needs_full flag makes the job full and is cleared, and its
trade mark is taken. A stale entry it is bound to is rolled after that, so the roll may queue the cell again (log entry
26). The text is that of its hold, spaces, or its field with the HUE and FLASH of the field; a flash starts at a trade that
changes the characters of a LAST or CHANGE cell. Each coarse form and each overflow is counted; that a CHANGE cell of W 1
counts a coarse form beside its overflow, and that the K and M forms of a VOLUME count none, is the model's reading (log
entries 24 and 39). -/
def Obligations.BoardJobTakesTheHeadCell : Prop :=
  ∀ (line c : Nat) (rest : List Nat) (s : State), s.refreshQueue line = c :: rest →
    let r := s.cell c
    let taken := (s.setQueue line rest).setCell c { r with needsFull := false }
    let u := startBoardJob line s
    ∃ (chars : List BoardChar) (text : BoardText) (count coarsened overflow : Nat),
      u = { s with
        fu := { s.fu with job := some (.board line (c % 64) text r.needsFull) }
        cells := u.cells, queues := u.queues, entries := u.entries, terms := u.terms, counters := u.counters } ∧
      u.cell c = { r with needsFull := false, tradeMark := false, prevChars := some chars, flashCount := count } ∧
      (∀ d, d ≠ c → u.cell d = s.cell d) ∧ text.map BoardPos.char = chars ∧
      (u.counter .bdCoarsened = min 4294967295 (s.counter .bdCoarsened + coarsened) ∧
        u.counter .bdOverflow = min 4294967295 (s.counter .bdOverflow + overflow) ∧
        s.onlyCounted u [.bdCoarsened, .bdOverflow]) ∧
      ((∀ i, r.binding = some i → (s.entry i).stale s.dayNumber = false) →
        u.queues = taken.queues ∧ u.entries = s.entries ∧ u.terms = s.terms) ∧
      (∀ i, r.binding = some i → (s.entry i).stale s.dayNumber = true →
        u.entry i = s.current i ∧ (∀ j, j ≠ i → u.entry j = s.entry j) ∧ Offered (s.entry i).cells taken u ∧
        RowsMarked i s u) ∧
      (∀ h, r.hold = some h → chars = h.text ++ List.replicate (r.width - h.text.length) (.plain ' ') ∧
        (∀ p ∈ text, p.hue = h.hue ∧ p.flash = h.flash) ∧ (coarsened, overflow, count) = (0, 0, r.flashCount)) ∧
      (r.hold = none → (r.binding = none ∨ ∃ i, r.binding = some i ∧ (s.entry i).status = .free) →
        text = List.replicate r.width { char := .plain ' ', hue := .white, flash := false } ∧
        (coarsened, overflow, count) = (0, 0, r.flashCount)) ∧
      ∀ i, r.hold = none → r.binding = some i → (s.entry i).status ≠ .free →
        let e := s.current i
        let flashes := r.field = .last ∨ r.field = .change
        let starts := flashes ∧ r.tradeMark = true ∧ 0 < s.flashPeriod ∧ ∃ p, r.prevChars = some p ∧ p ≠ chars
        FieldShown r.field r.width e { chars := chars, coarsened := coarsened, overflow := overflow } ∧
          (starts → count = s.flashPeriod) ∧ (¬starts → count = r.flashCount) ∧
          ∀ p ∈ text, p.hue = hueShown r.field e ∧ (p.flash = true ↔ flashes ∧ 0 < count)

/-- BOARD_JOB_COMPLETION: the text is staged, unless it equals what the slot holds (and the job is not a full one), the
slot is not enabled, or its module is absent; the job leaves the unit and a decision follows. -/
def Obligations.BoardJobDelivers : Prop :=
  ∀ (s : State) (line slot : Nat) (t : BoardText) (full : Bool), s.resetAsserted = false →
    s.fu.job = some (.board line slot t full) →
    let r := s.slotState (cellNo line slot)
    let same := full = false ∧ (r.staging = some t ∨ r.staging = none ∧ r.shown = some t)
    ∃ u, exec .boardJobCompletion s = .next (finish s (arbitrate u)) ∧
      u = { s with fu := { s.fu with job := none }, slots := u.slots, counters := u.counters } ∧
      u.counter .bdFormats = min 4294967295 (s.counter .bdFormats + 1) ∧
      s.onlyCounted u [.bdFormats, .bdUnchanged] ∧
      (same → u.slots = s.slots ∧ u.counter .bdUnchanged = min 4294967295 (s.counter .bdUnchanged + 1)) ∧
      (¬same → u.counter .bdUnchanged = s.counter .bdUnchanged ∧
        (slot ∉ (s.line line).enabled ∨ r.presence = .absent → u.slots = s.slots) ∧
        (slot ∈ (s.line line).enabled → r.presence ≠ .absent →
          u.slotState (cellNo line slot) = { r with staging := some t } ∧
          ∀ c, c ≠ cellNo line slot → u.slotState c = s.slotState c))

/-- The start of a RIBBON job: the head-skip of a ribbon that is in SAMPLE takes older trades of an instrument off the head
of the queue, each counted; the next record is the job's. The mode is then evaluated (`ModeEvaluation`), and the LATE text
and the print are formed under the mode now in force, as the ribbon stands. A measured lag below a minute makes the LATE
figure none. -/
def Obligations.RibbonJobTakesARecord : Prop :=
  ∀ (id other : RibbonId) (s : State) (before rest : List PrintRecord) (rec : PrintRecord), other ≠ id →
    let x := s.ribbon id
    x.queue = before ++ rec :: rest →
    (x.mode ≠ .sample → before = []) →
    (x.mode = .sample → ¬skipped rec rest ∧
      ∀ a p b, before = a ++ p :: b → skipped p (b ++ rec :: rest)) →
    let taken := (s.setRibbon id { x with queue := rest }).advance .rbSkipped before.length
    let v := evalMode id taken
    let y := v.ribbon id
    let lag := (s.clock.second + 86400 - rec.arrival) % 86400
    let late := if lag < 60 then none
      else if x.lateFigure ≠ some (lag / 60) ∨ x.lateAge = 120 then some (lag / 60) else none
    let lateText := match late with | some n => ['L', 'A', 'T', 'E', ' '] ++ digits n ++ [' ', ' '] | none => []
    let index := match rec.body with | .trade p => some p.index | _ => none
    let anchor := if (y.mode = .digits ∨ y.mode = .sample) ∧ (∀ i, index = some i → i ∉ y.anchors) then index else none
    let u := startRibbonJob id s
    u = { v with fu := u.fu, ribbonA := u.ribbonA, ribbonB := u.ribbonB } ∧
      u.ribbon id = { y with lateFigure := if lag < 60 then none else x.lateFigure } ∧
      u.ribbon other = s.ribbon other ∧
      u.fu = { s.fu with job := some (.ribbon id late lateText (printShown y late.isSome rec.body) anchor index false) }

/-- RIBBON_JOB_COMPLETION: the texts join the FIFO and the print's facts are kept, unless the ribbon has entered OFF
during the job; a ribbon with nothing left in AFTER or CLOSED stops, and keeps the character on its output until that
period ends (the model's reading, log entry 16). The stop test after a discarded job, and that an anchor print sets its
bit whatever the mode then is, are the model's reading (log entries 28 and 43). -/
def Obligations.RibbonJobDelivers : Prop :=
  ∀ (s : State) (id other : RibbonId) (late : Option Nat) (lt t : Text) (anchor pr : Option Nat) (off : Bool),
    s.resetAsserted = false → s.fu.job = some (.ribbon id late lt t anchor pr off) → other ≠ id →
    let r := s.ribbon id
    let w := if off then r else { r with
      fifo := r.fifo ++ (lt ++ t)
      lateFigure := if late = none then r.lateFigure else late
      lateAge := if late = none then r.lateAge else 0
      preceding := pr
      anchors := match anchor with | some i => insertNo i r.anchors | none => r.anchors }
    ∃ u, exec .ribbonJobCompletion s = .next (finish s (arbitrate u)) ∧
      u = { s with
        fu := { s.fu with job := none }, ribbonA := u.ribbonA, ribbonB := u.ribbonB, counters := u.counters } ∧
      u.ribbon id = (if w.state = .running ∧ closedOrAfter s.session.state = true ∧ w.queue = [] ∧ w.fifo = [] then
        { w with state := .stopped, period := none } else w) ∧
      u.ribbon other = s.ribbon other ∧ s.onlyCounted u [printsCounter id] ∧
      u.counter (printsCounter id) =
        if off then s.counter (printsCounter id) else min 4294967295 (s.counter (printsCounter id) + 1)

/-- The start of a TERMINAL job: it serves the first ready terminal after the line's compose pointer, which moves there,
and composes the first of the six blocks that the terminal has: REPLY, BELL, PAGE, STATUS, IDLE, ROWS. First what the
block takes leaves the terminal, which then stands as `x`. Then the entries that the block reads, those at `is`, are read:
each is left as `current` gives it, a stale one rolled, its cells offered and the rows that show it pending, also those
the block takes (log entry 26); no other entry, queue or terminal changes. A row is that of TABLE 1-7, 63 characters while
the entry's figures are in range. That the reply to a request of no kind of TABLE 9-2 carries no kind is the model's
choice (log entry 44). -/
def Obligations.TerminalJobComposesABlock : Prop :=
  (∀ e : Entry, e.figuresInRange → (watchRow e).length = 63) ∧
  ∀ (line a : Nat) (s : State), line < 4 → a < 16 → (s.tline line).compose < 16 →
    (s.term (termNo line a)).ready →
    (∀ b, b < 16 → (s.term (termNo line b)).ready →
      (a + 15 - (s.tline line).compose) % 16 ≤ (b + 15 - (s.tline line).compose) % 16) →
    let n := termNo line a
    let t := s.term n
    let u := startTerminalJob line s
    let rowShown (o : Option Nat) : Text := match o with
      | some i => watchRow (s.current i)
      | none => List.replicate 63 ' '
    let bell (k : Nat) := k < 4 ∧ (t.alert k).state = .fired ∧ (t.alert k).marked = false
    let onRow (i row : Nat) := t.watchList[12 * t.page + row]? = some i
    ∃ (b : Block) (is : List Nat) (x : Terminal) (v : State),
      EntriesRead is ((s.setTLine line { s.tline line with compose := a }).setTerm n x) v ∧
      u = { v with fu := { s.fu with job := some (.terminal line a b .kept) } } ∧
      u.tline line = { s.tline line with compose := a } ∧ s.otherLinesKept u line ∧
      (∀ i ∈ is, u.entry i = s.current i) ∧
      (t.record.state = .answered →
        x = { t with record := { t.record with state := .sent } } ∧
        (∀ i, i ∈ is ↔ ∃ q r, t.record.request = some q ∧ t.record.result = some r ∧ q.kind = some .quoteAsk ∧
          r.code = .accepted ∧ r.index = some i) ∧
        ∀ q r, t.record.request = some q → t.record.result = some r →
          let blank := q.kind = some .page ∨ q.kind = some .resync ∨ q.kind = some .alertClear
          let quoted (i : Nat) := q.kind = some .quoteAsk ∧ r.code = .accepted ∧ r.index = some i
          let same (i : Nat) := (s.entry i).status ≠ .free ∧ q.symbol = some (s.entry i).symbol
          ∃ code detail, b = .reply
              { kind := q.kind, symbol := if blank then none else q.symbol, slot := q.slot, page := q.page, code := code
                detail := detail } ∧
            (∀ i, quoted i → same i → code = .accepted ∧ detail = .row (rowShown (some i))) ∧
            (∀ i, quoted i → ¬same i → code = .unknown ∧ detail = .none) ∧
            ((∀ i, ¬quoted i) → code = r.code) ∧
            (∀ p, q.kind = some .watchAdd → r.code = .accepted → r.position = some p → detail = .position p) ∧
            (∀ c, q.kind = some .alertSet → r.code = .accepted → r.conditions = some c → detail = .conditions c) ∧
            (r.code ≠ .accepted → detail = .none)) ∧
      (t.record.state ≠ .answered → ∀ k, bell k → (∀ j, j < k → ¬bell j) →
        x = { t with alerts := x.alerts } ∧ x.alert k = { t.alert k with marked := true } ∧
        (∀ j, j ≠ k → x.alert j = t.alert j) ∧ (∀ i, i ∈ is ↔ (t.alert k).instrument = some i) ∧
        ∀ i f, (t.alert k).instrument = some i → (t.alert k).fired = some f → b = .bell
          { slot := k, symbol := (s.entry i).symbol, price := priceText false f.price, size := digits f.size
            hours := f.second / 3600, minutes := f.second % 3600 / 60, seconds := f.second % 60
            conditions := (t.alert k).conditions }) ∧
      (t.record.state ≠ .answered → (∀ k, ¬bell k) →
        (t.state = .active → t.fullPage = true →
          x = { t with fullPage := false, statusOwed := false, rows := [] } ∧
          (∀ i, i ∈ is ↔ ∃ r, r < 12 ∧ onRow i r) ∧
          b = .page t.page ((List.range 12).map (fun r => rowShown t.watchList[12 * t.page + r]?)) s.session.state) ∧
        (¬(t.state = .active ∧ t.fullPage = true) →
          (t.statusOwed = true → x = { t with statusOwed := false } ∧ is = [] ∧
            b = .status s.session.state s.clock.second) ∧
          (t.statusOwed = false → t.state = .lapsed → x = { t with idleOwed := false } ∧ is = [] ∧ b = .idle) ∧
          (t.statusOwed = false → t.state = .active →
            x = { t with rows := t.rows.drop 4 } ∧ (∀ i, i ∈ is ↔ ∃ r ∈ t.rows.take 4, onRow i r) ∧
            b = .rows ((t.rows.take 4).map (fun r => (r, rowShown t.watchList[12 * t.page + r]?))))))

/-- TERMINAL_JOB_COMPLETION: the block becomes the terminal's out-block and, on an idle QUIET line, begins a round; for
a terminal made SILENT since, the block is discarded as its kind requires; for one retired since, nothing is delivered. -/
def Obligations.TerminalJobDelivers : Prop :=
  ∀ (s : State) (line addr : Nat) (b : Block) (fate : JobFate), s.resetAsserted = false →
    s.fu.job = some (.terminal line addr b fate) →
    let n := termNo line addr
    let t := s.term n
    let begins := (s.tline line).poll = .quiet ∧ (s.tline line).round = none ∧ s.admitted line
    ∃ u, exec .terminalJobCompletion s = .next (finish s (arbitrate u)) ∧
      u = { s with fu := { s.fu with job := none }, terms := u.terms, tlines := u.tlines } ∧
      (∀ m, m ≠ n → u.term m = s.term m) ∧
      (fate = .kept → u.term n = { t with outBlock := some b } ∧ s.otherLinesKept u line ∧
        (begins → RoundBegun (s.tline line) line u) ∧ (¬begins → u.tlines = s.tlines)) ∧
      (fate = .silenced → u.tlines = s.tlines ∧
        match b with
        | .reply _ => u.term n =
            if t.record.state = .sent then { t with record := { t.record with state := .answered } } else t
        | .bell x => u.term n = { t with alerts := (u.term n).alerts } ∧
            (u.term n).alert x.slot = { t.alert x.slot with marked := false } ∧
            ∀ k, k ≠ x.slot → (u.term n).alert k = t.alert k
        | _ => u.term n = t) ∧
      (fate = .retired → u.tlines = s.tlines ∧ u.term n = t)

/-! ### Cells -/

/-- A cell of field VOLUME shows the day volume in the first of its forms that fits: the digits, the K form, the M form,
else dashes and an overflow. The digits are the decimal numeral without a leading 0, of 1 to 8 characters; the K form
has 2 to 6 characters, the M form 4 or 5. -/
def Obligations.BoardVolumeText : Prop :=
  ∀ (w : Nat) (e : Entry), e.dayVolume ≤ 99999999 →
    let v := e.dayVolume
    let f := fieldForm .volume w e
    let value (t : Text) := t.foldl (fun n c => n * 10 + (c.toNat - 48)) 0
    let full := digits v
    let k := digits (v / 1000) ++ ['K']
    let m := digits (v / 100000 / 10) ++ '.' :: digits (v / 100000 % 10) ++ ['M']
    let shows (t : Text) := f.chars = List.replicate (w - t.length) (.plain ' ') ++ t.map BoardChar.plain ∧ f.overflow = 0
    (∀ n, n ≤ 99999999 → value (digits n) = n ∧ (∀ c ∈ digits n, '0' ≤ c ∧ c ≤ '9') ∧
      (digits n).head? ≠ some '0' ∨ n = 0 ∧ digits n = ['0']) ∧
    (1 ≤ full.length ∧ full.length ≤ 8) ∧
    (1000 ≤ v → 2 ≤ k.length ∧ k.length ≤ 6) ∧
    (100000 ≤ v → 4 ≤ m.length ∧ m.length ≤ 5) ∧
    (full.length ≤ w → shows full) ∧
    (w < full.length → 1000 ≤ v → k.length ≤ w → shows k) ∧
    (w < full.length → (v < 1000 ∨ w < k.length) → 100000 ≤ v → m.length ≤ w → shows m) ∧
    (w < full.length → (v < 1000 ∨ w < k.length) → (v < 100000 ∨ w < m.length) →
      f.chars = List.replicate w (.plain '-') ∧ f.overflow = 1)

/-- BIND, UNBIND, HOLD, RELEASE. Values out of their ranges are refused. An accepted BIND ties the cell to the index with its
field and width, puts it at the tail of the index's list unless it was bound to that index, takes it out of its old list, and
offers it; a list of four is NOROOM, a longer hold text is STATE. What an accepted UNBIND, HOLD or RELEASE makes of its cell,
which is then offered. -/
def Obligations.CellRequestsActOnTheirCell : Prop :=
  (∀ (r : LinkFrame) (rest : List LinkFrame) (s : State), s.resetAsserted = false →
    (∀ b, s.ready .bind r rest → readBind r.body = some b →
      (7 < b.line ∨ 63 < b.slot ∨ 1023 < b.index ∨ 7 < b.field ∨ b.width < 1 ∨ 10 < b.width) →
      exec .bind s = .next (finish s (s.refusedHead r rest .range))) ∧
    (∀ line slot, read2 r.body = some (line, slot) → (7 < line ∨ 63 < slot) →
      (s.ready .unbind r rest → exec .unbind s = .next (finish s (s.refusedHead r rest .range))) ∧
      (s.ready .release r rest → exec .release s = .next (finish s (s.refusedHead r rest .range)))) ∧
    ∀ b, s.ready .hold r rest → readHold r.body = some b →
      (7 < b.line ∨ 63 < b.slot ∨ 2 < b.hue ∨ (∃ x ∈ b.text, boardCharOf x = none)) →
      exec .hold s = .next (finish s (s.refusedHead r rest .range))) ∧
  (∀ (r : LinkFrame) (rest : List LinkFrame) (s : State) (b : BindBody) (f : Field), s.ready .bind r rest →
    readBind r.body = some b → b.line ≤ 7 → b.slot ≤ 63 → b.index ≤ 1023 → fieldOf b.field = some f → 1 ≤ b.width →
    b.width ≤ 10 →
    let c := cellNo b.line b.slot
    let i := b.index
    ((∃ h, (s.cell c).hold = some h ∧ b.width < h.text.length) →
      exec .bind s = .next (finish s (s.refusedHead r rest .state))) ∧
    ((∀ h, (s.cell c).hold = some h → h.text.length ≤ b.width) → (s.cell c).binding ≠ some i →
      4 ≤ (s.entry i).cells.length → exec .bind s = .next (finish s (s.refusedHead r rest .noroom))) ∧
    ((∀ h, (s.cell c).hold = some h → h.text.length ≤ b.width) →
      ((s.cell c).binding = some i ∨ (s.entry i).cells.length < 4) →
      ∃ u, exec .bind s = .next (finish s u) ∧
        u = { s with cells := u.cells, entries := u.entries, queues := u.queues, link := s.link.replied r rest [] } ∧
        u.cell c = { s.cell c with
          binding := some i, field := f, width := b.width, flashCount := 0, tradeMark := false, prevChars := none } ∧
        (∀ d, d ≠ c → u.cell d = s.cell d) ∧ Offered [c] s u ∧
        ((s.cell c).binding = some i → u.entries = s.entries) ∧
        ((s.cell c).binding ≠ some i → u.entry i = { s.entry i with cells := (s.entry i).cells ++ [c] }) ∧
        (∀ j, (s.cell c).binding = some j → j ≠ i →
          u.entry j = { s.entry j with cells := (s.entry j).cells.filter (fun d => decide (d ≠ c)) }) ∧
        ∀ j, j ≠ i → (s.cell c).binding ≠ some j → u.entry j = s.entry j)) ∧
  (∀ (r : LinkFrame) (rest : List LinkFrame) (s : State) (line slot : Nat), s.ready .unbind r rest →
    read2 r.body = some (line, slot) → line ≤ 7 → slot ≤ 63 →
    let c := cellNo line slot
    ((s.cell c).binding = none → exec .unbind s = .next (finish s (s.refusedHead r rest .state))) ∧
    ∀ i, (s.cell c).binding = some i →
      ∃ u, exec .unbind s = .next (finish s u) ∧
        u = { s with cells := u.cells, entries := u.entries, queues := u.queues, link := s.link.replied r rest [] } ∧
        u.cell c = { s.cell c with binding := none, flashCount := 0, tradeMark := false, prevChars := none } ∧
        (∀ d, d ≠ c → u.cell d = s.cell d) ∧ Offered [c] s u ∧
        u.entry i = { s.entry i with cells := (s.entry i).cells.filter (fun d => decide (d ≠ c)) } ∧
        ∀ j, j ≠ i → u.entry j = s.entry j) ∧
  (∀ (r : LinkFrame) (rest : List LinkFrame) (s : State) (b : HoldBody) (cs : List BoardChar) (hue : Hue),
    s.ready .hold r rest → readHold r.body = some b → b.line ≤ 7 → b.slot ≤ 63 → holdText b.text = some cs →
    hueOfCode b.hue = some hue →
    let c := cellNo b.line b.slot
    ((cs.length = 0 ∨ 10 < cs.length ∨ (s.cell c).width < cs.length) →
      exec .hold s = .next (finish s (s.refusedHead r rest .range))) ∧
    (1 ≤ cs.length → cs.length ≤ 10 → cs.length ≤ (s.cell c).width →
      ∃ u, exec .hold s = .next (finish s u) ∧
        u = { s with cells := u.cells, queues := u.queues, link := s.link.replied r rest [] } ∧
        u.cell c = { s.cell c with hold := some { text := cs, hue := hue, flash := b.flash }, flashCount := 0 } ∧
        (∀ d, d ≠ c → u.cell d = s.cell d) ∧ Offered [c] s u)) ∧
  ∀ (r : LinkFrame) (rest : List LinkFrame) (s : State) (line slot : Nat), s.ready .release r rest →
    read2 r.body = some (line, slot) → line ≤ 7 → slot ≤ 63 →
    let c := cellNo line slot
    ((s.cell c).hold = none → exec .release s = .next (finish s (s.refusedHead r rest .state))) ∧
    ((s.cell c).hold ≠ none →
      ∃ u, exec .release s = .next (finish s u) ∧
        u = { s with cells := u.cells, queues := u.queues, link := s.link.replied r rest [] } ∧
        u.cell c = { s.cell c with hold := none } ∧ (∀ d, d ≠ c → u.cell d = s.cell d) ∧ Offered [c] s u)

/-! ### Board lines -/

/-- LINE_SET: values out of their ranges are refused. An accepted LINE-SET replaces the configuration, settles the slots
it affects and applies its target; LIT for a DARK line is STATE. The dark timer stops at a delay of 0, at DARK and at an
entry to OFF. A frame in flight stays and stops applying to the slots settled (log entry 19); at an entry to OFF it is the
one that settles the slots at its end. A line that leaves OFF with no frame in flight begins one. The scrub pointer moves
on when its slot is removed. The needs_full flags of the cells whose slots are settled are cleared (R104; that it is at
this moment is the model's reading, log entry 42). LINE_WAKE: a DARK line becomes LIT and its bound and held cells, in
ascending slot order, are queued; the dark timer starts afresh in a session that is AFTER or CLOSED when the delay is not
0; an OFF line is STATE. -/
def Obligations.LineSetAndLineWake : Prop :=
  (∀ (r : LinkFrame) (rest : List LinkFrame) (s : State) (b : LineBody), s.ready .lineSet r rest →
     readLineSet r.body = some b →
     (7 < b.line ∨ b.size < 8 ∨ 64 < b.size ∨ 15 < b.offset ∨ (b.rate ≠ 5 ∧ b.rate ≠ 10 ∧ b.rate ≠ 20) ∨
       (∃ k ∈ b.enabled, b.size ≤ k) ∨ 3 < b.target) →
     exec .lineSet s = .next (finish s (s.refusedHead r rest .range))) ∧
  (∀ (n : Nat) (s : State), (liveCells n s).Pairwise (· < ·) ∧
    ∀ c, c ∈ liveCells n s ↔ c / 64 = n ∧ ((s.cell c).binding ≠ none ∨ (s.cell c).hold ≠ none)) ∧
  (∀ (r : LinkFrame) (rest : List LinkFrame) (s : State) (b : LineBody) (t : LineTarget), s.ready .lineSet r rest →
     readLineSet r.body = some b → b.line ≤ 7 → 8 ≤ b.size → b.size ≤ 64 → b.offset ≤ 15 →
     (b.rate = 5 ∨ b.rate = 10 ∨ b.rate = 20) → b.darkDelay ≤ 255 → (∀ k ∈ b.enabled, k < b.size) →
     lineTargetOf b.target = some t →
     let l := s.line b.line
     let settled (k : Nat) := b.offset ≠ l.offset ∨ k ∈ l.enabled ∧ k ∉ b.enabled
     let entersOff := t = .off ∧ l.state ≠ .off
     let begins := l.state = .off ∧ l.frame = none ∧ (t = .lit ∨ t = .dark)
     (t = .lit → l.state = .dark → exec .lineSet s = .next (finish s (s.refusedHead r rest .state))) ∧
     (¬(t = .lit ∧ l.state = .dark) →
       ∃ u, exec .lineSet s = .next (finish s u) ∧
         u = { s with lines := u.lines, slots := u.slots, cells := u.cells, link := s.link.replied r rest [] } ∧
         (∀ n, n ≠ b.line → u.line n = s.line n) ∧
         ((u.line b.line).size = b.size ∧ (u.line b.line).offset = b.offset ∧ (u.line b.line).enabled = b.enabled ∧
           (u.line b.line).rate = b.rate ∧ (u.line b.line).darkDelay = b.darkDelay) ∧
         (u.line b.line).state = (match t with | .off => .off | .lit => .lit | .dark => .dark | .unchanged => l.state) ∧
         (u.line b.line).darkTimer = (if b.darkDelay = 0 ∨ t = .dark ∨ entersOff then none else l.darkTimer) ∧
         (∀ f, l.frame = some f → ∃ g, (u.line b.line).frame = some g ∧
           g = { f with applies := g.applies, settles := g.settles } ∧
           (∀ k, k < 64 → (k ∈ g.applies ↔ k ∈ f.applies ∧ ¬settled k)) ∧
           (g.settles = true ↔ f.settles = true ∨ entersOff)) ∧
         (begins → ∃ f, (u.line b.line).frame = some f ∧ FrameBegun (u.line b.line) f) ∧
         (l.frame = none → ¬begins → (u.line b.line).frame = none) ∧
         (∃ q, (∀ p, l.scrub = some p → p ∈ b.enabled → q = some p) ∧
           (∀ p, l.scrub = some p → p ∉ b.enabled → ScrubNext b.enabled p q) ∧ (l.scrub = none → q = b.enabled.head?) ∧
           (begins ∧ t = .lit → (q = none → (u.line b.line).scrub = none) ∧
             ∀ p, q = some p → ScrubNext b.enabled p (u.line b.line).scrub) ∧
           (¬(begins ∧ t = .lit) → (u.line b.line).scrub = q)) ∧
         (∀ k, k < 64 → u.slotState (cellNo b.line k) =
           let x := s.slotState (cellNo b.line k)
           if settled k ∨ entersOff ∧ l.frame = none then
             { staging := none, shown := none, presence := .unknown, changed := x.changed }
           else x) ∧
         (∀ k, k < 64 → u.cell (cellNo b.line k) =
           let x := s.cell (cellNo b.line k)
           if settled k ∨ entersOff ∧ l.frame = none then { x with needsFull := false } else x) ∧
         ((∀ k ∈ l.enabled, k < 64) → ∀ c, (∀ k, k < 64 → c ≠ cellNo b.line k) →
           u.slotState c = s.slotState c ∧ u.cell c = s.cell c))) ∧
  ∀ (r : LinkFrame) (rest : List LinkFrame) (s : State) (n : Nat), s.ready .lineWake r rest → read1 r.body = some n →
    (7 < n → exec .lineWake s = .next (finish s (s.refusedHead r rest .range))) ∧
    (n ≤ 7 → (s.line n).state = .off → exec .lineWake s = .next (finish s (s.refusedHead r rest .state))) ∧
    (n ≤ 7 → (s.line n).state ≠ .off →
      ∃ u, exec .lineWake s = .next (finish s u) ∧
        u = { s with lines := u.lines, queues := u.queues, link := s.link.replied r rest [] } ∧
        u.line n = { s.line n with
          state := .lit
          darkTimer := if closedOrAfter s.session.state = true ∧ (s.line n).darkDelay ≠ 0 then
              some ((s.line n).darkDelay * 60)
            else if (s.line n).state = .dark then none else (s.line n).darkTimer } ∧
        (∀ m, m ≠ n → u.line m = s.line m) ∧ ((s.line n).state = .lit → u.queues = s.queues) ∧
        ((s.line n).state = .dark → Forced (liveCells n s) s u))

/-- FRAME_ITEM_SEND: the next item of the send list goes out, and a module that took it shows what its command says (the
display of a module is the model's record of what stands outside the part, log entry 18). And the command an enabled
slot is given at a frame start, by the first of the four cases, and where the scrub pointer goes then: on a LIT line to the
next enabled slot above it, else to the lowest. -/
def Obligations.FrameSendsItsItems : Prop :=
  (∀ (line : BoardLineNo) (taken : Bool) (s : State) (f : Frame) (it : FrameItem), s.resetAsserted = false →
     (s.line line).frame = some f → f.items[f.sent]? = some it →
     let a := f.offset + it.slot
     ∃ u, exec (.frameItemSend line taken) s = .next (finish s u) ∧
       u = { s with lines := u.lines, displays := u.displays } ∧
       u.line line = { s.line line with frame := some { f with sent := f.sent + 1 } } ∧
       (∀ n, n ≠ (line : Nat) → u.line n = s.line n) ∧
       u.display line a = (if taken then
           match it.command with
           | .write t => .positions t
           | .rewrite t => .positions t
           | .blank => .spaces
           | .sense => s.display line a
         else s.display line a) ∧
       ∀ n b, 79 * n + b ≠ 79 * line + a → u.display n b = s.display n b) ∧
  ∀ (line : Nat) (s : State),
    let l := s.line line
    let u := frameStart line s
    u = { s with lines := u.lines } ∧ (∀ n, n ≠ line → u.line n = s.line n) ∧
      u.line line = { l with scrub := (u.line line).scrub, frame := (u.line line).frame } ∧
      (l.state ≠ .lit ∨ l.scrub = none → (u.line line).scrub = l.scrub) ∧
      (∀ p, l.state = .lit → l.scrub = some p →
        (∀ k ∈ l.enabled, p < k → l.enabled.Pairwise (· < ·) → (∀ j ∈ l.enabled, p < j → k ≤ j) →
          (u.line line).scrub = some k) ∧
        ((∀ k ∈ l.enabled, k ≤ p) → (u.line line).scrub = l.enabled.head?)) ∧
      ∃ f, (u.line line).frame = some f ∧ f.sent = 0 ∧ f.offset = l.offset ∧ f.rate = l.rate ∧ f.applies = l.enabled ∧
        f.settles = false ∧ f.items.map FrameItem.slot = l.enabled ∧
        ∀ it ∈ f.items,
          let x := s.slotState (cellNo line it.slot)
          (l.state = .dark → it.command = .blank) ∧
          (∀ t, l.state ≠ .dark → x.staging = some t → it.command = .write t) ∧
          (∀ t, l.state ≠ .dark → x.staging = none → l.scrub = some it.slot → x.shown = some t →
            it.command = .rewrite t) ∧
          (l.state ≠ .dark → x.staging = none → (l.scrub ≠ some it.slot ∨ x.shown = none) → it.command = .sense)

/-- FRAME_END: for every item whose slot the frame still applies to, an answered slot records what it was sent and comes
PRESENT with a notice and a forced offer when it was not (no other cell is queued); a slot that gave no answer goes
ABSENT, with a notice and a count of Bd_module_lost when it was PRESENT. Slots settled since are not touched (log entry
19). When the line entered OFF during the frame, every slot of the line then takes the values of one that is not enabled,
and its cell's needs_full flag is cleared (R104; that it is at this moment is the model's reading, log entry 42). The next
frame begins on a line that is not OFF, with the command of every enabled slot fixed and the scrub pointer moved on;
nothing else of the line changes. A FRAME_END while items are unsent is no event of the part and changes nothing: the
model's reading (log entries 1 and 17). -/
def Obligations.FrameEndAppliesAnswers : Prop :=
  ∀ (line : BoardLineNo) (answers : List ModuleAnswer) (s : State) (f : Frame), s.resetAsserted = false →
    (s.line line).frame = some f →
    (f.sent ≠ f.items.length → exec (.frameEnd line answers) s = .next (finish s s)) ∧
    (f.sent = f.items.length → (f.items.map FrameItem.slot).Nodup → (∀ it ∈ f.items, it.slot < 64) →
      let came (k : Nat) : Bool :=
        answers.any (fun a => decide (a.window = some k ∧ a.address = f.offset + k ∧ a.checkHolds = true))
      let settledCell (c : Nat) : Cell := if f.settles then { s.cell c with needsFull := false } else s.cell c
      let present (k : Nat) : Bool := decide ((s.slotState (cellNo line k)).presence = .present)
      let lost := (f.items.filter (fun it => decide (it.slot ∈ f.applies) && present it.slot && !came it.slot)).length
      ∃ u, exec (.frameEnd line answers) s = .next (finish s u) ∧
        u = { s with
          lines := u.lines, slots := u.slots, cells := u.cells, queues := u.queues, counters := u.counters
          link := { s.link with notices := u.link.notices } } ∧
        (s.onlyCounted u [.bdModuleLost] ∧ u.counter .bdModuleLost =
          if lost = 0 then s.counter .bdModuleLost else min 4294967295 (s.counter .bdModuleLost + lost)) ∧
        Noticed ((f.items.filter (fun it => decide (it.slot ∈ f.applies) && (came it.slot != present it.slot))).map
          (fun it => .boardModule line it.slot)) s u ∧
        (∀ n, n ≠ (line : Nat) → u.line n = s.line n) ∧
        Forced ((f.items.filter (fun it => decide (it.slot ∈ f.applies) && came it.slot && !present it.slot)).map
          (fun it => cellNo line it.slot)) s u ∧
        ((s.line line).state = .off → u.line line = { s.line line with frame := none }) ∧
        ((s.line line).state ≠ .off → LineBegun line (s.line line) u) ∧
        (∀ c, (∀ k, k < 64 → c ≠ cellNo line k) → u.slotState c = s.slotState c ∧ u.cell c = s.cell c) ∧
        (∀ k, k < 64 → (∀ it ∈ f.items, it.slot = k → k ∉ f.applies) →
          u.cell (cellNo line k) = settledCell (cellNo line k) ∧ u.slotState (cellNo line k) =
            if f.settles then { staging := none, shown := none, presence := .unknown
                                changed := (s.slotState (cellNo line k)).changed }
            else s.slotState (cellNo line k)) ∧
        ∀ it ∈ f.items, it.slot ∈ f.applies →
          let c := cellNo line it.slot
          let x := s.slotState c
          let y := u.slotState c
          (f.settles = true → y.staging = none ∧ y.shown = none ∧ y.presence = .unknown) ∧
          (came it.slot = true →
            u.cell c = settledCell c ∧ y.changed = (x.changed || decide (x.presence ≠ .present)) ∧
            (x.presence ≠ .present → .boardModule line it.slot ∈ u.link.notices ∧ c ∈ u.refreshQueue line) ∧
            (f.settles = false → y.presence = .present ∧
              (∀ t, it.command = .write t →
                y.shown = some t ∧ y.staging = if x.staging = some t then none else x.staging) ∧
              (it.command = .blank → y.shown = some (blankText (s.cell c).width) ∧ y.staging = x.staging) ∧
              ((∃ t, it.command = .rewrite t) ∨ it.command = .sense → y.shown = x.shown ∧ y.staging = x.staging))) ∧
          (came it.slot = false →
            u.cell c = { s.cell c with needsFull := !f.settles } ∧ y.changed = (x.changed || decide (x.presence = .present)) ∧
            (x.presence = .present → .boardModule line it.slot ∈ u.link.notices) ∧
            (f.settles = false → y.staging = none ∧ y.shown = none ∧ y.presence = .absent)))

/-! ### Ribbons -/

/-- RIBBON_SET: values out of their ranges are refused; an accepted one replaces the configuration, and its enable starts,
stops or clears the ribbon; an entry to OFF from a mode other than NORMAL raises its RIBBON notice, and no other notice is
raised; a job of the ribbon in flight is told of it, and the Format Unit is otherwise left alone. That a ribbon that
leaves OFF sends its first character inside the command, before the arbiter's decision, is the model's reading of R132
(log entry 16, DEDUCED). -/
def Obligations.RibbonSetConfigures : Prop :=
  (∀ (r : LinkFrame) (rest : List LinkFrame) (s : State) (b : RibbonBody), s.ready .ribbonSet r rest →
    readRibbonSet r.body = some b →
    (1 < b.ribbon ∨ 2 < b.enable ∨ b.rate < 6 ∨ 30 < b.rate ∨ b.up1 < 10 ∨ b.up2 ≤ b.up1 ∨ b.up3 ≤ b.up2 ∨
      900 < b.up3 ∨ b.trim < 2 ∨ 99 < b.trim) →
    exec .ribbonSet s = .next (finish s (s.refusedHead r rest .range))) ∧
  ∀ (r : LinkFrame) (rest : List LinkFrame) (s : State) (b : RibbonBody) (id other : RibbonId) (e : RibbonEnable),
    s.ready .ribbonSet r rest → readRibbonSet r.body = some b → ribbonOf b.ribbon = some id → other ≠ id →
    ribbonEnableOf b.enable = some e → 6 ≤ b.rate → b.rate ≤ 30 → 10 ≤ b.up1 → b.up1 < b.up2 → b.up2 < b.up3 →
    b.up3 ≤ 900 → 2 ≤ b.trim → b.trim ≤ 99 →
    let x := s.ribbon id
    let y := { x with
      mask := b.mask, rate := b.rate, up1 := b.up1, up2 := b.up2, up3 := b.up3, trim := b.trim }
    ∃ u, exec .ribbonSet s = .next (finish s u) ∧
      u = { s with
        ribbonA := u.ribbonA, ribbonB := u.ribbonB, fu := u.fu, counters := u.counters
        link := { s.link.replied r rest [] with notices := u.link.notices } } ∧
      u.ribbon other = s.ribbon other ∧ s.onlyCounted u [.rbUnderrun] ∧
      (¬(e = .off ∧ x.state ≠ .off ∧ x.mode ≠ .normal) → u.link.notices = s.link.notices) ∧
      (¬(e = .on ∧ x.state = .off ∧ closedOrAfter s.session.state = false) → u.counters = s.counters) ∧
      (e = .unchanged ∨ e = .on ∧ x.state ≠ .off ∨ e = .off ∧ x.state = .off → u.ribbon id = y ∧ u.fu = s.fu) ∧
      (e = .on → x.state = .off → closedOrAfter s.session.state = true →
        u.ribbon id = { y with state := .stopped } ∧ u.fu = s.fu) ∧
      (e = .on → x.state = .off → closedOrAfter s.session.state = false →
        u.ribbon id = { y with
          state := .running, fifo := x.fifo.tail, period := some b.rate, output := some (x.fifo.head?.getD ' ') } ∧
        u.fu = s.fu ∧
        u.counter .rbUnderrun =
          if x.fifo = [] ∧ x.queue ≠ [] then min 4294967295 (s.counter .rbUnderrun + 1) else s.counter .rbUnderrun) ∧
      (e = .off → x.state ≠ .off →
        u.ribbon id = { y with
          state := .off, queue := [], fifo := [], mode := .normal, dwell := 0, anchors := [], preceding := none
          lateFigure := none, lateAge := 120, period := none, output := none } ∧
        (x.mode ≠ .normal → Noticed [.ribbon id] s u) ∧
        (∀ late lt t an pr off, s.fu.job = some (.ribbon id late lt t an pr off) →
          u.fu = { s.fu with job := some (.ribbon id late lt t an pr true) }) ∧
        ((∀ late lt t an pr off, s.fu.job ≠ some (.ribbon id late lt t an pr off)) → u.fu = s.fu))

/-- CHARACTER_PERIOD: a RUNNING ribbon sends the head of its FIFO, and stops when that leaves it nothing in AFTER or
CLOSED; from an empty FIFO it sends a space, an underrun when records are queued. The byte sent is the
character's code. On a ribbon that is not RUNNING, the output falls idle, and one that stops keeps its last character on
the output until then (log entry 16, DEDUCED). -/
def Obligations.CharacterPeriodSends : Prop :=
  ∀ (id other : RibbonId) (s : State), s.resetAsserted = false → other ≠ id →
    let x := s.ribbon id
    ∃ u, exec (.characterPeriod id) s = .next (finish s u) ∧
      u = { s with ribbonA := u.ribbonA, ribbonB := u.ribbonB, counters := u.counters } ∧
      u.ribbon other = s.ribbon other ∧ s.onlyCounted u [.rbUnderrun] ∧
      (x.state ≠ .running → u.ribbon id = { x with output := none } ∧ u.counters = s.counters ∧
        u.ribbonOutput id = none) ∧
      (∀ c rest, x.state = .running → x.fifo = c :: rest → u.counters = s.counters ∧
        u.ribbonOutput id = some (byteOf c.toNat) ∧
        u.ribbon id =
          if closedOrAfter s.session.state = true ∧ x.queue = [] ∧ rest = [] ∧ ribbonJobInFlight id s = false then
            { x with fifo := [], output := some c, state := .stopped, period := none }
          else { x with fifo := rest, output := some c, period := some x.rate }) ∧
      (x.state = .running → x.fifo = [] →
        u.ribbon id = { x with output := some ' ', period := some x.rate } ∧ u.ribbonOutput id = some 0x20 ∧
        u.counter .rbUnderrun =
          if x.queue = [] then s.counter .rbUnderrun else min 4294967295 (s.counter .rbUnderrun + 1))

/-- One mode evaluation: a rise at the next threshold, else a fall below half the threshold after a dwell of 30, else
the mode is kept. A rise is counted, both raise a RIBBON notice, and only a rise into DIGITS clears the anchor bits. -/
def Obligations.ModeEvaluation : Prop :=
  ∀ (id other : RibbonId) (s : State), other ≠ id →
    let x := s.ribbon id
    let lag := ((x.queue.map PrintRecord.fullLength).sum + x.fifo.length) / x.rate
    let u := evalMode id s
    u = { s with
      ribbonA := u.ribbonA, ribbonB := u.ribbonB, counters := u.counters
      link := { s.link with notices := u.link.notices } } ∧
    u.ribbon other = s.ribbon other ∧ s.onlyCounted u [.rbModeRises] ∧
    (∀ m next up, (m, next, up) ∈ [(Mode.normal, Mode.trim, x.up1), (.trim, .digits, x.up2), (.digits, .sample, x.up3)] →
      x.mode = m → up ≤ lag →
      u.ribbon id = { x with mode := next, dwell := 0, anchors := if next = .digits then [] else x.anchors } ∧
      u.counter .rbModeRises = min 4294967295 (s.counter .rbModeRises + 1) ∧ Noticed [.ribbon id] s u) ∧
    (∀ m before up, (m, before, up) ∈ [(Mode.trim, Mode.normal, x.up1), (.digits, .trim, x.up2), (.sample, .digits, x.up3)] →
      x.mode = m → lag < up / 2 →
      (m = .trim → lag < x.up2) → (m = .digits → lag < x.up3) →
      (x.dwell = 30 → u.ribbon id = { x with mode := before, dwell := 0 } ∧
        u.counters = s.counters ∧ Noticed [.ribbon id] s u) ∧
      (x.dwell ≠ 30 → u = s)) ∧
    (x.mode = .normal → lag < x.up1 → u = s) ∧
    (x.mode = .trim → lag < x.up2 → x.up1 / 2 ≤ lag → u = s) ∧
    (x.mode = .digits → lag < x.up3 → x.up2 / 2 ≤ lag → u = s) ∧
    (x.mode = .sample → x.up3 / 2 ≤ lag → u = s)

/-- The full-queue policy: a trade removes the oldest queued trade of its instrument, else the oldest trade; any other
record removes the oldest trade; the new record joins the tail and the mode is evaluated. The removed record leaves the
backlog with its full length. With no trade queued the new record is dropped, the queue is left as it was and no evaluation
is made. Each removal and each drop is counted. -/
def Obligations.FullQueuePolicy : Prop :=
  ∀ (id : RibbonId) (body : PrintBody) (arrival : Nat) (s : State), (s.ribbon id).state ≠ .off →
    512 ≤ (s.ribbon id).queue.length →
    let x := s.ribbon id
    let trade (p : PrintRecord) := ∃ u, p.body = .trade u
    let tradeOf (i : Nat) (p : PrintRecord) := ∃ u, p.body = .trade u ∧ u.index = i
    let joined (q : List PrintRecord) :=
      evalMode id ((s.count .rbDropped).setRibbon id { x with queue := q ++ [recordOf body arrival] })
    let owed (q : List PrintRecord) := (q.map PrintRecord.fullLength).sum
    (∀ t before old after, body = .trade t → x.queue = before ++ old :: after → tradeOf t.index old →
      (∀ p ∈ before, ¬tradeOf t.index p) →
      offerPrint id body arrival s = joined (before ++ after) ∧
        owed (before ++ after) + old.fullLength = owed x.queue) ∧
    (∀ before old after, (∀ t, body = .trade t → ∀ p ∈ x.queue, ¬tradeOf t.index p) →
      x.queue = before ++ old :: after → trade old → (∀ p ∈ before, ¬trade p) →
      offerPrint id body arrival s = joined (before ++ after) ∧
        owed (before ++ after) + old.fullLength = owed x.queue) ∧
    ((∀ p ∈ x.queue, ¬trade p) → offerPrint id body arrival s = s.count .rbDropped)

/-! ### Terminal lines -/

/-- TERM_ADMIT: an accepted one makes the terminal JOINING with everything empty, and begins a round on an idle line on
which no terminal was admitted. -/
def Obligations.TermAdmitMakesATerminalJoin : Prop :=
  ∀ (r : LinkFrame) (rest : List LinkFrame) (s : State) (line addr : Nat) (exempt : Bool), s.ready .termAdmit r rest →
    readTermAdmit r.body = some (line, addr, exempt) →
    let n := termNo line addr
    (3 < line ∨ 15 < addr → exec .termAdmit s = .next (finish s (s.refusedHead r rest .range))) ∧
    (line ≤ 3 → addr ≤ 15 → (s.term n).state ≠ .vacant →
      exec .termAdmit s = .next (finish s (s.refusedHead r rest .state))) ∧
    (line ≤ 3 → addr ≤ 15 → (s.term n).state = .vacant →
      let begins := (∀ a, a < 16 → (s.term (termNo line a)).state = .vacant) ∧ (s.tline line).round = none
      ∃ u, exec .termAdmit s = .next (finish s u) ∧
        u = { s with terms := u.terms, tlines := u.tlines, link := s.link.replied r rest [] } ∧
        u.term n = { s.term n with
          state := .joining, exempt := exempt, retry := 0, lapse := 0, outBlock := none
          record := { state := .free, request := none, result := none }
          fullPage := false, statusOwed := false, idleOwed := false, watchList := [], page := 0, rows := []
          alerts := [] } ∧
        (∀ m, m ≠ n → u.term m = s.term m) ∧
        (begins → RoundBegun (s.tline line) line u ∧ s.otherLinesKept u line) ∧
        (¬begins → u.tlines = s.tlines))

/-- TERM_RETIRE: a line above 3 or an address above 15 is RANGE, a VACANT terminal STATE. An accepted one makes the
terminal VACANT with everything empty, lowers the watchers of its list, cancels its referral, and makes its slot and its job
deliver nothing; a job or a slot of another terminal is left alone. -/
def Obligations.TermRetireEmptiesTheTerminal : Prop :=
  ∀ (r : LinkFrame) (rest : List LinkFrame) (s : State) (line addr : Nat), s.ready .termRetire r rest →
    read2 r.body = some (line, addr) →
    let n := termNo line addr
    (3 < line ∨ 15 < addr → exec .termRetire s = .next (finish s (s.refusedHead r rest .range))) ∧
    (line ≤ 3 → addr ≤ 15 → (s.term n).state = .vacant → exec .termRetire s = .next (finish s (s.refusedHead r rest .state))) ∧
    (line ≤ 3 → addr ≤ 15 → (s.term n).state ≠ .vacant →
      ∃ u, exec .termRetire s = .next (finish s u) ∧
        u = { s with
          terms := u.terms, tlines := u.tlines, entries := u.entries, windows := u.windows, fu := u.fu
          link := { s.link.replied r rest [] with notices := u.link.notices } } ∧
        u.term n = { Terminal.cold with changed := (s.term n).changed } ∧ (∀ m, m ≠ n → u.term m = s.term m) ∧
        (∀ i, u.entry i = { s.entry i with watchers := (s.entry i).watchers - (s.term n).watchList.count i }) ∧
        ((s.term n).record.state ≠ .referred → u.windows = s.windows ∧ u.link.notices = s.link.notices) ∧
        (∀ w h, (s.term n).record.state = .referred → w < 4 → (s.window w).slot = some h → h.line = line →
          h.addr = addr → (∀ v, v < w → ∀ g, (s.window v).slot = some g → ¬(g.line = line ∧ g.addr = addr)) →
          u.window w = { s.window w with slot := none, outcome := .cancelled } ∧
          (∀ v, v ≠ w → u.window v = s.window v) ∧ Noticed [.referral w] s u) ∧
        (∀ x, (s.tline line).slot = some x → x.address = addr →
          u.tline line = { s.tline line with slot := some { x with ignored := true } } ∧ s.otherLinesKept u line) ∧
        ((∀ x, (s.tline line).slot = some x → x.address ≠ addr) → u.tlines = s.tlines) ∧
        (∀ b fate, s.fu.job = some (.terminal line addr b fate) →
          u.fu = { s.fu with job := some (.terminal line addr b .retired) }) ∧
        ((∀ b fate, s.fu.job ≠ some (.terminal line addr b fate)) → u.fu = s.fu))

/-- ROUND_START, ATTENTION, SLOT_START, and the end of a slot: a round begins on an idle line with an admitted terminal when
something calls for one (a CONTINUOUS line, an out-block, attention), and nothing happens otherwise; ATTENTION begins one or
sets attention. A slot goes to the lowest address above the last that the round visits; its transmission is the out-block or
a poll, and its READY says that the record is free. When no address is left, at a slot's start or at a slot's end, the round
ends, and the next begins at once when it is due (log entries 9 and 32). A SLOT_START with no round in flight or with a slot
in progress is no event of the part and changes nothing: the model's reading (log entry 1). -/
def Obligations.RoundsBeginAndEnd : Prop :=
  (∀ (line : TermLineNo) (s : State), s.resetAsserted = false →
    let due := s.admitted line ∧ ((s.tline line).poll = .continuous ∨ s.holdsBlock line ∨ (s.tline line).attention = true)
    ((s.tline line).round = none → due →
      ∃ u, exec (.roundStart line) s = .next (finish s u) ∧ u = { s with tlines := u.tlines } ∧
        RoundBegun (s.tline line) line u ∧ s.otherLinesKept u line) ∧
    ((s.tline line).round ≠ none ∨ ¬due → exec (.roundStart line) s = .next (finish s s)) ∧
    let begins := (s.tline line).poll = .quiet ∧ (s.tline line).round = none ∧ s.admitted line
    ∃ u, exec (.attention line) s = .next (finish s u) ∧ u = { s with tlines := u.tlines } ∧
      s.otherLinesKept u line ∧ (begins → RoundBegun (s.tline line) line u) ∧
      (¬begins → u.tline line = { s.tline line with attention := true })) ∧
  (∀ (line : TermLineNo) (s : State) (x : Round), s.resetAsserted = false → (s.tline line).round = some x →
    (s.tline line).slot = none →
    let above (a : Nat) := a < 16 ∧ (∀ b, x.last = some b → b < a) ∧
      ((s.term (termNo line a)).state = .active ∨ (s.term (termNo line a)).state = .lapsed ∨
        x.wide = true ∧ ((s.term (termNo line a)).state = .joining ∨ (s.term (termNo line a)).state = .silent))
    (∀ a, above a → (∀ b, above b → a ≤ b) →
      let n := termNo line a
      let t := s.term n
      let ready := decide (t.record.state = .free)
      ∃ u, exec (.slotStart line) s = .next (finish s u) ∧ u = { s with tlines := u.tlines, terms := u.terms } ∧
        u.term n = { t with readySent := ready } ∧ (∀ m, m ≠ n → u.term m = s.term m) ∧
        (∃ tx, u.tline line = { s.tline line with
            round := some { x with last := some a }
            slot := some { address := a, tx := tx, limit := (s.tline line).slotLimit, ignored := false } } ∧
          (∀ b, t.outBlock = some b → t.served = true → tx = .output ready b) ∧
          ((t.outBlock = none ∨ t.served = false) → tx = .poll ready)) ∧ s.otherLinesKept u line) ∧
    ((∀ a, ¬above a) →
      ∃ u, exec (.slotStart line) s = .next (finish s u) ∧ u = { s with tlines := u.tlines } ∧
        RoundEnded (s.tline line) line u ∧ s.otherLinesKept u line)) ∧
  (∀ (line : TermLineNo) (s : State), s.resetAsserted = false →
    ((s.tline line).round = none ∨ (s.tline line).slot ≠ none) → exec (.slotStart line) s = .next (finish s s)) ∧
  ∀ (line : Nat) (s : State),
    let v := endRoundIfDone line s
    ((s.tline line).round = none → v = s) ∧
      ∀ r, (s.tline line).round = some r →
        (s.findsAddress line r → v = s) ∧
        (¬s.findsAddress line r → v = { s with tlines := v.tlines } ∧ RoundEnded (s.tline line) line v ∧
          s.otherLinesKept v line)

/-- TERMINAL_ANSWER and SLOT_TIME_LIMIT: how a slot ends. From an ACTIVE or LAPSED terminal an ACK clears the retry count
and delivers the out-block; a NAK or no answer is counted and retried until the terminal is silenced, and then its
out-block is discarded. Whatever the kind of the block does not touch, the rest of the terminal is kept. A JOINING or
SILENT terminal joins at any answer and stays at none. A message that names another address or fails its check is no
answer; of an ignored slot nothing comes. The round's end follows (`RoundsBeginAndEnd`). With no slot in progress neither
is an event of the part and neither changes anything: the model's reading (log entry 1). -/
def Obligations.SlotOutcomes : Prop :=
  (∀ (line : TermLineNo) (m : TerminalMessage) (s : State), s.resetAsserted = false →
    ((s.tline line).slot = none →
      exec (.terminalAnswer line m) s = .next (finish s s) ∧ exec (.slotTimeLimit line) s = .next (finish s s)) ∧
    ∀ x, (s.tline line).slot = some x →
      (m.address ≠ x.address ∨ m.checkHolds = false → exec (.terminalAnswer line m) s = .next (finish s s)) ∧
      (x.ignored = true →
        let ended : Host.Outcome State Fault Refusal := .next (finish s (endRoundIfDone line (dropSlot line s)))
        exec (.slotTimeLimit line) s = ended ∧
        (m.address = x.address → m.checkHolds = true → exec (.terminalAnswer line m) s = ended))) ∧
  ∀ (line : TermLineNo) (m : TerminalMessage) (s : State) (x : TermSlot), s.answersSlot line x m →
    let n := termNo line x.address
    let t := s.term n
    let b := answerOutcome line x m.ack (dropSlot line s)
    let c := silenceOutcome line x (dropSlot line s)
    let frame (u : State) := u = { s with
        tlines := u.tlines, terms := u.terms, counters := u.counters, fu := u.fu
        link := { s.link with notices := u.link.notices } } ∧
      u.tline line = { s.tline line with slot := none } ∧ s.otherLinesKept u line ∧ ∀ k, k ≠ n → u.term k = s.term k
    let failed (u : State) := u.counter .tmRetries = min 4294967295 (s.counter .tmRetries + 1) ∧
      if t.retry + 1 < 2 * (s.tline line).retryLimit then
        u.term n = { t with retry := t.retry + 1 } ∧ s.onlyCounted u [.tmRetries] ∧ u.fu = s.fu ∧ u.link = s.link
      else u.term n = { t with
          state := .silent, retry := t.retry + 1, outBlock := none, statusOwed := false, idleOwed := false
          changed := true, record := (u.term n).record, alerts := (u.term n).alerts } ∧
        Noticed [.terminal line x.address] s u ∧
        u.counter .tmSilenced = min 4294967295 (s.counter .tmSilenced + 1) ∧
        s.onlyCounted u [.tmRetries, .tmSilenced] ∧
        (u.term n).record = (match t.outBlock with
          | some (.reply _) =>
            if t.record.state = .sent then { t.record with state := .answered } else t.record
          | _ => t.record) ∧
        (∀ k, (∃ l, t.outBlock = some (.bell l) ∧ l.slot = k) → (u.term n).alert k = { t.alert k with marked := false }) ∧
        (∀ k, (∀ l, t.outBlock = some (.bell l) → l.slot ≠ k) → (u.term n).alert k = t.alert k) ∧
        (∀ o fate, s.fu.job = some (.terminal line x.address o fate) → u.fu = { s.fu with
          job := some (.terminal line x.address o (if fate = .retired then .retired else .silenced)) }) ∧
        ((∀ o fate, s.fu.job ≠ some (.terminal line x.address o fate)) → u.fu = s.fu)
    (m.request = none → exec (.terminalAnswer line m) s = .next (finish s (endRoundIfDone line b))) ∧
    exec (.slotTimeLimit line) s = .next (finish s (endRoundIfDone line c)) ∧ frame b ∧ frame c ∧
    (t.served = true → m.ack = true → b.fu = s.fu ∧ b.link = s.link ∧
      (∀ ready, x.tx = .poll ready → b.term n = { t with retry := 0 } ∧ b.counters = s.counters) ∧
      ∀ ready o, x.tx = .output ready o →
        b.term n = { t with
          retry := 0, outBlock := none, record := (b.term n).record, alerts := (b.term n).alerts } ∧
        s.onlyCounted b [.tmBlocks] ∧ b.counter .tmBlocks = min 4294967295 (s.counter .tmBlocks + 1) ∧
        (∀ q, o = .reply q → (b.term n).record = { state := .free, request := none, result := none }) ∧
        ((∀ q, o ≠ .reply q) → (b.term n).record = t.record) ∧
        ∀ k,
          let spent := ∃ l, o = .bell l ∧ l.slot = k ∧ (t.alert k).marked = true
          (spent → (b.term n).alert k = { t.alert k with state := .spent, marked := false }) ∧
          (¬spent → (b.term n).alert k = t.alert k)) ∧
    (t.served = true → m.ack = false → failed b) ∧ (t.served = true → failed c) ∧
    (t.state = .joining ∨ t.state = .silent →
      b.term n = { t with state := .active, retry := 0, lapse := 0, fullPage := true, changed := true } ∧
      Noticed [.terminal line x.address] s b ∧ b.counters = s.counters ∧ b.fu = s.fu ∧
      c.terms = s.terms ∧ c.counters = s.counters ∧ c.link = s.link ∧ c.fu = s.fu)

/-- A dealer request that an answer carries: where the slot's READY was false it is discarded and counted; else it is taken,
once the answer's own outcome stands, and dealt with at that moment. One of no kind of TABLE 9-2, with an item missing or out
of range, or of an unknown symbol is answered UNKNOWN and changes nothing else. The commands of the seven kinds are the
answers that carry a request of that kind (the model's reading of the opcode table, log entry 10). -/
def Obligations.DealerRequestIsTaken : Prop :=
  (∀ (line : TermLineNo) (m : TerminalMessage) (s : State), s.resetAsserted = false →
    ∀ p ∈ [(DealerKind.page, Instr.page line m), (.resync, .resync line m), (.watchAdd, .watchAdd line m),
      (.watchDrop, .watchDrop line m), (.quoteAsk, .quoteAsk line m), (.alertSet, .alertSet line m),
      (.alertClear, .alertClear line m)],
      ((∃ q, m.request = some q ∧ q.kind = some p.1) → exec p.2 s = exec (.terminalAnswer line m) s) ∧
      ((∀ q, m.request = some q → q.kind ≠ some p.1) → exec p.2 s = .next (finish s s))) ∧
  ∀ (line : TermLineNo) (m : TerminalMessage) (s : State) (x : TermSlot) (q : DealerRequest), s.answersSlot line x m →
    m.request = some q →
    let n := termNo line x.address
    let b := answerOutcome line x m.ack (dropSlot line s)
    let noSymbol := ∀ sym, q.symbol = some sym → ∀ i, (sym, i) ∉ s.directory
    let unreadable := q.kind = none ∨ q.kind = some .page ∧ (∀ p, q.page = some p → 1 < p) ∨
      q.kind = some .watchAdd ∧ ((∃ p, q.position = some p ∧ 23 < p) ∨ noSymbol) ∨
      (q.kind = some .watchDrop ∨ q.kind = some .quoteAsk) ∧ noSymbol ∨
      q.kind = some .alertSet ∧ ((∀ k, q.slot = some k → 3 < k) ∨ q.above = none ∨ q.below = none ∨
        q.minSize = none ∨ noSymbol) ∨
      q.kind = some .alertClear ∧ ∀ k, q.slot = some k → 3 < k
    ((s.term n).readySent = false → exec (.terminalAnswer line m) s =
      .next (finish s (endRoundIfDone line (b.count .tmOverrun)))) ∧
    ((s.term n).readySent = true → unreadable →
      ∃ v, exec (.terminalAnswer line m) s = .next (finish s (endRoundIfDone line v)) ∧ v = { b with terms := v.terms } ∧
        v.term n = (b.term n).tookRequest
          { state := .answered, request := some q
            result := some { code := .unknown, position := none, index := none, conditions := none } } ∧
        ∀ k, k ≠ n → v.term k = b.term k)

/-! ### Dealer requests -/

/-- ALERT_CLEAR: the alert entry is EMPTY whatever its state was, the result is ACCEPTED whatever the windows hold, and
nothing else changes beyond what the answer that carries the request does. That the command is that answer, and that the
answer's own outcome, the taking of the request, the dealing with it and the end of the round come in that order with nothing
between, is the model's reading of R145, R148 and R163 (log entry 10); so is that a request carried by a NAK that silences
the terminal is taken too (log entry 31). -/
def Obligations.AlertClearEmptiesTheEntry : Prop :=
  ∀ (line : TermLineNo) (m : TerminalMessage) (s : State) (x : TermSlot) (q : DealerRequest) (k : Nat),
    s.handsOver line x m q → q.kind = some .alertClear → q.slot = some k → k ≤ 3 →
    let n := termNo line x.address
    let b := answerOutcome line x m.ack (dropSlot line s)
    ∃ v, exec (.alertClear line m) s = .next (finish s (endRoundIfDone line v)) ∧ v = { b with terms := v.terms } ∧
      v.term n = { (b.term n).tookRequest
          { state := .answered, request := some q
            result := some { code := .accepted, position := none, index := none, conditions := none } } with
        alerts := (v.term n).alerts } ∧
      (v.term n).alert k =
        { state := .empty, instrument := none, conditions := { above := none, below := none, minSize := none }
          fired := none, marked := false } ∧
      (∀ j, j ≠ k → (v.term n).alert j = (b.term n).alert j) ∧ ∀ j, j ≠ n → v.term j = b.term j

/-- PAGE, RESYNC, WATCH_DROP: the page turned or owed, or the instrument dropped from the list with the rows from its
place onward marked and none before it; a WATCH-DROP of an instrument not on the list is UNKNOWN. `b` is what the answer
itself leaves, and `e` what the symbol's lookup then leaves, which rolls a stale entry, also when the request is refused.
That each command is the answer that carries its request, dealt with inside it, is the model's reading (log entries 10 and
31). -/
def Obligations.PageResyncAndDrop : Prop :=
  ∀ (line : TermLineNo) (m : TerminalMessage) (s : State) (x : TermSlot) (q : DealerRequest), s.handsOver line x m q →
    let n := termNo line x.address
    let b := answerOutcome line x m.ack (dropSlot line s)
    let took (e : State) (c : ReplyCode) : Terminal := (e.term n).tookRequest
      { state := .answered, request := some q
        result := some { code := c, position := none, index := none, conditions := none } }
    let ends (e : State) (c : Instr) (v : State) := exec c s = .next (finish s (endRoundIfDone line v)) ∧
      v = { e with terms := v.terms, entries := v.entries } ∧ ∀ k, k ≠ n → v.term k = e.term k
    (∀ p, q.kind = some .page → q.page = some p → p ≤ 1 →
      ∃ v, ends b (.page line m) v ∧ v.entries = s.entries ∧
        v.term n = { took b .accepted with page := p, rows := [], fullPage := true }) ∧
    (q.kind = some .resync →
      ∃ v, ends b (.resync line m) v ∧ v.entries = s.entries ∧ v.term n = { took b .accepted with fullPage := true }) ∧
    ∀ sym i, q.kind = some .watchDrop → q.symbol = some sym → lookup sym s.directory = some i →
      ∃ e, EntryRead i b e ∧
      (i ∉ (s.term n).watchList →
        ∃ v, ends e (.watchDrop line m) v ∧ v.entries = e.entries ∧ v.term n = took e .unknown) ∧
      ∀ k, (s.term n).watchList[k]? = some i → (∀ j, j < k → (s.term n).watchList[j]? ≠ some i) →
        ∃ v, ends e (.watchDrop line m) v ∧
          v.term n = { took e .accepted with
            watchList := (s.term n).watchList.eraseIdx k, rows := (v.term n).rows } ∧
          (∀ row, row < 12 → k ≤ 12 * (s.term n).page + row → 12 * (s.term n).page + row < (s.term n).watchList.length →
            row ∈ (v.term n).rows) ∧
          (∀ row ∈ (e.term n).rows, row ∈ (v.term n).rows) ∧
          (∀ row ∈ (v.term n).rows, row ∈ (e.term n).rows ∨ row < 12 ∧ k ≤ 12 * (s.term n).page + row) ∧
          v.entry i = { e.entry i with watchers := (e.entry i).watchers - 1 } ∧ ∀ j, j ≠ i → v.entry j = e.entry j

/-- WATCH_ADD, QUOTE_ASK, ALERT_SET from an exempt terminal or with no window that restricts the instrument: a failed
check of its own gives its code, else the request is carried out. `b` is what the answer itself leaves, and `e` what the
symbol's lookup then leaves, which rolls a stale entry, also when the request is refused. An ALERT-SET stores its enabled
thresholds moved onto the grid of the instrument and its enabled minimum size, or is UNKNOWN when one is not valid. A
WATCH-ADD marks no row before the place it takes. That the stored results of a WATCH-ADD and an ALERT-SET hold the
instrument index is the model's reading (log entry 45), and so is that each command is the answer that carries its
request, dealt with inside it (log entries 10 and 31). -/
def Obligations.DealerRequestsAreCarriedOut : Prop :=
  ∀ (line : TermLineNo) (m : TerminalMessage) (s : State) (x : TermSlot) (q : DealerRequest) (sym : Text) (i : Nat),
    s.handsOver line x m q → q.symbol = some sym → lookup sym s.directory = some i →
    let n := termNo line x.address
    let t := s.term n
    let b := answerOutcome line x m.ack (dropSlot line s)
    ∃ e, EntryRead i b e ∧
    let took (r : DealerResult) : Terminal :=
      (e.term n).tookRequest { state := .answered, request := some q, result := some r }
    let only (c : ReplyCode) : DealerResult := { code := c, position := none, index := none, conditions := none }
    let free (k : ReferralKind) := t.exempt = true ∨ ∀ w, w < 4 → (s.window w).restricts k i = false
    let ends (c : Instr) (v : State) := exec c s = .next (finish s (endRoundIfDone line v)) ∧
      v = { e with terms := v.terms, entries := v.entries } ∧ ∀ k, k ≠ n → v.term k = e.term k
    (q.kind = some .watchAdd → (∀ p, q.position = some p → p ≤ 23) →
      (i ∈ t.watchList ∨ 24 ≤ t.watchList.length →
        ∃ v, ends (.watchAdd line m) v ∧ v.entries = e.entries ∧
          v.term n = took (only (if i ∈ t.watchList then .duplicate else .full))) ∧
      (i ∉ t.watchList → t.watchList.length < 24 → free .watch →
        let k := min (q.position.getD t.watchList.length) t.watchList.length
        ∃ v, ends (.watchAdd line m) v ∧
          v.term n = { took { code := .accepted, position := some k, index := some i, conditions := none } with
            watchList := t.watchList.take k ++ i :: t.watchList.drop k, rows := (v.term n).rows } ∧
          (∀ row, row < 12 → k ≤ 12 * t.page + row → 12 * t.page + row ≤ t.watchList.length →
            row ∈ (v.term n).rows) ∧
          (∀ row ∈ (e.term n).rows, row ∈ (v.term n).rows) ∧
          (∀ row ∈ (v.term n).rows, row ∈ (e.term n).rows ∨ row < 12 ∧ k ≤ 12 * t.page + row) ∧
          v.entry i = { e.entry i with watchers := (e.entry i).watchers + 1 } ∧ ∀ j, j ≠ i → v.entry j = e.entry j)) ∧
    (q.kind = some .quoteAsk → free .quote →
      ∃ v, ends (.quoteAsk line m) v ∧ v.entries = e.entries ∧
        v.term n = took { code := .accepted, position := none, index := some i, conditions := none }) ∧
    ((s.entry i).denom ∈ [8, 16, 32, 64] →
      ConditionsStored (s.entry i).denom q (checkConditions (s.entry i).denom q)) ∧
    ∀ k, q.kind = some .alertSet → q.slot = some k → k ≤ 3 → q.above ≠ none → q.below ≠ none → q.minSize ≠ none →
      (checkConditions (s.entry i).denom q = none →
        ∃ v, ends (.alertSet line m) v ∧ v.entries = e.entries ∧ v.term n = took (only .unknown)) ∧
      ∀ c, checkConditions (s.entry i).denom q = some c → free .alert →
        ∃ v, ends (.alertSet line m) v ∧ v.entries = e.entries ∧
          v.term n = { took { code := .accepted, position := none, index := some i, conditions := some c } with
            alerts := (v.term n).alerts } ∧
          (v.term n).alert k =
            { state := .armed, instrument := some i, conditions := c, fired := none, marked := false } ∧
          ∀ j, j ≠ k → (v.term n).alert j = (e.term n).alert j

/-! ### Referral windows -/

/-- A referable request that passes its own checks, from a terminal that is not exempt, with a window that restricts it:
the lowest-numbered such window holds it in an EMPTY slot, or its answer is WAIT. `b` is what the answer itself leaves,
and `e` what the symbol's lookup then leaves, which rolls a stale entry. That each command is the answer that carries its
request, dealt with inside it, is the model's reading (log entries 10 and 31). -/
def Obligations.ReferralHoldsOrWaits : Prop :=
  ∀ (line : TermLineNo) (m : TerminalMessage) (s : State) (x : TermSlot) (q : DealerRequest) (sym : Text) (i w : Nat)
    (c : Instr) (kind : ReferralKind), s.handsOver line x m q → q.symbol = some sym →
    lookup sym s.directory = some i →
    let n := termNo line x.address
    let t := s.term n
    let b := answerOutcome line x m.ack (dropSlot line s)
    t.exempt = false → w < 4 → (s.window w).restricts kind i = true →
    (∀ v, v < w → (s.window v).restricts kind i = false) →
    (c = .watchAdd line m ∧ kind = .watch ∧ q.kind = some .watchAdd ∧ (∀ p, q.position = some p → p ≤ 23) ∧
        i ∉ t.watchList ∧ t.watchList.length < 24 ∨
      c = .quoteAsk line m ∧ kind = .quote ∧ q.kind = some .quoteAsk ∨
      c = .alertSet line m ∧ kind = .alert ∧ q.kind = some .alertSet ∧ (∃ k, q.slot = some k ∧ k ≤ 3) ∧
        checkConditions (s.entry i).denom q ≠ none) →
    ∃ e v, EntryRead i b e ∧ exec c s = .next (finish s (endRoundIfDone line v)) ∧
      (∀ k, k ≠ n → v.term k = e.term k) ∧
      ((s.window w).slot = none →
        v = { e with
          terms := v.terms, windows := v.windows, counters := v.counters
          link := { e.link with notices := v.link.notices } } ∧
        v.window w = { s.window w with
          slot := some { line := line, addr := x.address, kind := kind, index := i, start := s.clock.second
                         limit := (s.window w).limit, elapsed := 0 } } ∧
        (∀ k, k ≠ w → v.window k = s.window k) ∧
        v.term n = (e.term n).tookRequest { state := .referred, request := some q, result := none } ∧
        v.counter .rfHeld = min 4294967295 (s.counter .rfHeld + 1) ∧ e.onlyCounted v [.rfHeld] ∧
        Noticed [.referral w] e v) ∧
      ((s.window w).slot ≠ none →
        v = { e with terms := v.terms } ∧
        v.term n = (e.term n).tookRequest
          { state := .answered, request := some q
            result := some { code := .wait, position := none, index := none, conditions := none } })

/-- REFER_ANSWER, GRANT: the request's own checks are made again; it is carried out against the held index or gets the
failed check's code, and a WATCH marks no row before the place it takes; the conditions of an ALERT are checked against
the grid of the held instrument; the slot empties as GRANTED, and the reply carries the result, as its reply code alone
(the model's reading, log entry 14). A window or a decision out of range is RANGE, an EMPTY slot STALE; that a decision
out of range is RANGE for an EMPTY slot too is the model's choice (log entry 40), and that the results of a WATCH and an
ALERT hold the instrument index its reading (log entry 45). -/
def Obligations.GrantCarriesOut : Prop :=
  (∀ (r : LinkFrame) (rest : List LinkFrame) (s : State) (w d : Nat), s.ready .referAnswer r rest →
    read2 r.body = some (w, d) →
    (3 < w ∨ 1 < d → exec .referAnswer s = .next (finish s (s.refusedHead r rest .range))) ∧
    (w ≤ 3 → d ≤ 1 → (s.window w).slot = none →
      exec .referAnswer s = .next (finish s (s.refusedHead r rest .stale)))) ∧
  ∀ (r : LinkFrame) (rest : List LinkFrame) (s : State) (w : Nat) (h : HeldSlot) (q : DealerRequest),
    s.ready .referAnswer r rest → read2 r.body = some (w, 0) → w ≤ 3 → (s.window w).slot = some h →
    let n := termNo h.line h.addr
    let t := s.term n
    t.record.request = some q →
    ∃ u x, exec .referAnswer s = .next (finish s u) ∧
      u = { s with
        windows := u.windows, terms := u.terms, entries := u.entries
        link := s.link.replied r rest
          [byteOf w, 0, byteOf h.line, byteOf h.addr, byteOf (ReplyCode.code (DealerResult.code x))] } ∧
      u.window w = { s.window w with slot := none, outcome := .granted } ∧
      (∀ v, v ≠ w → u.window v = s.window v) ∧
      (u.term n).record = { state := .answered, request := some q, result := some x } ∧
      (∀ m, m ≠ n → u.term m = s.term m) ∧
      (h.kind = .quote → x = { code := .accepted, position := none, index := some h.index, conditions := none } ∧
        u.entries = s.entries ∧ u.term n = { t with record := (u.term n).record }) ∧
      (h.kind = .watch → h.index ∈ t.watchList →
        x.code = .duplicate ∧ u.entries = s.entries ∧ u.term n = { t with record := (u.term n).record }) ∧
      (h.kind = .watch → h.index ∉ t.watchList → 24 ≤ t.watchList.length →
        x.code = .full ∧ u.entries = s.entries ∧ u.term n = { t with record := (u.term n).record }) ∧
      (h.kind = .watch → h.index ∉ t.watchList → t.watchList.length < 24 →
        let k := min (q.position.getD t.watchList.length) t.watchList.length
        x = { code := .accepted, position := some k, index := some h.index, conditions := none } ∧
          u.term n = { t with
            record := (u.term n).record, watchList := t.watchList.take k ++ h.index :: t.watchList.drop k
            rows := (u.term n).rows } ∧
          (∀ row, row < 12 → k ≤ 12 * t.page + row → 12 * t.page + row ≤ t.watchList.length →
            row ∈ (u.term n).rows) ∧
          (∀ row ∈ t.rows, row ∈ (u.term n).rows) ∧
          (∀ row ∈ (u.term n).rows, row ∈ t.rows ∨ row < 12 ∧ k ≤ 12 * t.page + row) ∧
          u.entry h.index = { s.entry h.index with watchers := (s.entry h.index).watchers + 1 } ∧
          ∀ j, j ≠ h.index → u.entry j = s.entry j) ∧
      ((s.entry h.index).denom ∈ [8, 16, 32, 64] →
        ConditionsStored (s.entry h.index).denom q (checkConditions (s.entry h.index).denom q)) ∧
      (h.kind = .alert → checkConditions (s.entry h.index).denom q = none →
        x.code = .unknown ∧ u.entries = s.entries ∧ u.term n = { t with record := (u.term n).record }) ∧
      ∀ c k, h.kind = .alert → checkConditions (s.entry h.index).denom q = some c → q.slot = some k →
        x = { code := .accepted, position := none, index := some h.index, conditions := some c } ∧
          u.entries = s.entries ∧ u.term n = { t with record := (u.term n).record, alerts := (u.term n).alerts } ∧
          (u.term n).alert k =
            { state := .armed, instrument := some h.index, conditions := c, fired := none, marked := false } ∧
          ∀ j, j ≠ k → (u.term n).alert j = t.alert j

/-- REFER_ANSWER, DENY: the slot empties as DENIED, the dealer's record is ANSWERED with DENIED, the reply carries the
window, the decision, the terminal and DENIED; no list, count, alert or entry is touched. The bytes of the reply's items are
the model's reading (log entry 14). -/
def Obligations.DenyGivesDenied : Prop :=
  ∀ (r : LinkFrame) (rest : List LinkFrame) (s : State) (w : Nat) (h : HeldSlot), s.ready .referAnswer r rest →
    read2 r.body = some (w, 1) → w ≤ 3 → (s.window w).slot = some h →
    let n := termNo h.line h.addr
    ∃ u, exec .referAnswer s = .next (finish s u) ∧
      u = { s with
        windows := u.windows, terms := u.terms
        link := s.link.replied r rest
          [byteOf w, 1, byteOf h.line, byteOf h.addr, byteOf (ReplyCode.code .denied)] } ∧
      u.window w = { s.window w with slot := none, outcome := .denied } ∧
      (∀ v, v ≠ w → u.window v = s.window v) ∧
      u.term n = { s.term n with record := { (s.term n).record with
        state := .answered
        result := some { code := .denied, position := none, index := none, conditions := none } } } ∧
      ∀ m, m ≠ n → u.term m = s.term m

/-! ### Queries, restart, start-up -/

/-- The six queries and CLEAR_COUNTERS: what the reply carries, item by item (`RepliesCarry`, and for the counters four bytes
each); a query changes nothing else, but that an ASK-INSTRUMENT of a stale entry rolls it first, with the offers and marks of
any roll (log entry 12), and CLEAR-COUNTERS leaves every counter 0. Beside TABLES 11-2 and 11-4 the bytes rest on the model's
reading (log entries 14 and 38) and on its choice of 1 for a set flag (log entry 46), and where the manual gives an item no
layout its bytes are free (log entry 13). After a query that changes nothing the arbiter makes no decision. -/
def Obligations.QueriesReport : Prop :=
  (∀ (r : LinkFrame) (rest : List LinkFrame) (s : State) (n : Nat),
    let x := beginService r rest s
    let done (bytes : List Byte) : Host.Outcome State Fault Refusal :=
      .next (noteTogether s { s with link := s.link.replied r rest bytes })
    let outOfRange : Host.Outcome State Fault Refusal := .next (noteTogether s (s.refusedHead r rest .range))
    (s.ready .askStatus r rest → read1 r.body = some n → exec .askStatus s =
      if n ≤ 5 then done (byteOf n :: statusBytes n x) else outOfRange) ∧
    (s.ready .askInstrument r rest → readIndex r.body = some n →
      (1023 < n → exec .askInstrument s = .next (finish s (s.refusedHead r rest .range))) ∧
      (n ≤ 1023 → ∃ e, EntryRead n s e ∧ exec .askInstrument s =
        .next (finish s { e with link := s.link.replied r rest (instrumentBytes (s.current n)) }))) ∧
    (s.ready .askRibbon r rest → read1 r.body = some n →
      (n = 0 → exec .askRibbon s = done (ribbonBytes .a s)) ∧ (n = 1 → exec .askRibbon s = done (ribbonBytes .b s)) ∧
      (1 < n → exec .askRibbon s = outOfRange)) ∧
    ∀ a b, read2 r.body = some (a, b) →
      (s.ready .askCell r rest → exec .askCell s =
        if a ≤ 7 ∧ b ≤ 63 then done (cellBytes a b s ++ slotBytes a b s) else outOfRange) ∧
      (s.ready .askTerminal r rest → exec .askTerminal s =
        if a ≤ 3 ∧ b ≤ 15 then done (terminalBytes a b s ++ watchBytes (s.term (termNo a b))) else outOfRange)) ∧
  (∃ cells watched pending before, ∀ s : State, RepliesCarry cells watched pending before s) ∧
  ∀ (r : LinkFrame) (rest : List LinkFrame) (s : State), r.body = [] →
    let bytes := (List.range 24).flatMap (fun n => beField 4 (Table.get 0 s.counters n))
    (s.ready .askCounters r rest →
      exec .askCounters s = .next (noteTogether s { s with link := s.link.replied r rest bytes })) ∧
    (s.ready .clearCounters r rest → ∃ u,
      exec .clearCounters s = .next (finish s u) ∧
        u = { s with counters := u.counters, link := s.link.replied r rest bytes } ∧ ∀ c, u.counter c = 0)

/-- RESTART: configurations are kept, work in flight is dropped, every bound or held cell is queued, the terminals rejoin,
and the reply counts the requests and notice items discarded. The Format Unit is left IDLE: its first decision comes with
the next event (log entry 36). That VACANT terminals too are marked as owing a full page, that a RUNNING ribbon's first
character goes out inside the command, and that the output of a ribbon that is STOPPED after it falls idle inside it, is
the model's (log entries 25 and 16). -/
def Obligations.RestartBringsEveryBlockBack : Prop :=
  ∀ (r : LinkFrame) (rest : List LinkFrame) (s : State), s.ready .restart r rest → r.body = [] →
    ∃ u, exec .restart s = .next (noteTogether s u) ∧
      u = { s with
        fu := { job := none, pointer := 13, holder := none, runCount := 0, runLength := s.fu.runLength }
        cells := u.cells, queues := u.queues, lines := u.lines, slots := u.slots, ribbonA := u.ribbonA
        ribbonB := u.ribbonB, tlines := u.tlines, terms := u.terms, windows := u.windows
        link := { s.link with
          requests := [], notices := [], inService := none
          replies := s.link.replies ++
            [{ kind := 0xA0, tag := r.tag
               body := r.kind :: (numBytes 1 rest.length ++ numBytes 2 s.link.notices.length) }] } } ∧
      (∀ c, u.cell c = { s.cell c with flashCount := 0, tradeMark := false, prevChars := none, needsFull := false }) ∧
      (∀ n, n < 8 → u.refreshQueue n = liveCells n s) ∧
      (∀ n, n < 8 → let l := s.line n; let y := u.line n
        (y.state, y.size, y.offset, y.enabled, y.rate, y.darkDelay) =
          (l.state, l.size, l.offset, l.enabled, l.rate, l.darkDelay) ∧ y.darkTimer = none ∧
        (l.state ≠ .lit → y.scrub = l.enabled.head?) ∧
        (l.state = .lit → (l.enabled = [] → y.scrub = none) ∧
          ∀ p, l.enabled.head? = some p → l.enabled.Pairwise (· < ·) → ScrubNext l.enabled p y.scrub) ∧
        (l.state = .off → y.frame = none) ∧
        (l.state ≠ .off → ∃ f, y.frame = some f ∧ FrameBegun l f ∧
          ∀ it ∈ f.items, it.slot < 64 → it.command = if l.state = .dark then .blank else .sense)) ∧
      (∀ n k, n < 8 → k < 64 → u.slotState (cellNo n k) = SlotState.cold) ∧
      (∀ id, let x := s.ribbon id; let y := u.ribbon id
        (y.mask, y.rate, y.up1, y.up2, y.up3, y.trim) = (x.mask, x.rate, x.up1, x.up2, x.up3, x.trim) ∧
        (y.queue, y.fifo, y.mode, y.dwell, y.anchors) = ([], [], .normal, 0, []) ∧
        (y.preceding, y.lateFigure, y.lateAge) = (none, none, 120) ∧
        (y.period, y.output) = (if y.state = .running then (some x.rate, some ' ') else (none, none)) ∧
        y.state = if x.state = .off then .off else if closedOrAfter s.session.state then .stopped else .running) ∧
      (∀ n, n < 64 → let x := s.term n; let y := u.term n
        y.state = (if x.state = .vacant then .vacant else .joining) ∧ y.exempt = x.exempt ∧
        (y.retry, y.lapse, y.outBlock, y.record) = (0, 0, none, RequestRecord.cold) ∧
        (y.fullPage, y.statusOwed, y.idleOwed, y.readySent, y.changed) = (true, false, false, true, false) ∧
        (y.watchList, y.page, y.rows) = (x.watchList, x.page, []) ∧
        ∀ k, k < 4 → y.alert k = { x.alert k with marked := false }) ∧
      (∀ n, n < 4 →
        let l (x : Option Round) : TermLine := { s.tline n with
          round := x, roundCount := 0, quietCount := 0, attention := false, compose := 15, slot := none }
        (s.admitted n → u.tline n = l (some { last := none, wide := true })) ∧ (¬s.admitted n → u.tline n = l none)) ∧
      ∀ w, w < 4 → u.window w =
        if (s.window w).slot.isSome then { s.window w with slot := none, outcome := .cancelled } else s.window w

/-- LAYOUT_RECORD_READ: a LINE record configures its line, a SLOT record its cell, END ends the load LOADED, 0xFF in byte
0 of record 0 ends it EMPTY; a silent PROM, a wrong sum, a kind or a value outside the table, and a last record that is
not END end it BAD. After a record taken the load position advances; at a record that ends the load it stays (log entry
41). -/
def Obligations.LayoutRecordsAreTaken : Prop :=
  ∀ (s : State), s.resetAsserted = false → s.loader.result = .inProgress →
    (∃ u, exec (.layoutRecordRead .silent) s = .next (finish s u) ∧
      LoadEnded .bad (some .promSilent) (some s.loader.pos) s u) ∧
    ∀ k b1 b2 b3 b4 b5 b6 b7 : Byte,
      let read := Instr.layoutRecordRead (.record [k, b1, b2, b3, b4, b5, b6, b7])
      let sum := (k.toNat + b1.toNat + b2.toNat + b3.toNat + b4.toNat + b5.toNat + b6.toNat) % 256 = b7.toNat
      let badContent := ∃ u, exec read s = .next (finish s u) ∧ LoadEnded .bad (some .content) (some s.loader.pos) s u
      let goesOn (v : State) :=
        (s.loader.pos ≠ 511 → exec read s =
          .next (finish s { v with loader := { v.loader with pos := s.loader.pos + 1 } })) ∧
        (s.loader.pos = 511 → ∃ u, exec read s = .next (finish s u) ∧ LoadEnded .bad (some .noEnd) (some 511) v u)
      let lineGood := b1.toNat ≤ 7 ∧ 8 ≤ b2.toNat ∧ b2.toNat ≤ 64 ∧ b3.toNat ≤ 15 ∧ (b4 = 5 ∨ b4 = 10 ∨ b4 = 20)
      let slotGood := b1.toNat ≤ 7 ∧ b2.toNat ≤ 63 ∧ 1 ≤ b3.toNat ∧ b3.toNat ≤ 10 ∧ b4.toNat ≤ 7 ∧
        (b5 = 0xFF ∧ b6 = 0xFF ∨ b5.toNat ≤ 3)
      ((s.loader.pos = 0 → k = 0xFF → ∃ u, exec read s = .next (finish s u) ∧ LoadEnded .empty none none s u) ∧
        (s.loader.pos ≠ 0 ∨ k ≠ 0xFF → ¬sum → ∃ u, exec read s = .next (finish s u) ∧
          LoadEnded .bad (some .check) (some s.loader.pos) s u) ∧
        (sum → s.loader.pos ≠ 0 ∨ k ≠ 0xFF → k ≠ 0x01 → k ≠ 0x02 → k ≠ 0x03 → badContent) ∧
        (sum → k = 0x01 → ¬lineGood → badContent) ∧ (sum → k = 0x02 → ¬slotGood → badContent) ∧
        (sum → k = 0x03 → ∃ u, exec read s = .next (finish s u) ∧ LoadEnded .loaded none none s u)) ∧
      (sum → k = 0x01 → lineGood →
        ∃ v, goesOn v ∧
          v = { s with
            lines := v.lines
            loader := { s.loader with lineCount := s.loader.lineCount + 1, lines := v.loader.lines } } ∧
          (∀ n, n ∈ v.loader.lines ↔ n ∈ s.loader.lines ∨ n = b1.toNat) ∧
          v.line b1.toNat = { s.line b1.toNat with
            size := b2.toNat, offset := b3.toNat, rate := b4.toNat, enabled := List.range b2.toNat, darkDelay := 0 } ∧
          ∀ n, n ≠ b1.toNat → v.line n = s.line n) ∧
      ∀ f, sum → k = 0x02 → slotGood → fieldOf b4.toNat = some f →
        let c := cellNo b1.toNat b2.toNat
        let i := 256 * b5.toNat + b6.toNat
        ∃ v, goesOn v ∧
          v = { s with
            cells := v.cells, entries := v.entries
            loader := { s.loader with slotCount := s.loader.slotCount + 1, cells := v.loader.cells } } ∧
          (∀ d, d ∈ v.loader.cells ↔ d ∈ s.loader.cells ∨ d = c) ∧ (∀ d, d ≠ c → v.cell d = s.cell d) ∧
          v.cell c = { s.cell c with
            field := f, width := b3.toNat
            binding :=
              if b5 = 0xFF then none
              else if (s.cell c).binding = some i ∨ (s.entry i).cells.length < 4 then some i else none } ∧
          (b5 ≠ 0xFF → (s.cell c).binding = some i → v.entries = s.entries) ∧
          (b5 ≠ 0xFF → (s.cell c).binding ≠ some i → (s.entry i).cells.length < 4 →
            v.entry i = { s.entry i with cells := (s.entry i).cells ++ [c] }) ∧
          (∀ j, (s.cell c).binding = some j → (b5 = 0xFF ∨ j ≠ i) →
            v.entry j = { s.entry j with cells := (s.entry j).cells.filter (fun d => decide (d ≠ c)) }) ∧
          ∀ j, (s.cell c).binding ≠ some j → (b5 = 0xFF ∨ j ≠ i ∨ 4 ≤ (s.entry i).cells.length) →
            v.entry j = s.entry j
end

