-- ==== Sys2Proof/Laws/State.lean ====
section
/-! SUPPORT. What each named update of the state does to each field and to each named read: one lemma each. -/

namespace Sys2Proof.Machine

variable (s : State)


/-! ### setEntry -/

@[simp] theorem State.setEntry_pending (i : Nat) (v : Entry) : (s.setEntry i v).pending = s.pending := rfl
@[simp] theorem State.setEntry_free (i : Nat) (v : Entry) : (s.setEntry i v).free = s.free := rfl
@[simp] theorem State.setEntry_resetAsserted (i : Nat) (v : Entry) : (s.setEntry i v).resetAsserted = s.resetAsserted := rfl
@[simp] theorem State.setEntry_link (i : Nat) (v : Entry) : (s.setEntry i v).link = s.link := rfl
@[simp] theorem State.setEntry_loader (i : Nat) (v : Entry) : (s.setEntry i v).loader = s.loader := rfl
@[simp] theorem State.setEntry_entries (i : Nat) (v : Entry) : (s.setEntry i v).entries = Table.set Entry.cold s.entries i v := rfl
@[simp] theorem State.setEntry_directory (i : Nat) (v : Entry) : (s.setEntry i v).directory = s.directory := rfl
@[simp] theorem State.setEntry_dayNumber (i : Nat) (v : Entry) : (s.setEntry i v).dayNumber = s.dayNumber := rfl
@[simp] theorem State.setEntry_walkActive (i : Nat) (v : Entry) : (s.setEntry i v).walkActive = s.walkActive := rfl
@[simp] theorem State.setEntry_walkPos (i : Nat) (v : Entry) : (s.setEntry i v).walkPos = s.walkPos := rfl
@[simp] theorem State.setEntry_clock (i : Nat) (v : Entry) : (s.setEntry i v).clock = s.clock := rfl
@[simp] theorem State.setEntry_sched (i : Nat) (v : Entry) : (s.setEntry i v).sched = s.sched := rfl
@[simp] theorem State.setEntry_session (i : Nat) (v : Entry) : (s.setEntry i v).session = s.session := rfl
@[simp] theorem State.setEntry_fu (i : Nat) (v : Entry) : (s.setEntry i v).fu = s.fu := rfl
@[simp] theorem State.setEntry_cells (i : Nat) (v : Entry) : (s.setEntry i v).cells = s.cells := rfl
@[simp] theorem State.setEntry_flashPeriod (i : Nat) (v : Entry) : (s.setEntry i v).flashPeriod = s.flashPeriod := rfl
@[simp] theorem State.setEntry_queues (i : Nat) (v : Entry) : (s.setEntry i v).queues = s.queues := rfl
@[simp] theorem State.setEntry_lines (i : Nat) (v : Entry) : (s.setEntry i v).lines = s.lines := rfl
@[simp] theorem State.setEntry_slots (i : Nat) (v : Entry) : (s.setEntry i v).slots = s.slots := rfl
@[simp] theorem State.setEntry_displays (i : Nat) (v : Entry) : (s.setEntry i v).displays = s.displays := rfl
@[simp] theorem State.setEntry_ribbonA (i : Nat) (v : Entry) : (s.setEntry i v).ribbonA = s.ribbonA := rfl
@[simp] theorem State.setEntry_ribbonB (i : Nat) (v : Entry) : (s.setEntry i v).ribbonB = s.ribbonB := rfl
@[simp] theorem State.setEntry_tlines (i : Nat) (v : Entry) : (s.setEntry i v).tlines = s.tlines := rfl
@[simp] theorem State.setEntry_terms (i : Nat) (v : Entry) : (s.setEntry i v).terms = s.terms := rfl
@[simp] theorem State.setEntry_windows (i : Nat) (v : Entry) : (s.setEntry i v).windows = s.windows := rfl
@[simp] theorem State.setEntry_counters (i : Nat) (v : Entry) : (s.setEntry i v).counters = s.counters := rfl
@[simp] theorem State.setEntry_schedEntry (i : Nat) (v : Entry) (j : Nat) : (s.setEntry i v).schedEntry j = s.schedEntry j := rfl
@[simp] theorem State.setEntry_cell (i : Nat) (v : Entry) (j : Nat) : (s.setEntry i v).cell j = s.cell j := rfl
@[simp] theorem State.setEntry_refreshQueue (i : Nat) (v : Entry) (j : Nat) : (s.setEntry i v).refreshQueue j = s.refreshQueue j := rfl
@[simp] theorem State.setEntry_line (i : Nat) (v : Entry) (j : Nat) : (s.setEntry i v).line j = s.line j := rfl
@[simp] theorem State.setEntry_slotState (i : Nat) (v : Entry) (j : Nat) : (s.setEntry i v).slotState j = s.slotState j := rfl
@[simp] theorem State.setEntry_display (i : Nat) (v : Entry) (j k : Nat) : (s.setEntry i v).display j k = s.display j k := rfl
@[simp] theorem State.setEntry_tline (i : Nat) (v : Entry) (j : Nat) : (s.setEntry i v).tline j = s.tline j := rfl
@[simp] theorem State.setEntry_term (i : Nat) (v : Entry) (j : Nat) : (s.setEntry i v).term j = s.term j := rfl
@[simp] theorem State.setEntry_window (i : Nat) (v : Entry) (j : Nat) : (s.setEntry i v).window j = s.window j := rfl
@[simp] theorem State.setEntry_counter (i : Nat) (v : Entry) (j : Counter) : (s.setEntry i v).counter j = s.counter j := rfl
@[simp] theorem State.setEntry_ribbon (i : Nat) (v : Entry) (id : RibbonId) : (s.setEntry i v).ribbon id = s.ribbon id := by cases id <;> rfl

/-! ### setSched -/

@[simp] theorem State.setSched_pending (i : Nat) (v : SchedEntry) : (s.setSched i v).pending = s.pending := rfl
@[simp] theorem State.setSched_free (i : Nat) (v : SchedEntry) : (s.setSched i v).free = s.free := rfl
@[simp] theorem State.setSched_resetAsserted (i : Nat) (v : SchedEntry) : (s.setSched i v).resetAsserted = s.resetAsserted := rfl
@[simp] theorem State.setSched_link (i : Nat) (v : SchedEntry) : (s.setSched i v).link = s.link := rfl
@[simp] theorem State.setSched_loader (i : Nat) (v : SchedEntry) : (s.setSched i v).loader = s.loader := rfl
@[simp] theorem State.setSched_entries (i : Nat) (v : SchedEntry) : (s.setSched i v).entries = s.entries := rfl
@[simp] theorem State.setSched_directory (i : Nat) (v : SchedEntry) : (s.setSched i v).directory = s.directory := rfl
@[simp] theorem State.setSched_dayNumber (i : Nat) (v : SchedEntry) : (s.setSched i v).dayNumber = s.dayNumber := rfl
@[simp] theorem State.setSched_walkActive (i : Nat) (v : SchedEntry) : (s.setSched i v).walkActive = s.walkActive := rfl
@[simp] theorem State.setSched_walkPos (i : Nat) (v : SchedEntry) : (s.setSched i v).walkPos = s.walkPos := rfl
@[simp] theorem State.setSched_clock (i : Nat) (v : SchedEntry) : (s.setSched i v).clock = s.clock := rfl
@[simp] theorem State.setSched_sched (i : Nat) (v : SchedEntry) : (s.setSched i v).sched = Table.set SchedEntry.cold s.sched i v := rfl
@[simp] theorem State.setSched_session (i : Nat) (v : SchedEntry) : (s.setSched i v).session = s.session := rfl
@[simp] theorem State.setSched_fu (i : Nat) (v : SchedEntry) : (s.setSched i v).fu = s.fu := rfl
@[simp] theorem State.setSched_cells (i : Nat) (v : SchedEntry) : (s.setSched i v).cells = s.cells := rfl
@[simp] theorem State.setSched_flashPeriod (i : Nat) (v : SchedEntry) : (s.setSched i v).flashPeriod = s.flashPeriod := rfl
@[simp] theorem State.setSched_queues (i : Nat) (v : SchedEntry) : (s.setSched i v).queues = s.queues := rfl
@[simp] theorem State.setSched_lines (i : Nat) (v : SchedEntry) : (s.setSched i v).lines = s.lines := rfl
@[simp] theorem State.setSched_slots (i : Nat) (v : SchedEntry) : (s.setSched i v).slots = s.slots := rfl
@[simp] theorem State.setSched_displays (i : Nat) (v : SchedEntry) : (s.setSched i v).displays = s.displays := rfl
@[simp] theorem State.setSched_ribbonA (i : Nat) (v : SchedEntry) : (s.setSched i v).ribbonA = s.ribbonA := rfl
@[simp] theorem State.setSched_ribbonB (i : Nat) (v : SchedEntry) : (s.setSched i v).ribbonB = s.ribbonB := rfl
@[simp] theorem State.setSched_tlines (i : Nat) (v : SchedEntry) : (s.setSched i v).tlines = s.tlines := rfl
@[simp] theorem State.setSched_terms (i : Nat) (v : SchedEntry) : (s.setSched i v).terms = s.terms := rfl
@[simp] theorem State.setSched_windows (i : Nat) (v : SchedEntry) : (s.setSched i v).windows = s.windows := rfl
@[simp] theorem State.setSched_counters (i : Nat) (v : SchedEntry) : (s.setSched i v).counters = s.counters := rfl
@[simp] theorem State.setSched_entry (i : Nat) (v : SchedEntry) (j : Nat) : (s.setSched i v).entry j = s.entry j := rfl
@[simp] theorem State.setSched_cell (i : Nat) (v : SchedEntry) (j : Nat) : (s.setSched i v).cell j = s.cell j := rfl
@[simp] theorem State.setSched_refreshQueue (i : Nat) (v : SchedEntry) (j : Nat) : (s.setSched i v).refreshQueue j = s.refreshQueue j := rfl
@[simp] theorem State.setSched_line (i : Nat) (v : SchedEntry) (j : Nat) : (s.setSched i v).line j = s.line j := rfl
@[simp] theorem State.setSched_slotState (i : Nat) (v : SchedEntry) (j : Nat) : (s.setSched i v).slotState j = s.slotState j := rfl
@[simp] theorem State.setSched_display (i : Nat) (v : SchedEntry) (j k : Nat) : (s.setSched i v).display j k = s.display j k := rfl
@[simp] theorem State.setSched_tline (i : Nat) (v : SchedEntry) (j : Nat) : (s.setSched i v).tline j = s.tline j := rfl
@[simp] theorem State.setSched_term (i : Nat) (v : SchedEntry) (j : Nat) : (s.setSched i v).term j = s.term j := rfl
@[simp] theorem State.setSched_window (i : Nat) (v : SchedEntry) (j : Nat) : (s.setSched i v).window j = s.window j := rfl
@[simp] theorem State.setSched_counter (i : Nat) (v : SchedEntry) (j : Counter) : (s.setSched i v).counter j = s.counter j := rfl
@[simp] theorem State.setSched_ribbon (i : Nat) (v : SchedEntry) (id : RibbonId) : (s.setSched i v).ribbon id = s.ribbon id := by cases id <;> rfl

/-! ### setCell -/

@[simp] theorem State.setCell_pending (i : Nat) (v : Cell) : (s.setCell i v).pending = s.pending := rfl
@[simp] theorem State.setCell_free (i : Nat) (v : Cell) : (s.setCell i v).free = s.free := rfl
@[simp] theorem State.setCell_resetAsserted (i : Nat) (v : Cell) : (s.setCell i v).resetAsserted = s.resetAsserted := rfl
@[simp] theorem State.setCell_link (i : Nat) (v : Cell) : (s.setCell i v).link = s.link := rfl
@[simp] theorem State.setCell_loader (i : Nat) (v : Cell) : (s.setCell i v).loader = s.loader := rfl
@[simp] theorem State.setCell_entries (i : Nat) (v : Cell) : (s.setCell i v).entries = s.entries := rfl
@[simp] theorem State.setCell_directory (i : Nat) (v : Cell) : (s.setCell i v).directory = s.directory := rfl
@[simp] theorem State.setCell_dayNumber (i : Nat) (v : Cell) : (s.setCell i v).dayNumber = s.dayNumber := rfl
@[simp] theorem State.setCell_walkActive (i : Nat) (v : Cell) : (s.setCell i v).walkActive = s.walkActive := rfl
@[simp] theorem State.setCell_walkPos (i : Nat) (v : Cell) : (s.setCell i v).walkPos = s.walkPos := rfl
@[simp] theorem State.setCell_clock (i : Nat) (v : Cell) : (s.setCell i v).clock = s.clock := rfl
@[simp] theorem State.setCell_sched (i : Nat) (v : Cell) : (s.setCell i v).sched = s.sched := rfl
@[simp] theorem State.setCell_session (i : Nat) (v : Cell) : (s.setCell i v).session = s.session := rfl
@[simp] theorem State.setCell_fu (i : Nat) (v : Cell) : (s.setCell i v).fu = s.fu := rfl
@[simp] theorem State.setCell_cells (i : Nat) (v : Cell) : (s.setCell i v).cells = Table.set Cell.cold s.cells i v := rfl
@[simp] theorem State.setCell_flashPeriod (i : Nat) (v : Cell) : (s.setCell i v).flashPeriod = s.flashPeriod := rfl
@[simp] theorem State.setCell_queues (i : Nat) (v : Cell) : (s.setCell i v).queues = s.queues := rfl
@[simp] theorem State.setCell_lines (i : Nat) (v : Cell) : (s.setCell i v).lines = s.lines := rfl
@[simp] theorem State.setCell_slots (i : Nat) (v : Cell) : (s.setCell i v).slots = s.slots := rfl
@[simp] theorem State.setCell_displays (i : Nat) (v : Cell) : (s.setCell i v).displays = s.displays := rfl
@[simp] theorem State.setCell_ribbonA (i : Nat) (v : Cell) : (s.setCell i v).ribbonA = s.ribbonA := rfl
@[simp] theorem State.setCell_ribbonB (i : Nat) (v : Cell) : (s.setCell i v).ribbonB = s.ribbonB := rfl
@[simp] theorem State.setCell_tlines (i : Nat) (v : Cell) : (s.setCell i v).tlines = s.tlines := rfl
@[simp] theorem State.setCell_terms (i : Nat) (v : Cell) : (s.setCell i v).terms = s.terms := rfl
@[simp] theorem State.setCell_windows (i : Nat) (v : Cell) : (s.setCell i v).windows = s.windows := rfl
@[simp] theorem State.setCell_counters (i : Nat) (v : Cell) : (s.setCell i v).counters = s.counters := rfl
@[simp] theorem State.setCell_entry (i : Nat) (v : Cell) (j : Nat) : (s.setCell i v).entry j = s.entry j := rfl
@[simp] theorem State.setCell_schedEntry (i : Nat) (v : Cell) (j : Nat) : (s.setCell i v).schedEntry j = s.schedEntry j := rfl
@[simp] theorem State.setCell_refreshQueue (i : Nat) (v : Cell) (j : Nat) : (s.setCell i v).refreshQueue j = s.refreshQueue j := rfl
@[simp] theorem State.setCell_line (i : Nat) (v : Cell) (j : Nat) : (s.setCell i v).line j = s.line j := rfl
@[simp] theorem State.setCell_slotState (i : Nat) (v : Cell) (j : Nat) : (s.setCell i v).slotState j = s.slotState j := rfl
@[simp] theorem State.setCell_display (i : Nat) (v : Cell) (j k : Nat) : (s.setCell i v).display j k = s.display j k := rfl
@[simp] theorem State.setCell_tline (i : Nat) (v : Cell) (j : Nat) : (s.setCell i v).tline j = s.tline j := rfl
@[simp] theorem State.setCell_term (i : Nat) (v : Cell) (j : Nat) : (s.setCell i v).term j = s.term j := rfl
@[simp] theorem State.setCell_window (i : Nat) (v : Cell) (j : Nat) : (s.setCell i v).window j = s.window j := rfl
@[simp] theorem State.setCell_counter (i : Nat) (v : Cell) (j : Counter) : (s.setCell i v).counter j = s.counter j := rfl
@[simp] theorem State.setCell_ribbon (i : Nat) (v : Cell) (id : RibbonId) : (s.setCell i v).ribbon id = s.ribbon id := by cases id <;> rfl

/-! ### setQueue -/

@[simp] theorem State.setQueue_pending (i : Nat) (v : List Nat) : (s.setQueue i v).pending = s.pending := rfl
@[simp] theorem State.setQueue_free (i : Nat) (v : List Nat) : (s.setQueue i v).free = s.free := rfl
@[simp] theorem State.setQueue_resetAsserted (i : Nat) (v : List Nat) : (s.setQueue i v).resetAsserted = s.resetAsserted := rfl
@[simp] theorem State.setQueue_link (i : Nat) (v : List Nat) : (s.setQueue i v).link = s.link := rfl
@[simp] theorem State.setQueue_loader (i : Nat) (v : List Nat) : (s.setQueue i v).loader = s.loader := rfl
@[simp] theorem State.setQueue_entries (i : Nat) (v : List Nat) : (s.setQueue i v).entries = s.entries := rfl
@[simp] theorem State.setQueue_directory (i : Nat) (v : List Nat) : (s.setQueue i v).directory = s.directory := rfl
@[simp] theorem State.setQueue_dayNumber (i : Nat) (v : List Nat) : (s.setQueue i v).dayNumber = s.dayNumber := rfl
@[simp] theorem State.setQueue_walkActive (i : Nat) (v : List Nat) : (s.setQueue i v).walkActive = s.walkActive := rfl
@[simp] theorem State.setQueue_walkPos (i : Nat) (v : List Nat) : (s.setQueue i v).walkPos = s.walkPos := rfl
@[simp] theorem State.setQueue_clock (i : Nat) (v : List Nat) : (s.setQueue i v).clock = s.clock := rfl
@[simp] theorem State.setQueue_sched (i : Nat) (v : List Nat) : (s.setQueue i v).sched = s.sched := rfl
@[simp] theorem State.setQueue_session (i : Nat) (v : List Nat) : (s.setQueue i v).session = s.session := rfl
@[simp] theorem State.setQueue_fu (i : Nat) (v : List Nat) : (s.setQueue i v).fu = s.fu := rfl
@[simp] theorem State.setQueue_cells (i : Nat) (v : List Nat) : (s.setQueue i v).cells = s.cells := rfl
@[simp] theorem State.setQueue_flashPeriod (i : Nat) (v : List Nat) : (s.setQueue i v).flashPeriod = s.flashPeriod := rfl
@[simp] theorem State.setQueue_queues (i : Nat) (v : List Nat) : (s.setQueue i v).queues = Table.set [] s.queues i v := rfl
@[simp] theorem State.setQueue_lines (i : Nat) (v : List Nat) : (s.setQueue i v).lines = s.lines := rfl
@[simp] theorem State.setQueue_slots (i : Nat) (v : List Nat) : (s.setQueue i v).slots = s.slots := rfl
@[simp] theorem State.setQueue_displays (i : Nat) (v : List Nat) : (s.setQueue i v).displays = s.displays := rfl
@[simp] theorem State.setQueue_ribbonA (i : Nat) (v : List Nat) : (s.setQueue i v).ribbonA = s.ribbonA := rfl
@[simp] theorem State.setQueue_ribbonB (i : Nat) (v : List Nat) : (s.setQueue i v).ribbonB = s.ribbonB := rfl
@[simp] theorem State.setQueue_tlines (i : Nat) (v : List Nat) : (s.setQueue i v).tlines = s.tlines := rfl
@[simp] theorem State.setQueue_terms (i : Nat) (v : List Nat) : (s.setQueue i v).terms = s.terms := rfl
@[simp] theorem State.setQueue_windows (i : Nat) (v : List Nat) : (s.setQueue i v).windows = s.windows := rfl
@[simp] theorem State.setQueue_counters (i : Nat) (v : List Nat) : (s.setQueue i v).counters = s.counters := rfl
@[simp] theorem State.setQueue_entry (i : Nat) (v : List Nat) (j : Nat) : (s.setQueue i v).entry j = s.entry j := rfl
@[simp] theorem State.setQueue_schedEntry (i : Nat) (v : List Nat) (j : Nat) : (s.setQueue i v).schedEntry j = s.schedEntry j := rfl
@[simp] theorem State.setQueue_cell (i : Nat) (v : List Nat) (j : Nat) : (s.setQueue i v).cell j = s.cell j := rfl
@[simp] theorem State.setQueue_line (i : Nat) (v : List Nat) (j : Nat) : (s.setQueue i v).line j = s.line j := rfl
@[simp] theorem State.setQueue_slotState (i : Nat) (v : List Nat) (j : Nat) : (s.setQueue i v).slotState j = s.slotState j := rfl
@[simp] theorem State.setQueue_display (i : Nat) (v : List Nat) (j k : Nat) : (s.setQueue i v).display j k = s.display j k := rfl
@[simp] theorem State.setQueue_tline (i : Nat) (v : List Nat) (j : Nat) : (s.setQueue i v).tline j = s.tline j := rfl
@[simp] theorem State.setQueue_term (i : Nat) (v : List Nat) (j : Nat) : (s.setQueue i v).term j = s.term j := rfl
@[simp] theorem State.setQueue_window (i : Nat) (v : List Nat) (j : Nat) : (s.setQueue i v).window j = s.window j := rfl
@[simp] theorem State.setQueue_counter (i : Nat) (v : List Nat) (j : Counter) : (s.setQueue i v).counter j = s.counter j := rfl
@[simp] theorem State.setQueue_ribbon (i : Nat) (v : List Nat) (id : RibbonId) : (s.setQueue i v).ribbon id = s.ribbon id := by cases id <;> rfl

/-! ### setLine -/

@[simp] theorem State.setLine_pending (i : Nat) (v : BoardLine) : (s.setLine i v).pending = s.pending := rfl
@[simp] theorem State.setLine_free (i : Nat) (v : BoardLine) : (s.setLine i v).free = s.free := rfl
@[simp] theorem State.setLine_resetAsserted (i : Nat) (v : BoardLine) : (s.setLine i v).resetAsserted = s.resetAsserted := rfl
@[simp] theorem State.setLine_link (i : Nat) (v : BoardLine) : (s.setLine i v).link = s.link := rfl
@[simp] theorem State.setLine_loader (i : Nat) (v : BoardLine) : (s.setLine i v).loader = s.loader := rfl
@[simp] theorem State.setLine_entries (i : Nat) (v : BoardLine) : (s.setLine i v).entries = s.entries := rfl
@[simp] theorem State.setLine_directory (i : Nat) (v : BoardLine) : (s.setLine i v).directory = s.directory := rfl
@[simp] theorem State.setLine_dayNumber (i : Nat) (v : BoardLine) : (s.setLine i v).dayNumber = s.dayNumber := rfl
@[simp] theorem State.setLine_walkActive (i : Nat) (v : BoardLine) : (s.setLine i v).walkActive = s.walkActive := rfl
@[simp] theorem State.setLine_walkPos (i : Nat) (v : BoardLine) : (s.setLine i v).walkPos = s.walkPos := rfl
@[simp] theorem State.setLine_clock (i : Nat) (v : BoardLine) : (s.setLine i v).clock = s.clock := rfl
@[simp] theorem State.setLine_sched (i : Nat) (v : BoardLine) : (s.setLine i v).sched = s.sched := rfl
@[simp] theorem State.setLine_session (i : Nat) (v : BoardLine) : (s.setLine i v).session = s.session := rfl
@[simp] theorem State.setLine_fu (i : Nat) (v : BoardLine) : (s.setLine i v).fu = s.fu := rfl
@[simp] theorem State.setLine_cells (i : Nat) (v : BoardLine) : (s.setLine i v).cells = s.cells := rfl
@[simp] theorem State.setLine_flashPeriod (i : Nat) (v : BoardLine) : (s.setLine i v).flashPeriod = s.flashPeriod := rfl
@[simp] theorem State.setLine_queues (i : Nat) (v : BoardLine) : (s.setLine i v).queues = s.queues := rfl
@[simp] theorem State.setLine_lines (i : Nat) (v : BoardLine) : (s.setLine i v).lines = Table.set BoardLine.cold s.lines i v := rfl
@[simp] theorem State.setLine_slots (i : Nat) (v : BoardLine) : (s.setLine i v).slots = s.slots := rfl
@[simp] theorem State.setLine_displays (i : Nat) (v : BoardLine) : (s.setLine i v).displays = s.displays := rfl
@[simp] theorem State.setLine_ribbonA (i : Nat) (v : BoardLine) : (s.setLine i v).ribbonA = s.ribbonA := rfl
@[simp] theorem State.setLine_ribbonB (i : Nat) (v : BoardLine) : (s.setLine i v).ribbonB = s.ribbonB := rfl
@[simp] theorem State.setLine_tlines (i : Nat) (v : BoardLine) : (s.setLine i v).tlines = s.tlines := rfl
@[simp] theorem State.setLine_terms (i : Nat) (v : BoardLine) : (s.setLine i v).terms = s.terms := rfl
@[simp] theorem State.setLine_windows (i : Nat) (v : BoardLine) : (s.setLine i v).windows = s.windows := rfl
@[simp] theorem State.setLine_counters (i : Nat) (v : BoardLine) : (s.setLine i v).counters = s.counters := rfl
@[simp] theorem State.setLine_entry (i : Nat) (v : BoardLine) (j : Nat) : (s.setLine i v).entry j = s.entry j := rfl
@[simp] theorem State.setLine_schedEntry (i : Nat) (v : BoardLine) (j : Nat) : (s.setLine i v).schedEntry j = s.schedEntry j := rfl
@[simp] theorem State.setLine_cell (i : Nat) (v : BoardLine) (j : Nat) : (s.setLine i v).cell j = s.cell j := rfl
@[simp] theorem State.setLine_refreshQueue (i : Nat) (v : BoardLine) (j : Nat) : (s.setLine i v).refreshQueue j = s.refreshQueue j := rfl
@[simp] theorem State.setLine_slotState (i : Nat) (v : BoardLine) (j : Nat) : (s.setLine i v).slotState j = s.slotState j := rfl
@[simp] theorem State.setLine_display (i : Nat) (v : BoardLine) (j k : Nat) : (s.setLine i v).display j k = s.display j k := rfl
@[simp] theorem State.setLine_tline (i : Nat) (v : BoardLine) (j : Nat) : (s.setLine i v).tline j = s.tline j := rfl
@[simp] theorem State.setLine_term (i : Nat) (v : BoardLine) (j : Nat) : (s.setLine i v).term j = s.term j := rfl
@[simp] theorem State.setLine_window (i : Nat) (v : BoardLine) (j : Nat) : (s.setLine i v).window j = s.window j := rfl
@[simp] theorem State.setLine_counter (i : Nat) (v : BoardLine) (j : Counter) : (s.setLine i v).counter j = s.counter j := rfl
@[simp] theorem State.setLine_ribbon (i : Nat) (v : BoardLine) (id : RibbonId) : (s.setLine i v).ribbon id = s.ribbon id := by cases id <;> rfl

/-! ### setSlot -/

@[simp] theorem State.setSlot_pending (i : Nat) (v : SlotState) : (s.setSlot i v).pending = s.pending := rfl
@[simp] theorem State.setSlot_free (i : Nat) (v : SlotState) : (s.setSlot i v).free = s.free := rfl
@[simp] theorem State.setSlot_resetAsserted (i : Nat) (v : SlotState) : (s.setSlot i v).resetAsserted = s.resetAsserted := rfl
@[simp] theorem State.setSlot_link (i : Nat) (v : SlotState) : (s.setSlot i v).link = s.link := rfl
@[simp] theorem State.setSlot_loader (i : Nat) (v : SlotState) : (s.setSlot i v).loader = s.loader := rfl
@[simp] theorem State.setSlot_entries (i : Nat) (v : SlotState) : (s.setSlot i v).entries = s.entries := rfl
@[simp] theorem State.setSlot_directory (i : Nat) (v : SlotState) : (s.setSlot i v).directory = s.directory := rfl
@[simp] theorem State.setSlot_dayNumber (i : Nat) (v : SlotState) : (s.setSlot i v).dayNumber = s.dayNumber := rfl
@[simp] theorem State.setSlot_walkActive (i : Nat) (v : SlotState) : (s.setSlot i v).walkActive = s.walkActive := rfl
@[simp] theorem State.setSlot_walkPos (i : Nat) (v : SlotState) : (s.setSlot i v).walkPos = s.walkPos := rfl
@[simp] theorem State.setSlot_clock (i : Nat) (v : SlotState) : (s.setSlot i v).clock = s.clock := rfl
@[simp] theorem State.setSlot_sched (i : Nat) (v : SlotState) : (s.setSlot i v).sched = s.sched := rfl
@[simp] theorem State.setSlot_session (i : Nat) (v : SlotState) : (s.setSlot i v).session = s.session := rfl
@[simp] theorem State.setSlot_fu (i : Nat) (v : SlotState) : (s.setSlot i v).fu = s.fu := rfl
@[simp] theorem State.setSlot_cells (i : Nat) (v : SlotState) : (s.setSlot i v).cells = s.cells := rfl
@[simp] theorem State.setSlot_flashPeriod (i : Nat) (v : SlotState) : (s.setSlot i v).flashPeriod = s.flashPeriod := rfl
@[simp] theorem State.setSlot_queues (i : Nat) (v : SlotState) : (s.setSlot i v).queues = s.queues := rfl
@[simp] theorem State.setSlot_lines (i : Nat) (v : SlotState) : (s.setSlot i v).lines = s.lines := rfl
@[simp] theorem State.setSlot_slots (i : Nat) (v : SlotState) : (s.setSlot i v).slots = Table.set SlotState.cold s.slots i v := rfl
@[simp] theorem State.setSlot_displays (i : Nat) (v : SlotState) : (s.setSlot i v).displays = s.displays := rfl
@[simp] theorem State.setSlot_ribbonA (i : Nat) (v : SlotState) : (s.setSlot i v).ribbonA = s.ribbonA := rfl
@[simp] theorem State.setSlot_ribbonB (i : Nat) (v : SlotState) : (s.setSlot i v).ribbonB = s.ribbonB := rfl
@[simp] theorem State.setSlot_tlines (i : Nat) (v : SlotState) : (s.setSlot i v).tlines = s.tlines := rfl
@[simp] theorem State.setSlot_terms (i : Nat) (v : SlotState) : (s.setSlot i v).terms = s.terms := rfl
@[simp] theorem State.setSlot_windows (i : Nat) (v : SlotState) : (s.setSlot i v).windows = s.windows := rfl
@[simp] theorem State.setSlot_counters (i : Nat) (v : SlotState) : (s.setSlot i v).counters = s.counters := rfl
@[simp] theorem State.setSlot_entry (i : Nat) (v : SlotState) (j : Nat) : (s.setSlot i v).entry j = s.entry j := rfl
@[simp] theorem State.setSlot_schedEntry (i : Nat) (v : SlotState) (j : Nat) : (s.setSlot i v).schedEntry j = s.schedEntry j := rfl
@[simp] theorem State.setSlot_cell (i : Nat) (v : SlotState) (j : Nat) : (s.setSlot i v).cell j = s.cell j := rfl
@[simp] theorem State.setSlot_refreshQueue (i : Nat) (v : SlotState) (j : Nat) : (s.setSlot i v).refreshQueue j = s.refreshQueue j := rfl
@[simp] theorem State.setSlot_line (i : Nat) (v : SlotState) (j : Nat) : (s.setSlot i v).line j = s.line j := rfl
@[simp] theorem State.setSlot_display (i : Nat) (v : SlotState) (j k : Nat) : (s.setSlot i v).display j k = s.display j k := rfl
@[simp] theorem State.setSlot_tline (i : Nat) (v : SlotState) (j : Nat) : (s.setSlot i v).tline j = s.tline j := rfl
@[simp] theorem State.setSlot_term (i : Nat) (v : SlotState) (j : Nat) : (s.setSlot i v).term j = s.term j := rfl
@[simp] theorem State.setSlot_window (i : Nat) (v : SlotState) (j : Nat) : (s.setSlot i v).window j = s.window j := rfl
@[simp] theorem State.setSlot_counter (i : Nat) (v : SlotState) (j : Counter) : (s.setSlot i v).counter j = s.counter j := rfl
@[simp] theorem State.setSlot_ribbon (i : Nat) (v : SlotState) (id : RibbonId) : (s.setSlot i v).ribbon id = s.ribbon id := by cases id <;> rfl

/-! ### setDisplay -/

@[simp] theorem State.setDisplay_pending (i a : Nat) (v : Display) : (s.setDisplay i a v).pending = s.pending := rfl
@[simp] theorem State.setDisplay_free (i a : Nat) (v : Display) : (s.setDisplay i a v).free = s.free := rfl
@[simp] theorem State.setDisplay_resetAsserted (i a : Nat) (v : Display) : (s.setDisplay i a v).resetAsserted = s.resetAsserted := rfl
@[simp] theorem State.setDisplay_link (i a : Nat) (v : Display) : (s.setDisplay i a v).link = s.link := rfl
@[simp] theorem State.setDisplay_loader (i a : Nat) (v : Display) : (s.setDisplay i a v).loader = s.loader := rfl
@[simp] theorem State.setDisplay_entries (i a : Nat) (v : Display) : (s.setDisplay i a v).entries = s.entries := rfl
@[simp] theorem State.setDisplay_directory (i a : Nat) (v : Display) : (s.setDisplay i a v).directory = s.directory := rfl
@[simp] theorem State.setDisplay_dayNumber (i a : Nat) (v : Display) : (s.setDisplay i a v).dayNumber = s.dayNumber := rfl
@[simp] theorem State.setDisplay_walkActive (i a : Nat) (v : Display) : (s.setDisplay i a v).walkActive = s.walkActive := rfl
@[simp] theorem State.setDisplay_walkPos (i a : Nat) (v : Display) : (s.setDisplay i a v).walkPos = s.walkPos := rfl
@[simp] theorem State.setDisplay_clock (i a : Nat) (v : Display) : (s.setDisplay i a v).clock = s.clock := rfl
@[simp] theorem State.setDisplay_sched (i a : Nat) (v : Display) : (s.setDisplay i a v).sched = s.sched := rfl
@[simp] theorem State.setDisplay_session (i a : Nat) (v : Display) : (s.setDisplay i a v).session = s.session := rfl
@[simp] theorem State.setDisplay_fu (i a : Nat) (v : Display) : (s.setDisplay i a v).fu = s.fu := rfl
@[simp] theorem State.setDisplay_cells (i a : Nat) (v : Display) : (s.setDisplay i a v).cells = s.cells := rfl
@[simp] theorem State.setDisplay_flashPeriod (i a : Nat) (v : Display) : (s.setDisplay i a v).flashPeriod = s.flashPeriod := rfl
@[simp] theorem State.setDisplay_queues (i a : Nat) (v : Display) : (s.setDisplay i a v).queues = s.queues := rfl
@[simp] theorem State.setDisplay_lines (i a : Nat) (v : Display) : (s.setDisplay i a v).lines = s.lines := rfl
@[simp] theorem State.setDisplay_slots (i a : Nat) (v : Display) : (s.setDisplay i a v).slots = s.slots := rfl
@[simp] theorem State.setDisplay_displays (i a : Nat) (v : Display) : (s.setDisplay i a v).displays = Table.set Display.unknown s.displays (79 * i + a) v := rfl
@[simp] theorem State.setDisplay_ribbonA (i a : Nat) (v : Display) : (s.setDisplay i a v).ribbonA = s.ribbonA := rfl
@[simp] theorem State.setDisplay_ribbonB (i a : Nat) (v : Display) : (s.setDisplay i a v).ribbonB = s.ribbonB := rfl
@[simp] theorem State.setDisplay_tlines (i a : Nat) (v : Display) : (s.setDisplay i a v).tlines = s.tlines := rfl
@[simp] theorem State.setDisplay_terms (i a : Nat) (v : Display) : (s.setDisplay i a v).terms = s.terms := rfl
@[simp] theorem State.setDisplay_windows (i a : Nat) (v : Display) : (s.setDisplay i a v).windows = s.windows := rfl
@[simp] theorem State.setDisplay_counters (i a : Nat) (v : Display) : (s.setDisplay i a v).counters = s.counters := rfl
@[simp] theorem State.setDisplay_entry (i a : Nat) (v : Display) (j : Nat) : (s.setDisplay i a v).entry j = s.entry j := rfl
@[simp] theorem State.setDisplay_schedEntry (i a : Nat) (v : Display) (j : Nat) : (s.setDisplay i a v).schedEntry j = s.schedEntry j := rfl
@[simp] theorem State.setDisplay_cell (i a : Nat) (v : Display) (j : Nat) : (s.setDisplay i a v).cell j = s.cell j := rfl
@[simp] theorem State.setDisplay_refreshQueue (i a : Nat) (v : Display) (j : Nat) : (s.setDisplay i a v).refreshQueue j = s.refreshQueue j := rfl
@[simp] theorem State.setDisplay_line (i a : Nat) (v : Display) (j : Nat) : (s.setDisplay i a v).line j = s.line j := rfl
@[simp] theorem State.setDisplay_slotState (i a : Nat) (v : Display) (j : Nat) : (s.setDisplay i a v).slotState j = s.slotState j := rfl
@[simp] theorem State.setDisplay_tline (i a : Nat) (v : Display) (j : Nat) : (s.setDisplay i a v).tline j = s.tline j := rfl
@[simp] theorem State.setDisplay_term (i a : Nat) (v : Display) (j : Nat) : (s.setDisplay i a v).term j = s.term j := rfl
@[simp] theorem State.setDisplay_window (i a : Nat) (v : Display) (j : Nat) : (s.setDisplay i a v).window j = s.window j := rfl
@[simp] theorem State.setDisplay_counter (i a : Nat) (v : Display) (j : Counter) : (s.setDisplay i a v).counter j = s.counter j := rfl
@[simp] theorem State.setDisplay_ribbon (i a : Nat) (v : Display) (id : RibbonId) : (s.setDisplay i a v).ribbon id = s.ribbon id := by cases id <;> rfl

/-! ### setTLine -/

@[simp] theorem State.setTLine_pending (i : Nat) (v : TermLine) : (s.setTLine i v).pending = s.pending := rfl
@[simp] theorem State.setTLine_free (i : Nat) (v : TermLine) : (s.setTLine i v).free = s.free := rfl
@[simp] theorem State.setTLine_resetAsserted (i : Nat) (v : TermLine) : (s.setTLine i v).resetAsserted = s.resetAsserted := rfl
@[simp] theorem State.setTLine_link (i : Nat) (v : TermLine) : (s.setTLine i v).link = s.link := rfl
@[simp] theorem State.setTLine_loader (i : Nat) (v : TermLine) : (s.setTLine i v).loader = s.loader := rfl
@[simp] theorem State.setTLine_entries (i : Nat) (v : TermLine) : (s.setTLine i v).entries = s.entries := rfl
@[simp] theorem State.setTLine_directory (i : Nat) (v : TermLine) : (s.setTLine i v).directory = s.directory := rfl
@[simp] theorem State.setTLine_dayNumber (i : Nat) (v : TermLine) : (s.setTLine i v).dayNumber = s.dayNumber := rfl
@[simp] theorem State.setTLine_walkActive (i : Nat) (v : TermLine) : (s.setTLine i v).walkActive = s.walkActive := rfl
@[simp] theorem State.setTLine_walkPos (i : Nat) (v : TermLine) : (s.setTLine i v).walkPos = s.walkPos := rfl
@[simp] theorem State.setTLine_clock (i : Nat) (v : TermLine) : (s.setTLine i v).clock = s.clock := rfl
@[simp] theorem State.setTLine_sched (i : Nat) (v : TermLine) : (s.setTLine i v).sched = s.sched := rfl
@[simp] theorem State.setTLine_session (i : Nat) (v : TermLine) : (s.setTLine i v).session = s.session := rfl
@[simp] theorem State.setTLine_fu (i : Nat) (v : TermLine) : (s.setTLine i v).fu = s.fu := rfl
@[simp] theorem State.setTLine_cells (i : Nat) (v : TermLine) : (s.setTLine i v).cells = s.cells := rfl
@[simp] theorem State.setTLine_flashPeriod (i : Nat) (v : TermLine) : (s.setTLine i v).flashPeriod = s.flashPeriod := rfl
@[simp] theorem State.setTLine_queues (i : Nat) (v : TermLine) : (s.setTLine i v).queues = s.queues := rfl
@[simp] theorem State.setTLine_lines (i : Nat) (v : TermLine) : (s.setTLine i v).lines = s.lines := rfl
@[simp] theorem State.setTLine_slots (i : Nat) (v : TermLine) : (s.setTLine i v).slots = s.slots := rfl
@[simp] theorem State.setTLine_displays (i : Nat) (v : TermLine) : (s.setTLine i v).displays = s.displays := rfl
@[simp] theorem State.setTLine_ribbonA (i : Nat) (v : TermLine) : (s.setTLine i v).ribbonA = s.ribbonA := rfl
@[simp] theorem State.setTLine_ribbonB (i : Nat) (v : TermLine) : (s.setTLine i v).ribbonB = s.ribbonB := rfl
@[simp] theorem State.setTLine_tlines (i : Nat) (v : TermLine) : (s.setTLine i v).tlines = Table.set TermLine.cold s.tlines i v := rfl
@[simp] theorem State.setTLine_terms (i : Nat) (v : TermLine) : (s.setTLine i v).terms = s.terms := rfl
@[simp] theorem State.setTLine_windows (i : Nat) (v : TermLine) : (s.setTLine i v).windows = s.windows := rfl
@[simp] theorem State.setTLine_counters (i : Nat) (v : TermLine) : (s.setTLine i v).counters = s.counters := rfl
@[simp] theorem State.setTLine_entry (i : Nat) (v : TermLine) (j : Nat) : (s.setTLine i v).entry j = s.entry j := rfl
@[simp] theorem State.setTLine_schedEntry (i : Nat) (v : TermLine) (j : Nat) : (s.setTLine i v).schedEntry j = s.schedEntry j := rfl
@[simp] theorem State.setTLine_cell (i : Nat) (v : TermLine) (j : Nat) : (s.setTLine i v).cell j = s.cell j := rfl
@[simp] theorem State.setTLine_refreshQueue (i : Nat) (v : TermLine) (j : Nat) : (s.setTLine i v).refreshQueue j = s.refreshQueue j := rfl
@[simp] theorem State.setTLine_line (i : Nat) (v : TermLine) (j : Nat) : (s.setTLine i v).line j = s.line j := rfl
@[simp] theorem State.setTLine_slotState (i : Nat) (v : TermLine) (j : Nat) : (s.setTLine i v).slotState j = s.slotState j := rfl
@[simp] theorem State.setTLine_display (i : Nat) (v : TermLine) (j k : Nat) : (s.setTLine i v).display j k = s.display j k := rfl
@[simp] theorem State.setTLine_term (i : Nat) (v : TermLine) (j : Nat) : (s.setTLine i v).term j = s.term j := rfl
@[simp] theorem State.setTLine_window (i : Nat) (v : TermLine) (j : Nat) : (s.setTLine i v).window j = s.window j := rfl
@[simp] theorem State.setTLine_counter (i : Nat) (v : TermLine) (j : Counter) : (s.setTLine i v).counter j = s.counter j := rfl
@[simp] theorem State.setTLine_ribbon (i : Nat) (v : TermLine) (id : RibbonId) : (s.setTLine i v).ribbon id = s.ribbon id := by cases id <;> rfl

/-! ### setTerm -/

@[simp] theorem State.setTerm_pending (i : Nat) (v : Terminal) : (s.setTerm i v).pending = s.pending := rfl
@[simp] theorem State.setTerm_free (i : Nat) (v : Terminal) : (s.setTerm i v).free = s.free := rfl
@[simp] theorem State.setTerm_resetAsserted (i : Nat) (v : Terminal) : (s.setTerm i v).resetAsserted = s.resetAsserted := rfl
@[simp] theorem State.setTerm_link (i : Nat) (v : Terminal) : (s.setTerm i v).link = s.link := rfl
@[simp] theorem State.setTerm_loader (i : Nat) (v : Terminal) : (s.setTerm i v).loader = s.loader := rfl
@[simp] theorem State.setTerm_entries (i : Nat) (v : Terminal) : (s.setTerm i v).entries = s.entries := rfl
@[simp] theorem State.setTerm_directory (i : Nat) (v : Terminal) : (s.setTerm i v).directory = s.directory := rfl
@[simp] theorem State.setTerm_dayNumber (i : Nat) (v : Terminal) : (s.setTerm i v).dayNumber = s.dayNumber := rfl
@[simp] theorem State.setTerm_walkActive (i : Nat) (v : Terminal) : (s.setTerm i v).walkActive = s.walkActive := rfl
@[simp] theorem State.setTerm_walkPos (i : Nat) (v : Terminal) : (s.setTerm i v).walkPos = s.walkPos := rfl
@[simp] theorem State.setTerm_clock (i : Nat) (v : Terminal) : (s.setTerm i v).clock = s.clock := rfl
@[simp] theorem State.setTerm_sched (i : Nat) (v : Terminal) : (s.setTerm i v).sched = s.sched := rfl
@[simp] theorem State.setTerm_session (i : Nat) (v : Terminal) : (s.setTerm i v).session = s.session := rfl
@[simp] theorem State.setTerm_fu (i : Nat) (v : Terminal) : (s.setTerm i v).fu = s.fu := rfl
@[simp] theorem State.setTerm_cells (i : Nat) (v : Terminal) : (s.setTerm i v).cells = s.cells := rfl
@[simp] theorem State.setTerm_flashPeriod (i : Nat) (v : Terminal) : (s.setTerm i v).flashPeriod = s.flashPeriod := rfl
@[simp] theorem State.setTerm_queues (i : Nat) (v : Terminal) : (s.setTerm i v).queues = s.queues := rfl
@[simp] theorem State.setTerm_lines (i : Nat) (v : Terminal) : (s.setTerm i v).lines = s.lines := rfl
@[simp] theorem State.setTerm_slots (i : Nat) (v : Terminal) : (s.setTerm i v).slots = s.slots := rfl
@[simp] theorem State.setTerm_displays (i : Nat) (v : Terminal) : (s.setTerm i v).displays = s.displays := rfl
@[simp] theorem State.setTerm_ribbonA (i : Nat) (v : Terminal) : (s.setTerm i v).ribbonA = s.ribbonA := rfl
@[simp] theorem State.setTerm_ribbonB (i : Nat) (v : Terminal) : (s.setTerm i v).ribbonB = s.ribbonB := rfl
@[simp] theorem State.setTerm_tlines (i : Nat) (v : Terminal) : (s.setTerm i v).tlines = s.tlines := rfl
@[simp] theorem State.setTerm_terms (i : Nat) (v : Terminal) : (s.setTerm i v).terms = Table.set Terminal.cold s.terms i v := rfl
@[simp] theorem State.setTerm_windows (i : Nat) (v : Terminal) : (s.setTerm i v).windows = s.windows := rfl
@[simp] theorem State.setTerm_counters (i : Nat) (v : Terminal) : (s.setTerm i v).counters = s.counters := rfl
@[simp] theorem State.setTerm_entry (i : Nat) (v : Terminal) (j : Nat) : (s.setTerm i v).entry j = s.entry j := rfl
@[simp] theorem State.setTerm_schedEntry (i : Nat) (v : Terminal) (j : Nat) : (s.setTerm i v).schedEntry j = s.schedEntry j := rfl
@[simp] theorem State.setTerm_cell (i : Nat) (v : Terminal) (j : Nat) : (s.setTerm i v).cell j = s.cell j := rfl
@[simp] theorem State.setTerm_refreshQueue (i : Nat) (v : Terminal) (j : Nat) : (s.setTerm i v).refreshQueue j = s.refreshQueue j := rfl
@[simp] theorem State.setTerm_line (i : Nat) (v : Terminal) (j : Nat) : (s.setTerm i v).line j = s.line j := rfl
@[simp] theorem State.setTerm_slotState (i : Nat) (v : Terminal) (j : Nat) : (s.setTerm i v).slotState j = s.slotState j := rfl
@[simp] theorem State.setTerm_display (i : Nat) (v : Terminal) (j k : Nat) : (s.setTerm i v).display j k = s.display j k := rfl
@[simp] theorem State.setTerm_tline (i : Nat) (v : Terminal) (j : Nat) : (s.setTerm i v).tline j = s.tline j := rfl
@[simp] theorem State.setTerm_window (i : Nat) (v : Terminal) (j : Nat) : (s.setTerm i v).window j = s.window j := rfl
@[simp] theorem State.setTerm_counter (i : Nat) (v : Terminal) (j : Counter) : (s.setTerm i v).counter j = s.counter j := rfl
@[simp] theorem State.setTerm_ribbon (i : Nat) (v : Terminal) (id : RibbonId) : (s.setTerm i v).ribbon id = s.ribbon id := by cases id <;> rfl

/-! ### setWindow -/

@[simp] theorem State.setWindow_pending (i : Nat) (v : Window) : (s.setWindow i v).pending = s.pending := rfl
@[simp] theorem State.setWindow_free (i : Nat) (v : Window) : (s.setWindow i v).free = s.free := rfl
@[simp] theorem State.setWindow_resetAsserted (i : Nat) (v : Window) : (s.setWindow i v).resetAsserted = s.resetAsserted := rfl
@[simp] theorem State.setWindow_link (i : Nat) (v : Window) : (s.setWindow i v).link = s.link := rfl
@[simp] theorem State.setWindow_loader (i : Nat) (v : Window) : (s.setWindow i v).loader = s.loader := rfl
@[simp] theorem State.setWindow_entries (i : Nat) (v : Window) : (s.setWindow i v).entries = s.entries := rfl
@[simp] theorem State.setWindow_directory (i : Nat) (v : Window) : (s.setWindow i v).directory = s.directory := rfl
@[simp] theorem State.setWindow_dayNumber (i : Nat) (v : Window) : (s.setWindow i v).dayNumber = s.dayNumber := rfl
@[simp] theorem State.setWindow_walkActive (i : Nat) (v : Window) : (s.setWindow i v).walkActive = s.walkActive := rfl
@[simp] theorem State.setWindow_walkPos (i : Nat) (v : Window) : (s.setWindow i v).walkPos = s.walkPos := rfl
@[simp] theorem State.setWindow_clock (i : Nat) (v : Window) : (s.setWindow i v).clock = s.clock := rfl
@[simp] theorem State.setWindow_sched (i : Nat) (v : Window) : (s.setWindow i v).sched = s.sched := rfl
@[simp] theorem State.setWindow_session (i : Nat) (v : Window) : (s.setWindow i v).session = s.session := rfl
@[simp] theorem State.setWindow_fu (i : Nat) (v : Window) : (s.setWindow i v).fu = s.fu := rfl
@[simp] theorem State.setWindow_cells (i : Nat) (v : Window) : (s.setWindow i v).cells = s.cells := rfl
@[simp] theorem State.setWindow_flashPeriod (i : Nat) (v : Window) : (s.setWindow i v).flashPeriod = s.flashPeriod := rfl
@[simp] theorem State.setWindow_queues (i : Nat) (v : Window) : (s.setWindow i v).queues = s.queues := rfl
@[simp] theorem State.setWindow_lines (i : Nat) (v : Window) : (s.setWindow i v).lines = s.lines := rfl
@[simp] theorem State.setWindow_slots (i : Nat) (v : Window) : (s.setWindow i v).slots = s.slots := rfl
@[simp] theorem State.setWindow_displays (i : Nat) (v : Window) : (s.setWindow i v).displays = s.displays := rfl
@[simp] theorem State.setWindow_ribbonA (i : Nat) (v : Window) : (s.setWindow i v).ribbonA = s.ribbonA := rfl
@[simp] theorem State.setWindow_ribbonB (i : Nat) (v : Window) : (s.setWindow i v).ribbonB = s.ribbonB := rfl
@[simp] theorem State.setWindow_tlines (i : Nat) (v : Window) : (s.setWindow i v).tlines = s.tlines := rfl
@[simp] theorem State.setWindow_terms (i : Nat) (v : Window) : (s.setWindow i v).terms = s.terms := rfl
@[simp] theorem State.setWindow_windows (i : Nat) (v : Window) : (s.setWindow i v).windows = Table.set Window.cold s.windows i v := rfl
@[simp] theorem State.setWindow_counters (i : Nat) (v : Window) : (s.setWindow i v).counters = s.counters := rfl
@[simp] theorem State.setWindow_entry (i : Nat) (v : Window) (j : Nat) : (s.setWindow i v).entry j = s.entry j := rfl
@[simp] theorem State.setWindow_schedEntry (i : Nat) (v : Window) (j : Nat) : (s.setWindow i v).schedEntry j = s.schedEntry j := rfl
@[simp] theorem State.setWindow_cell (i : Nat) (v : Window) (j : Nat) : (s.setWindow i v).cell j = s.cell j := rfl
@[simp] theorem State.setWindow_refreshQueue (i : Nat) (v : Window) (j : Nat) : (s.setWindow i v).refreshQueue j = s.refreshQueue j := rfl
@[simp] theorem State.setWindow_line (i : Nat) (v : Window) (j : Nat) : (s.setWindow i v).line j = s.line j := rfl
@[simp] theorem State.setWindow_slotState (i : Nat) (v : Window) (j : Nat) : (s.setWindow i v).slotState j = s.slotState j := rfl
@[simp] theorem State.setWindow_display (i : Nat) (v : Window) (j k : Nat) : (s.setWindow i v).display j k = s.display j k := rfl
@[simp] theorem State.setWindow_tline (i : Nat) (v : Window) (j : Nat) : (s.setWindow i v).tline j = s.tline j := rfl
@[simp] theorem State.setWindow_term (i : Nat) (v : Window) (j : Nat) : (s.setWindow i v).term j = s.term j := rfl
@[simp] theorem State.setWindow_counter (i : Nat) (v : Window) (j : Counter) : (s.setWindow i v).counter j = s.counter j := rfl
@[simp] theorem State.setWindow_ribbon (i : Nat) (v : Window) (id : RibbonId) : (s.setWindow i v).ribbon id = s.ribbon id := by cases id <;> rfl

/-! ### setLink -/

@[simp] theorem State.setLink_pending (v : Link) : (s.setLink v).pending = s.pending := rfl
@[simp] theorem State.setLink_free (v : Link) : (s.setLink v).free = s.free := rfl
@[simp] theorem State.setLink_resetAsserted (v : Link) : (s.setLink v).resetAsserted = s.resetAsserted := rfl
@[simp] theorem State.setLink_link (v : Link) : (s.setLink v).link = v := rfl
@[simp] theorem State.setLink_loader (v : Link) : (s.setLink v).loader = s.loader := rfl
@[simp] theorem State.setLink_entries (v : Link) : (s.setLink v).entries = s.entries := rfl
@[simp] theorem State.setLink_directory (v : Link) : (s.setLink v).directory = s.directory := rfl
@[simp] theorem State.setLink_dayNumber (v : Link) : (s.setLink v).dayNumber = s.dayNumber := rfl
@[simp] theorem State.setLink_walkActive (v : Link) : (s.setLink v).walkActive = s.walkActive := rfl
@[simp] theorem State.setLink_walkPos (v : Link) : (s.setLink v).walkPos = s.walkPos := rfl
@[simp] theorem State.setLink_clock (v : Link) : (s.setLink v).clock = s.clock := rfl
@[simp] theorem State.setLink_sched (v : Link) : (s.setLink v).sched = s.sched := rfl
@[simp] theorem State.setLink_session (v : Link) : (s.setLink v).session = s.session := rfl
@[simp] theorem State.setLink_fu (v : Link) : (s.setLink v).fu = s.fu := rfl
@[simp] theorem State.setLink_cells (v : Link) : (s.setLink v).cells = s.cells := rfl
@[simp] theorem State.setLink_flashPeriod (v : Link) : (s.setLink v).flashPeriod = s.flashPeriod := rfl
@[simp] theorem State.setLink_queues (v : Link) : (s.setLink v).queues = s.queues := rfl
@[simp] theorem State.setLink_lines (v : Link) : (s.setLink v).lines = s.lines := rfl
@[simp] theorem State.setLink_slots (v : Link) : (s.setLink v).slots = s.slots := rfl
@[simp] theorem State.setLink_displays (v : Link) : (s.setLink v).displays = s.displays := rfl
@[simp] theorem State.setLink_ribbonA (v : Link) : (s.setLink v).ribbonA = s.ribbonA := rfl
@[simp] theorem State.setLink_ribbonB (v : Link) : (s.setLink v).ribbonB = s.ribbonB := rfl
@[simp] theorem State.setLink_tlines (v : Link) : (s.setLink v).tlines = s.tlines := rfl
@[simp] theorem State.setLink_terms (v : Link) : (s.setLink v).terms = s.terms := rfl
@[simp] theorem State.setLink_windows (v : Link) : (s.setLink v).windows = s.windows := rfl
@[simp] theorem State.setLink_counters (v : Link) : (s.setLink v).counters = s.counters := rfl
@[simp] theorem State.setLink_entry (v : Link) (j : Nat) : (s.setLink v).entry j = s.entry j := rfl
@[simp] theorem State.setLink_schedEntry (v : Link) (j : Nat) : (s.setLink v).schedEntry j = s.schedEntry j := rfl
@[simp] theorem State.setLink_cell (v : Link) (j : Nat) : (s.setLink v).cell j = s.cell j := rfl
@[simp] theorem State.setLink_refreshQueue (v : Link) (j : Nat) : (s.setLink v).refreshQueue j = s.refreshQueue j := rfl
@[simp] theorem State.setLink_line (v : Link) (j : Nat) : (s.setLink v).line j = s.line j := rfl
@[simp] theorem State.setLink_slotState (v : Link) (j : Nat) : (s.setLink v).slotState j = s.slotState j := rfl
@[simp] theorem State.setLink_display (v : Link) (j k : Nat) : (s.setLink v).display j k = s.display j k := rfl
@[simp] theorem State.setLink_tline (v : Link) (j : Nat) : (s.setLink v).tline j = s.tline j := rfl
@[simp] theorem State.setLink_term (v : Link) (j : Nat) : (s.setLink v).term j = s.term j := rfl
@[simp] theorem State.setLink_window (v : Link) (j : Nat) : (s.setLink v).window j = s.window j := rfl
@[simp] theorem State.setLink_counter (v : Link) (j : Counter) : (s.setLink v).counter j = s.counter j := rfl
@[simp] theorem State.setLink_ribbon (v : Link) (id : RibbonId) : (s.setLink v).ribbon id = s.ribbon id := by cases id <;> rfl

/-! ### setLoader -/

@[simp] theorem State.setLoader_pending (v : Loader) : (s.setLoader v).pending = s.pending := rfl
@[simp] theorem State.setLoader_free (v : Loader) : (s.setLoader v).free = s.free := rfl
@[simp] theorem State.setLoader_resetAsserted (v : Loader) : (s.setLoader v).resetAsserted = s.resetAsserted := rfl
@[simp] theorem State.setLoader_link (v : Loader) : (s.setLoader v).link = s.link := rfl
@[simp] theorem State.setLoader_loader (v : Loader) : (s.setLoader v).loader = v := rfl
@[simp] theorem State.setLoader_entries (v : Loader) : (s.setLoader v).entries = s.entries := rfl
@[simp] theorem State.setLoader_directory (v : Loader) : (s.setLoader v).directory = s.directory := rfl
@[simp] theorem State.setLoader_dayNumber (v : Loader) : (s.setLoader v).dayNumber = s.dayNumber := rfl
@[simp] theorem State.setLoader_walkActive (v : Loader) : (s.setLoader v).walkActive = s.walkActive := rfl
@[simp] theorem State.setLoader_walkPos (v : Loader) : (s.setLoader v).walkPos = s.walkPos := rfl
@[simp] theorem State.setLoader_clock (v : Loader) : (s.setLoader v).clock = s.clock := rfl
@[simp] theorem State.setLoader_sched (v : Loader) : (s.setLoader v).sched = s.sched := rfl
@[simp] theorem State.setLoader_session (v : Loader) : (s.setLoader v).session = s.session := rfl
@[simp] theorem State.setLoader_fu (v : Loader) : (s.setLoader v).fu = s.fu := rfl
@[simp] theorem State.setLoader_cells (v : Loader) : (s.setLoader v).cells = s.cells := rfl
@[simp] theorem State.setLoader_flashPeriod (v : Loader) : (s.setLoader v).flashPeriod = s.flashPeriod := rfl
@[simp] theorem State.setLoader_queues (v : Loader) : (s.setLoader v).queues = s.queues := rfl
@[simp] theorem State.setLoader_lines (v : Loader) : (s.setLoader v).lines = s.lines := rfl
@[simp] theorem State.setLoader_slots (v : Loader) : (s.setLoader v).slots = s.slots := rfl
@[simp] theorem State.setLoader_displays (v : Loader) : (s.setLoader v).displays = s.displays := rfl
@[simp] theorem State.setLoader_ribbonA (v : Loader) : (s.setLoader v).ribbonA = s.ribbonA := rfl
@[simp] theorem State.setLoader_ribbonB (v : Loader) : (s.setLoader v).ribbonB = s.ribbonB := rfl
@[simp] theorem State.setLoader_tlines (v : Loader) : (s.setLoader v).tlines = s.tlines := rfl
@[simp] theorem State.setLoader_terms (v : Loader) : (s.setLoader v).terms = s.terms := rfl
@[simp] theorem State.setLoader_windows (v : Loader) : (s.setLoader v).windows = s.windows := rfl
@[simp] theorem State.setLoader_counters (v : Loader) : (s.setLoader v).counters = s.counters := rfl
@[simp] theorem State.setLoader_entry (v : Loader) (j : Nat) : (s.setLoader v).entry j = s.entry j := rfl
@[simp] theorem State.setLoader_schedEntry (v : Loader) (j : Nat) : (s.setLoader v).schedEntry j = s.schedEntry j := rfl
@[simp] theorem State.setLoader_cell (v : Loader) (j : Nat) : (s.setLoader v).cell j = s.cell j := rfl
@[simp] theorem State.setLoader_refreshQueue (v : Loader) (j : Nat) : (s.setLoader v).refreshQueue j = s.refreshQueue j := rfl
@[simp] theorem State.setLoader_line (v : Loader) (j : Nat) : (s.setLoader v).line j = s.line j := rfl
@[simp] theorem State.setLoader_slotState (v : Loader) (j : Nat) : (s.setLoader v).slotState j = s.slotState j := rfl
@[simp] theorem State.setLoader_display (v : Loader) (j k : Nat) : (s.setLoader v).display j k = s.display j k := rfl
@[simp] theorem State.setLoader_tline (v : Loader) (j : Nat) : (s.setLoader v).tline j = s.tline j := rfl
@[simp] theorem State.setLoader_term (v : Loader) (j : Nat) : (s.setLoader v).term j = s.term j := rfl
@[simp] theorem State.setLoader_window (v : Loader) (j : Nat) : (s.setLoader v).window j = s.window j := rfl
@[simp] theorem State.setLoader_counter (v : Loader) (j : Counter) : (s.setLoader v).counter j = s.counter j := rfl
@[simp] theorem State.setLoader_ribbon (v : Loader) (id : RibbonId) : (s.setLoader v).ribbon id = s.ribbon id := by cases id <;> rfl

/-! ### setClock -/

@[simp] theorem State.setClock_pending (v : Clock) : (s.setClock v).pending = s.pending := rfl
@[simp] theorem State.setClock_free (v : Clock) : (s.setClock v).free = s.free := rfl
@[simp] theorem State.setClock_resetAsserted (v : Clock) : (s.setClock v).resetAsserted = s.resetAsserted := rfl
@[simp] theorem State.setClock_link (v : Clock) : (s.setClock v).link = s.link := rfl
@[simp] theorem State.setClock_loader (v : Clock) : (s.setClock v).loader = s.loader := rfl
@[simp] theorem State.setClock_entries (v : Clock) : (s.setClock v).entries = s.entries := rfl
@[simp] theorem State.setClock_directory (v : Clock) : (s.setClock v).directory = s.directory := rfl
@[simp] theorem State.setClock_dayNumber (v : Clock) : (s.setClock v).dayNumber = s.dayNumber := rfl
@[simp] theorem State.setClock_walkActive (v : Clock) : (s.setClock v).walkActive = s.walkActive := rfl
@[simp] theorem State.setClock_walkPos (v : Clock) : (s.setClock v).walkPos = s.walkPos := rfl
@[simp] theorem State.setClock_clock (v : Clock) : (s.setClock v).clock = v := rfl
@[simp] theorem State.setClock_sched (v : Clock) : (s.setClock v).sched = s.sched := rfl
@[simp] theorem State.setClock_session (v : Clock) : (s.setClock v).session = s.session := rfl
@[simp] theorem State.setClock_fu (v : Clock) : (s.setClock v).fu = s.fu := rfl
@[simp] theorem State.setClock_cells (v : Clock) : (s.setClock v).cells = s.cells := rfl
@[simp] theorem State.setClock_flashPeriod (v : Clock) : (s.setClock v).flashPeriod = s.flashPeriod := rfl
@[simp] theorem State.setClock_queues (v : Clock) : (s.setClock v).queues = s.queues := rfl
@[simp] theorem State.setClock_lines (v : Clock) : (s.setClock v).lines = s.lines := rfl
@[simp] theorem State.setClock_slots (v : Clock) : (s.setClock v).slots = s.slots := rfl
@[simp] theorem State.setClock_displays (v : Clock) : (s.setClock v).displays = s.displays := rfl
@[simp] theorem State.setClock_ribbonA (v : Clock) : (s.setClock v).ribbonA = s.ribbonA := rfl
@[simp] theorem State.setClock_ribbonB (v : Clock) : (s.setClock v).ribbonB = s.ribbonB := rfl
@[simp] theorem State.setClock_tlines (v : Clock) : (s.setClock v).tlines = s.tlines := rfl
@[simp] theorem State.setClock_terms (v : Clock) : (s.setClock v).terms = s.terms := rfl
@[simp] theorem State.setClock_windows (v : Clock) : (s.setClock v).windows = s.windows := rfl
@[simp] theorem State.setClock_counters (v : Clock) : (s.setClock v).counters = s.counters := rfl
@[simp] theorem State.setClock_entry (v : Clock) (j : Nat) : (s.setClock v).entry j = s.entry j := rfl
@[simp] theorem State.setClock_schedEntry (v : Clock) (j : Nat) : (s.setClock v).schedEntry j = s.schedEntry j := rfl
@[simp] theorem State.setClock_cell (v : Clock) (j : Nat) : (s.setClock v).cell j = s.cell j := rfl
@[simp] theorem State.setClock_refreshQueue (v : Clock) (j : Nat) : (s.setClock v).refreshQueue j = s.refreshQueue j := rfl
@[simp] theorem State.setClock_line (v : Clock) (j : Nat) : (s.setClock v).line j = s.line j := rfl
@[simp] theorem State.setClock_slotState (v : Clock) (j : Nat) : (s.setClock v).slotState j = s.slotState j := rfl
@[simp] theorem State.setClock_display (v : Clock) (j k : Nat) : (s.setClock v).display j k = s.display j k := rfl
@[simp] theorem State.setClock_tline (v : Clock) (j : Nat) : (s.setClock v).tline j = s.tline j := rfl
@[simp] theorem State.setClock_term (v : Clock) (j : Nat) : (s.setClock v).term j = s.term j := rfl
@[simp] theorem State.setClock_window (v : Clock) (j : Nat) : (s.setClock v).window j = s.window j := rfl
@[simp] theorem State.setClock_counter (v : Clock) (j : Counter) : (s.setClock v).counter j = s.counter j := rfl
@[simp] theorem State.setClock_ribbon (v : Clock) (id : RibbonId) : (s.setClock v).ribbon id = s.ribbon id := by cases id <;> rfl

/-! ### setSession -/

@[simp] theorem State.setSession_pending (v : Session) : (s.setSession v).pending = s.pending := rfl
@[simp] theorem State.setSession_free (v : Session) : (s.setSession v).free = s.free := rfl
@[simp] theorem State.setSession_resetAsserted (v : Session) : (s.setSession v).resetAsserted = s.resetAsserted := rfl
@[simp] theorem State.setSession_link (v : Session) : (s.setSession v).link = s.link := rfl
@[simp] theorem State.setSession_loader (v : Session) : (s.setSession v).loader = s.loader := rfl
@[simp] theorem State.setSession_entries (v : Session) : (s.setSession v).entries = s.entries := rfl
@[simp] theorem State.setSession_directory (v : Session) : (s.setSession v).directory = s.directory := rfl
@[simp] theorem State.setSession_dayNumber (v : Session) : (s.setSession v).dayNumber = s.dayNumber := rfl
@[simp] theorem State.setSession_walkActive (v : Session) : (s.setSession v).walkActive = s.walkActive := rfl
@[simp] theorem State.setSession_walkPos (v : Session) : (s.setSession v).walkPos = s.walkPos := rfl
@[simp] theorem State.setSession_clock (v : Session) : (s.setSession v).clock = s.clock := rfl
@[simp] theorem State.setSession_sched (v : Session) : (s.setSession v).sched = s.sched := rfl
@[simp] theorem State.setSession_session (v : Session) : (s.setSession v).session = v := rfl
@[simp] theorem State.setSession_fu (v : Session) : (s.setSession v).fu = s.fu := rfl
@[simp] theorem State.setSession_cells (v : Session) : (s.setSession v).cells = s.cells := rfl
@[simp] theorem State.setSession_flashPeriod (v : Session) : (s.setSession v).flashPeriod = s.flashPeriod := rfl
@[simp] theorem State.setSession_queues (v : Session) : (s.setSession v).queues = s.queues := rfl
@[simp] theorem State.setSession_lines (v : Session) : (s.setSession v).lines = s.lines := rfl
@[simp] theorem State.setSession_slots (v : Session) : (s.setSession v).slots = s.slots := rfl
@[simp] theorem State.setSession_displays (v : Session) : (s.setSession v).displays = s.displays := rfl
@[simp] theorem State.setSession_ribbonA (v : Session) : (s.setSession v).ribbonA = s.ribbonA := rfl
@[simp] theorem State.setSession_ribbonB (v : Session) : (s.setSession v).ribbonB = s.ribbonB := rfl
@[simp] theorem State.setSession_tlines (v : Session) : (s.setSession v).tlines = s.tlines := rfl
@[simp] theorem State.setSession_terms (v : Session) : (s.setSession v).terms = s.terms := rfl
@[simp] theorem State.setSession_windows (v : Session) : (s.setSession v).windows = s.windows := rfl
@[simp] theorem State.setSession_counters (v : Session) : (s.setSession v).counters = s.counters := rfl
@[simp] theorem State.setSession_entry (v : Session) (j : Nat) : (s.setSession v).entry j = s.entry j := rfl
@[simp] theorem State.setSession_schedEntry (v : Session) (j : Nat) : (s.setSession v).schedEntry j = s.schedEntry j := rfl
@[simp] theorem State.setSession_cell (v : Session) (j : Nat) : (s.setSession v).cell j = s.cell j := rfl
@[simp] theorem State.setSession_refreshQueue (v : Session) (j : Nat) : (s.setSession v).refreshQueue j = s.refreshQueue j := rfl
@[simp] theorem State.setSession_line (v : Session) (j : Nat) : (s.setSession v).line j = s.line j := rfl
@[simp] theorem State.setSession_slotState (v : Session) (j : Nat) : (s.setSession v).slotState j = s.slotState j := rfl
@[simp] theorem State.setSession_display (v : Session) (j k : Nat) : (s.setSession v).display j k = s.display j k := rfl
@[simp] theorem State.setSession_tline (v : Session) (j : Nat) : (s.setSession v).tline j = s.tline j := rfl
@[simp] theorem State.setSession_term (v : Session) (j : Nat) : (s.setSession v).term j = s.term j := rfl
@[simp] theorem State.setSession_window (v : Session) (j : Nat) : (s.setSession v).window j = s.window j := rfl
@[simp] theorem State.setSession_counter (v : Session) (j : Counter) : (s.setSession v).counter j = s.counter j := rfl
@[simp] theorem State.setSession_ribbon (v : Session) (id : RibbonId) : (s.setSession v).ribbon id = s.ribbon id := by cases id <;> rfl

/-! ### setFU -/

@[simp] theorem State.setFU_pending (v : FormatUnit) : (s.setFU v).pending = s.pending := rfl
@[simp] theorem State.setFU_free (v : FormatUnit) : (s.setFU v).free = s.free := rfl
@[simp] theorem State.setFU_resetAsserted (v : FormatUnit) : (s.setFU v).resetAsserted = s.resetAsserted := rfl
@[simp] theorem State.setFU_link (v : FormatUnit) : (s.setFU v).link = s.link := rfl
@[simp] theorem State.setFU_loader (v : FormatUnit) : (s.setFU v).loader = s.loader := rfl
@[simp] theorem State.setFU_entries (v : FormatUnit) : (s.setFU v).entries = s.entries := rfl
@[simp] theorem State.setFU_directory (v : FormatUnit) : (s.setFU v).directory = s.directory := rfl
@[simp] theorem State.setFU_dayNumber (v : FormatUnit) : (s.setFU v).dayNumber = s.dayNumber := rfl
@[simp] theorem State.setFU_walkActive (v : FormatUnit) : (s.setFU v).walkActive = s.walkActive := rfl
@[simp] theorem State.setFU_walkPos (v : FormatUnit) : (s.setFU v).walkPos = s.walkPos := rfl
@[simp] theorem State.setFU_clock (v : FormatUnit) : (s.setFU v).clock = s.clock := rfl
@[simp] theorem State.setFU_sched (v : FormatUnit) : (s.setFU v).sched = s.sched := rfl
@[simp] theorem State.setFU_session (v : FormatUnit) : (s.setFU v).session = s.session := rfl
@[simp] theorem State.setFU_fu (v : FormatUnit) : (s.setFU v).fu = v := rfl
@[simp] theorem State.setFU_cells (v : FormatUnit) : (s.setFU v).cells = s.cells := rfl
@[simp] theorem State.setFU_flashPeriod (v : FormatUnit) : (s.setFU v).flashPeriod = s.flashPeriod := rfl
@[simp] theorem State.setFU_queues (v : FormatUnit) : (s.setFU v).queues = s.queues := rfl
@[simp] theorem State.setFU_lines (v : FormatUnit) : (s.setFU v).lines = s.lines := rfl
@[simp] theorem State.setFU_slots (v : FormatUnit) : (s.setFU v).slots = s.slots := rfl
@[simp] theorem State.setFU_displays (v : FormatUnit) : (s.setFU v).displays = s.displays := rfl
@[simp] theorem State.setFU_ribbonA (v : FormatUnit) : (s.setFU v).ribbonA = s.ribbonA := rfl
@[simp] theorem State.setFU_ribbonB (v : FormatUnit) : (s.setFU v).ribbonB = s.ribbonB := rfl
@[simp] theorem State.setFU_tlines (v : FormatUnit) : (s.setFU v).tlines = s.tlines := rfl
@[simp] theorem State.setFU_terms (v : FormatUnit) : (s.setFU v).terms = s.terms := rfl
@[simp] theorem State.setFU_windows (v : FormatUnit) : (s.setFU v).windows = s.windows := rfl
@[simp] theorem State.setFU_counters (v : FormatUnit) : (s.setFU v).counters = s.counters := rfl
@[simp] theorem State.setFU_entry (v : FormatUnit) (j : Nat) : (s.setFU v).entry j = s.entry j := rfl
@[simp] theorem State.setFU_schedEntry (v : FormatUnit) (j : Nat) : (s.setFU v).schedEntry j = s.schedEntry j := rfl
@[simp] theorem State.setFU_cell (v : FormatUnit) (j : Nat) : (s.setFU v).cell j = s.cell j := rfl
@[simp] theorem State.setFU_refreshQueue (v : FormatUnit) (j : Nat) : (s.setFU v).refreshQueue j = s.refreshQueue j := rfl
@[simp] theorem State.setFU_line (v : FormatUnit) (j : Nat) : (s.setFU v).line j = s.line j := rfl
@[simp] theorem State.setFU_slotState (v : FormatUnit) (j : Nat) : (s.setFU v).slotState j = s.slotState j := rfl
@[simp] theorem State.setFU_display (v : FormatUnit) (j k : Nat) : (s.setFU v).display j k = s.display j k := rfl
@[simp] theorem State.setFU_tline (v : FormatUnit) (j : Nat) : (s.setFU v).tline j = s.tline j := rfl
@[simp] theorem State.setFU_term (v : FormatUnit) (j : Nat) : (s.setFU v).term j = s.term j := rfl
@[simp] theorem State.setFU_window (v : FormatUnit) (j : Nat) : (s.setFU v).window j = s.window j := rfl
@[simp] theorem State.setFU_counter (v : FormatUnit) (j : Counter) : (s.setFU v).counter j = s.counter j := rfl
@[simp] theorem State.setFU_ribbon (v : FormatUnit) (id : RibbonId) : (s.setFU v).ribbon id = s.ribbon id := by cases id <;> rfl

/-! ### setDirectory -/

@[simp] theorem State.setDirectory_pending (v : List (Text × Nat)) : (s.setDirectory v).pending = s.pending := rfl
@[simp] theorem State.setDirectory_free (v : List (Text × Nat)) : (s.setDirectory v).free = s.free := rfl
@[simp] theorem State.setDirectory_resetAsserted (v : List (Text × Nat)) : (s.setDirectory v).resetAsserted = s.resetAsserted := rfl
@[simp] theorem State.setDirectory_link (v : List (Text × Nat)) : (s.setDirectory v).link = s.link := rfl
@[simp] theorem State.setDirectory_loader (v : List (Text × Nat)) : (s.setDirectory v).loader = s.loader := rfl
@[simp] theorem State.setDirectory_entries (v : List (Text × Nat)) : (s.setDirectory v).entries = s.entries := rfl
@[simp] theorem State.setDirectory_directory (v : List (Text × Nat)) : (s.setDirectory v).directory = v := rfl
@[simp] theorem State.setDirectory_dayNumber (v : List (Text × Nat)) : (s.setDirectory v).dayNumber = s.dayNumber := rfl
@[simp] theorem State.setDirectory_walkActive (v : List (Text × Nat)) : (s.setDirectory v).walkActive = s.walkActive := rfl
@[simp] theorem State.setDirectory_walkPos (v : List (Text × Nat)) : (s.setDirectory v).walkPos = s.walkPos := rfl
@[simp] theorem State.setDirectory_clock (v : List (Text × Nat)) : (s.setDirectory v).clock = s.clock := rfl
@[simp] theorem State.setDirectory_sched (v : List (Text × Nat)) : (s.setDirectory v).sched = s.sched := rfl
@[simp] theorem State.setDirectory_session (v : List (Text × Nat)) : (s.setDirectory v).session = s.session := rfl
@[simp] theorem State.setDirectory_fu (v : List (Text × Nat)) : (s.setDirectory v).fu = s.fu := rfl
@[simp] theorem State.setDirectory_cells (v : List (Text × Nat)) : (s.setDirectory v).cells = s.cells := rfl
@[simp] theorem State.setDirectory_flashPeriod (v : List (Text × Nat)) : (s.setDirectory v).flashPeriod = s.flashPeriod := rfl
@[simp] theorem State.setDirectory_queues (v : List (Text × Nat)) : (s.setDirectory v).queues = s.queues := rfl
@[simp] theorem State.setDirectory_lines (v : List (Text × Nat)) : (s.setDirectory v).lines = s.lines := rfl
@[simp] theorem State.setDirectory_slots (v : List (Text × Nat)) : (s.setDirectory v).slots = s.slots := rfl
@[simp] theorem State.setDirectory_displays (v : List (Text × Nat)) : (s.setDirectory v).displays = s.displays := rfl
@[simp] theorem State.setDirectory_ribbonA (v : List (Text × Nat)) : (s.setDirectory v).ribbonA = s.ribbonA := rfl
@[simp] theorem State.setDirectory_ribbonB (v : List (Text × Nat)) : (s.setDirectory v).ribbonB = s.ribbonB := rfl
@[simp] theorem State.setDirectory_tlines (v : List (Text × Nat)) : (s.setDirectory v).tlines = s.tlines := rfl
@[simp] theorem State.setDirectory_terms (v : List (Text × Nat)) : (s.setDirectory v).terms = s.terms := rfl
@[simp] theorem State.setDirectory_windows (v : List (Text × Nat)) : (s.setDirectory v).windows = s.windows := rfl
@[simp] theorem State.setDirectory_counters (v : List (Text × Nat)) : (s.setDirectory v).counters = s.counters := rfl
@[simp] theorem State.setDirectory_entry (v : List (Text × Nat)) (j : Nat) : (s.setDirectory v).entry j = s.entry j := rfl
@[simp] theorem State.setDirectory_schedEntry (v : List (Text × Nat)) (j : Nat) : (s.setDirectory v).schedEntry j = s.schedEntry j := rfl
@[simp] theorem State.setDirectory_cell (v : List (Text × Nat)) (j : Nat) : (s.setDirectory v).cell j = s.cell j := rfl
@[simp] theorem State.setDirectory_refreshQueue (v : List (Text × Nat)) (j : Nat) : (s.setDirectory v).refreshQueue j = s.refreshQueue j := rfl
@[simp] theorem State.setDirectory_line (v : List (Text × Nat)) (j : Nat) : (s.setDirectory v).line j = s.line j := rfl
@[simp] theorem State.setDirectory_slotState (v : List (Text × Nat)) (j : Nat) : (s.setDirectory v).slotState j = s.slotState j := rfl
@[simp] theorem State.setDirectory_display (v : List (Text × Nat)) (j k : Nat) : (s.setDirectory v).display j k = s.display j k := rfl
@[simp] theorem State.setDirectory_tline (v : List (Text × Nat)) (j : Nat) : (s.setDirectory v).tline j = s.tline j := rfl
@[simp] theorem State.setDirectory_term (v : List (Text × Nat)) (j : Nat) : (s.setDirectory v).term j = s.term j := rfl
@[simp] theorem State.setDirectory_window (v : List (Text × Nat)) (j : Nat) : (s.setDirectory v).window j = s.window j := rfl
@[simp] theorem State.setDirectory_counter (v : List (Text × Nat)) (j : Counter) : (s.setDirectory v).counter j = s.counter j := rfl
@[simp] theorem State.setDirectory_ribbon (v : List (Text × Nat)) (id : RibbonId) : (s.setDirectory v).ribbon id = s.ribbon id := by cases id <;> rfl

/-! ### setDayNumber -/

@[simp] theorem State.setDayNumber_pending (v : Nat) : (s.setDayNumber v).pending = s.pending := rfl
@[simp] theorem State.setDayNumber_free (v : Nat) : (s.setDayNumber v).free = s.free := rfl
@[simp] theorem State.setDayNumber_resetAsserted (v : Nat) : (s.setDayNumber v).resetAsserted = s.resetAsserted := rfl
@[simp] theorem State.setDayNumber_link (v : Nat) : (s.setDayNumber v).link = s.link := rfl
@[simp] theorem State.setDayNumber_loader (v : Nat) : (s.setDayNumber v).loader = s.loader := rfl
@[simp] theorem State.setDayNumber_entries (v : Nat) : (s.setDayNumber v).entries = s.entries := rfl
@[simp] theorem State.setDayNumber_directory (v : Nat) : (s.setDayNumber v).directory = s.directory := rfl
@[simp] theorem State.setDayNumber_dayNumber (v : Nat) : (s.setDayNumber v).dayNumber = v := rfl
@[simp] theorem State.setDayNumber_walkActive (v : Nat) : (s.setDayNumber v).walkActive = s.walkActive := rfl
@[simp] theorem State.setDayNumber_walkPos (v : Nat) : (s.setDayNumber v).walkPos = s.walkPos := rfl
@[simp] theorem State.setDayNumber_clock (v : Nat) : (s.setDayNumber v).clock = s.clock := rfl
@[simp] theorem State.setDayNumber_sched (v : Nat) : (s.setDayNumber v).sched = s.sched := rfl
@[simp] theorem State.setDayNumber_session (v : Nat) : (s.setDayNumber v).session = s.session := rfl
@[simp] theorem State.setDayNumber_fu (v : Nat) : (s.setDayNumber v).fu = s.fu := rfl
@[simp] theorem State.setDayNumber_cells (v : Nat) : (s.setDayNumber v).cells = s.cells := rfl
@[simp] theorem State.setDayNumber_flashPeriod (v : Nat) : (s.setDayNumber v).flashPeriod = s.flashPeriod := rfl
@[simp] theorem State.setDayNumber_queues (v : Nat) : (s.setDayNumber v).queues = s.queues := rfl
@[simp] theorem State.setDayNumber_lines (v : Nat) : (s.setDayNumber v).lines = s.lines := rfl
@[simp] theorem State.setDayNumber_slots (v : Nat) : (s.setDayNumber v).slots = s.slots := rfl
@[simp] theorem State.setDayNumber_displays (v : Nat) : (s.setDayNumber v).displays = s.displays := rfl
@[simp] theorem State.setDayNumber_ribbonA (v : Nat) : (s.setDayNumber v).ribbonA = s.ribbonA := rfl
@[simp] theorem State.setDayNumber_ribbonB (v : Nat) : (s.setDayNumber v).ribbonB = s.ribbonB := rfl
@[simp] theorem State.setDayNumber_tlines (v : Nat) : (s.setDayNumber v).tlines = s.tlines := rfl
@[simp] theorem State.setDayNumber_terms (v : Nat) : (s.setDayNumber v).terms = s.terms := rfl
@[simp] theorem State.setDayNumber_windows (v : Nat) : (s.setDayNumber v).windows = s.windows := rfl
@[simp] theorem State.setDayNumber_counters (v : Nat) : (s.setDayNumber v).counters = s.counters := rfl
@[simp] theorem State.setDayNumber_entry (v : Nat) (j : Nat) : (s.setDayNumber v).entry j = s.entry j := rfl
@[simp] theorem State.setDayNumber_schedEntry (v : Nat) (j : Nat) : (s.setDayNumber v).schedEntry j = s.schedEntry j := rfl
@[simp] theorem State.setDayNumber_cell (v : Nat) (j : Nat) : (s.setDayNumber v).cell j = s.cell j := rfl
@[simp] theorem State.setDayNumber_refreshQueue (v : Nat) (j : Nat) : (s.setDayNumber v).refreshQueue j = s.refreshQueue j := rfl
@[simp] theorem State.setDayNumber_line (v : Nat) (j : Nat) : (s.setDayNumber v).line j = s.line j := rfl
@[simp] theorem State.setDayNumber_slotState (v : Nat) (j : Nat) : (s.setDayNumber v).slotState j = s.slotState j := rfl
@[simp] theorem State.setDayNumber_display (v : Nat) (j k : Nat) : (s.setDayNumber v).display j k = s.display j k := rfl
@[simp] theorem State.setDayNumber_tline (v : Nat) (j : Nat) : (s.setDayNumber v).tline j = s.tline j := rfl
@[simp] theorem State.setDayNumber_term (v : Nat) (j : Nat) : (s.setDayNumber v).term j = s.term j := rfl
@[simp] theorem State.setDayNumber_window (v : Nat) (j : Nat) : (s.setDayNumber v).window j = s.window j := rfl
@[simp] theorem State.setDayNumber_counter (v : Nat) (j : Counter) : (s.setDayNumber v).counter j = s.counter j := rfl
@[simp] theorem State.setDayNumber_ribbon (v : Nat) (id : RibbonId) : (s.setDayNumber v).ribbon id = s.ribbon id := by cases id <;> rfl

/-! ### setWalk -/

@[simp] theorem State.setWalk_pending (b : Bool) (v : Nat) : (s.setWalk b v).pending = s.pending := rfl
@[simp] theorem State.setWalk_free (b : Bool) (v : Nat) : (s.setWalk b v).free = s.free := rfl
@[simp] theorem State.setWalk_resetAsserted (b : Bool) (v : Nat) : (s.setWalk b v).resetAsserted = s.resetAsserted := rfl
@[simp] theorem State.setWalk_link (b : Bool) (v : Nat) : (s.setWalk b v).link = s.link := rfl
@[simp] theorem State.setWalk_loader (b : Bool) (v : Nat) : (s.setWalk b v).loader = s.loader := rfl
@[simp] theorem State.setWalk_entries (b : Bool) (v : Nat) : (s.setWalk b v).entries = s.entries := rfl
@[simp] theorem State.setWalk_directory (b : Bool) (v : Nat) : (s.setWalk b v).directory = s.directory := rfl
@[simp] theorem State.setWalk_dayNumber (b : Bool) (v : Nat) : (s.setWalk b v).dayNumber = s.dayNumber := rfl
@[simp] theorem State.setWalk_walkActive (b : Bool) (v : Nat) : (s.setWalk b v).walkActive = b := rfl
@[simp] theorem State.setWalk_walkPos (b : Bool) (v : Nat) : (s.setWalk b v).walkPos = v := rfl
@[simp] theorem State.setWalk_clock (b : Bool) (v : Nat) : (s.setWalk b v).clock = s.clock := rfl
@[simp] theorem State.setWalk_sched (b : Bool) (v : Nat) : (s.setWalk b v).sched = s.sched := rfl
@[simp] theorem State.setWalk_session (b : Bool) (v : Nat) : (s.setWalk b v).session = s.session := rfl
@[simp] theorem State.setWalk_fu (b : Bool) (v : Nat) : (s.setWalk b v).fu = s.fu := rfl
@[simp] theorem State.setWalk_cells (b : Bool) (v : Nat) : (s.setWalk b v).cells = s.cells := rfl
@[simp] theorem State.setWalk_flashPeriod (b : Bool) (v : Nat) : (s.setWalk b v).flashPeriod = s.flashPeriod := rfl
@[simp] theorem State.setWalk_queues (b : Bool) (v : Nat) : (s.setWalk b v).queues = s.queues := rfl
@[simp] theorem State.setWalk_lines (b : Bool) (v : Nat) : (s.setWalk b v).lines = s.lines := rfl
@[simp] theorem State.setWalk_slots (b : Bool) (v : Nat) : (s.setWalk b v).slots = s.slots := rfl
@[simp] theorem State.setWalk_displays (b : Bool) (v : Nat) : (s.setWalk b v).displays = s.displays := rfl
@[simp] theorem State.setWalk_ribbonA (b : Bool) (v : Nat) : (s.setWalk b v).ribbonA = s.ribbonA := rfl
@[simp] theorem State.setWalk_ribbonB (b : Bool) (v : Nat) : (s.setWalk b v).ribbonB = s.ribbonB := rfl
@[simp] theorem State.setWalk_tlines (b : Bool) (v : Nat) : (s.setWalk b v).tlines = s.tlines := rfl
@[simp] theorem State.setWalk_terms (b : Bool) (v : Nat) : (s.setWalk b v).terms = s.terms := rfl
@[simp] theorem State.setWalk_windows (b : Bool) (v : Nat) : (s.setWalk b v).windows = s.windows := rfl
@[simp] theorem State.setWalk_counters (b : Bool) (v : Nat) : (s.setWalk b v).counters = s.counters := rfl
@[simp] theorem State.setWalk_entry (b : Bool) (v : Nat) (j : Nat) : (s.setWalk b v).entry j = s.entry j := rfl
@[simp] theorem State.setWalk_schedEntry (b : Bool) (v : Nat) (j : Nat) : (s.setWalk b v).schedEntry j = s.schedEntry j := rfl
@[simp] theorem State.setWalk_cell (b : Bool) (v : Nat) (j : Nat) : (s.setWalk b v).cell j = s.cell j := rfl
@[simp] theorem State.setWalk_refreshQueue (b : Bool) (v : Nat) (j : Nat) : (s.setWalk b v).refreshQueue j = s.refreshQueue j := rfl
@[simp] theorem State.setWalk_line (b : Bool) (v : Nat) (j : Nat) : (s.setWalk b v).line j = s.line j := rfl
@[simp] theorem State.setWalk_slotState (b : Bool) (v : Nat) (j : Nat) : (s.setWalk b v).slotState j = s.slotState j := rfl
@[simp] theorem State.setWalk_display (b : Bool) (v : Nat) (j k : Nat) : (s.setWalk b v).display j k = s.display j k := rfl
@[simp] theorem State.setWalk_tline (b : Bool) (v : Nat) (j : Nat) : (s.setWalk b v).tline j = s.tline j := rfl
@[simp] theorem State.setWalk_term (b : Bool) (v : Nat) (j : Nat) : (s.setWalk b v).term j = s.term j := rfl
@[simp] theorem State.setWalk_window (b : Bool) (v : Nat) (j : Nat) : (s.setWalk b v).window j = s.window j := rfl
@[simp] theorem State.setWalk_counter (b : Bool) (v : Nat) (j : Counter) : (s.setWalk b v).counter j = s.counter j := rfl
@[simp] theorem State.setWalk_ribbon (b : Bool) (v : Nat) (id : RibbonId) : (s.setWalk b v).ribbon id = s.ribbon id := by cases id <;> rfl

/-! ### setFlashPeriod -/

@[simp] theorem State.setFlashPeriod_pending (v : Nat) : (s.setFlashPeriod v).pending = s.pending := rfl
@[simp] theorem State.setFlashPeriod_free (v : Nat) : (s.setFlashPeriod v).free = s.free := rfl
@[simp] theorem State.setFlashPeriod_resetAsserted (v : Nat) : (s.setFlashPeriod v).resetAsserted = s.resetAsserted := rfl
@[simp] theorem State.setFlashPeriod_link (v : Nat) : (s.setFlashPeriod v).link = s.link := rfl
@[simp] theorem State.setFlashPeriod_loader (v : Nat) : (s.setFlashPeriod v).loader = s.loader := rfl
@[simp] theorem State.setFlashPeriod_entries (v : Nat) : (s.setFlashPeriod v).entries = s.entries := rfl
@[simp] theorem State.setFlashPeriod_directory (v : Nat) : (s.setFlashPeriod v).directory = s.directory := rfl
@[simp] theorem State.setFlashPeriod_dayNumber (v : Nat) : (s.setFlashPeriod v).dayNumber = s.dayNumber := rfl
@[simp] theorem State.setFlashPeriod_walkActive (v : Nat) : (s.setFlashPeriod v).walkActive = s.walkActive := rfl
@[simp] theorem State.setFlashPeriod_walkPos (v : Nat) : (s.setFlashPeriod v).walkPos = s.walkPos := rfl
@[simp] theorem State.setFlashPeriod_clock (v : Nat) : (s.setFlashPeriod v).clock = s.clock := rfl
@[simp] theorem State.setFlashPeriod_sched (v : Nat) : (s.setFlashPeriod v).sched = s.sched := rfl
@[simp] theorem State.setFlashPeriod_session (v : Nat) : (s.setFlashPeriod v).session = s.session := rfl
@[simp] theorem State.setFlashPeriod_fu (v : Nat) : (s.setFlashPeriod v).fu = s.fu := rfl
@[simp] theorem State.setFlashPeriod_cells (v : Nat) : (s.setFlashPeriod v).cells = s.cells := rfl
@[simp] theorem State.setFlashPeriod_flashPeriod (v : Nat) : (s.setFlashPeriod v).flashPeriod = v := rfl
@[simp] theorem State.setFlashPeriod_queues (v : Nat) : (s.setFlashPeriod v).queues = s.queues := rfl
@[simp] theorem State.setFlashPeriod_lines (v : Nat) : (s.setFlashPeriod v).lines = s.lines := rfl
@[simp] theorem State.setFlashPeriod_slots (v : Nat) : (s.setFlashPeriod v).slots = s.slots := rfl
@[simp] theorem State.setFlashPeriod_displays (v : Nat) : (s.setFlashPeriod v).displays = s.displays := rfl
@[simp] theorem State.setFlashPeriod_ribbonA (v : Nat) : (s.setFlashPeriod v).ribbonA = s.ribbonA := rfl
@[simp] theorem State.setFlashPeriod_ribbonB (v : Nat) : (s.setFlashPeriod v).ribbonB = s.ribbonB := rfl
@[simp] theorem State.setFlashPeriod_tlines (v : Nat) : (s.setFlashPeriod v).tlines = s.tlines := rfl
@[simp] theorem State.setFlashPeriod_terms (v : Nat) : (s.setFlashPeriod v).terms = s.terms := rfl
@[simp] theorem State.setFlashPeriod_windows (v : Nat) : (s.setFlashPeriod v).windows = s.windows := rfl
@[simp] theorem State.setFlashPeriod_counters (v : Nat) : (s.setFlashPeriod v).counters = s.counters := rfl
@[simp] theorem State.setFlashPeriod_entry (v : Nat) (j : Nat) : (s.setFlashPeriod v).entry j = s.entry j := rfl
@[simp] theorem State.setFlashPeriod_schedEntry (v : Nat) (j : Nat) : (s.setFlashPeriod v).schedEntry j = s.schedEntry j := rfl
@[simp] theorem State.setFlashPeriod_cell (v : Nat) (j : Nat) : (s.setFlashPeriod v).cell j = s.cell j := rfl
@[simp] theorem State.setFlashPeriod_refreshQueue (v : Nat) (j : Nat) : (s.setFlashPeriod v).refreshQueue j = s.refreshQueue j := rfl
@[simp] theorem State.setFlashPeriod_line (v : Nat) (j : Nat) : (s.setFlashPeriod v).line j = s.line j := rfl
@[simp] theorem State.setFlashPeriod_slotState (v : Nat) (j : Nat) : (s.setFlashPeriod v).slotState j = s.slotState j := rfl
@[simp] theorem State.setFlashPeriod_display (v : Nat) (j k : Nat) : (s.setFlashPeriod v).display j k = s.display j k := rfl
@[simp] theorem State.setFlashPeriod_tline (v : Nat) (j : Nat) : (s.setFlashPeriod v).tline j = s.tline j := rfl
@[simp] theorem State.setFlashPeriod_term (v : Nat) (j : Nat) : (s.setFlashPeriod v).term j = s.term j := rfl
@[simp] theorem State.setFlashPeriod_window (v : Nat) (j : Nat) : (s.setFlashPeriod v).window j = s.window j := rfl
@[simp] theorem State.setFlashPeriod_counter (v : Nat) (j : Counter) : (s.setFlashPeriod v).counter j = s.counter j := rfl
@[simp] theorem State.setFlashPeriod_ribbon (v : Nat) (id : RibbonId) : (s.setFlashPeriod v).ribbon id = s.ribbon id := by cases id <;> rfl

/-! ### setFree -/

@[simp] theorem State.setFree_pending (v : Nat) : (s.setFree v).pending = s.pending := rfl
@[simp] theorem State.setFree_free (v : Nat) : (s.setFree v).free = v := rfl
@[simp] theorem State.setFree_resetAsserted (v : Nat) : (s.setFree v).resetAsserted = s.resetAsserted := rfl
@[simp] theorem State.setFree_link (v : Nat) : (s.setFree v).link = s.link := rfl
@[simp] theorem State.setFree_loader (v : Nat) : (s.setFree v).loader = s.loader := rfl
@[simp] theorem State.setFree_entries (v : Nat) : (s.setFree v).entries = s.entries := rfl
@[simp] theorem State.setFree_directory (v : Nat) : (s.setFree v).directory = s.directory := rfl
@[simp] theorem State.setFree_dayNumber (v : Nat) : (s.setFree v).dayNumber = s.dayNumber := rfl
@[simp] theorem State.setFree_walkActive (v : Nat) : (s.setFree v).walkActive = s.walkActive := rfl
@[simp] theorem State.setFree_walkPos (v : Nat) : (s.setFree v).walkPos = s.walkPos := rfl
@[simp] theorem State.setFree_clock (v : Nat) : (s.setFree v).clock = s.clock := rfl
@[simp] theorem State.setFree_sched (v : Nat) : (s.setFree v).sched = s.sched := rfl
@[simp] theorem State.setFree_session (v : Nat) : (s.setFree v).session = s.session := rfl
@[simp] theorem State.setFree_fu (v : Nat) : (s.setFree v).fu = s.fu := rfl
@[simp] theorem State.setFree_cells (v : Nat) : (s.setFree v).cells = s.cells := rfl
@[simp] theorem State.setFree_flashPeriod (v : Nat) : (s.setFree v).flashPeriod = s.flashPeriod := rfl
@[simp] theorem State.setFree_queues (v : Nat) : (s.setFree v).queues = s.queues := rfl
@[simp] theorem State.setFree_lines (v : Nat) : (s.setFree v).lines = s.lines := rfl
@[simp] theorem State.setFree_slots (v : Nat) : (s.setFree v).slots = s.slots := rfl
@[simp] theorem State.setFree_displays (v : Nat) : (s.setFree v).displays = s.displays := rfl
@[simp] theorem State.setFree_ribbonA (v : Nat) : (s.setFree v).ribbonA = s.ribbonA := rfl
@[simp] theorem State.setFree_ribbonB (v : Nat) : (s.setFree v).ribbonB = s.ribbonB := rfl
@[simp] theorem State.setFree_tlines (v : Nat) : (s.setFree v).tlines = s.tlines := rfl
@[simp] theorem State.setFree_terms (v : Nat) : (s.setFree v).terms = s.terms := rfl
@[simp] theorem State.setFree_windows (v : Nat) : (s.setFree v).windows = s.windows := rfl
@[simp] theorem State.setFree_counters (v : Nat) : (s.setFree v).counters = s.counters := rfl
@[simp] theorem State.setFree_entry (v : Nat) (j : Nat) : (s.setFree v).entry j = s.entry j := rfl
@[simp] theorem State.setFree_schedEntry (v : Nat) (j : Nat) : (s.setFree v).schedEntry j = s.schedEntry j := rfl
@[simp] theorem State.setFree_cell (v : Nat) (j : Nat) : (s.setFree v).cell j = s.cell j := rfl
@[simp] theorem State.setFree_refreshQueue (v : Nat) (j : Nat) : (s.setFree v).refreshQueue j = s.refreshQueue j := rfl
@[simp] theorem State.setFree_line (v : Nat) (j : Nat) : (s.setFree v).line j = s.line j := rfl
@[simp] theorem State.setFree_slotState (v : Nat) (j : Nat) : (s.setFree v).slotState j = s.slotState j := rfl
@[simp] theorem State.setFree_display (v : Nat) (j k : Nat) : (s.setFree v).display j k = s.display j k := rfl
@[simp] theorem State.setFree_tline (v : Nat) (j : Nat) : (s.setFree v).tline j = s.tline j := rfl
@[simp] theorem State.setFree_term (v : Nat) (j : Nat) : (s.setFree v).term j = s.term j := rfl
@[simp] theorem State.setFree_window (v : Nat) (j : Nat) : (s.setFree v).window j = s.window j := rfl
@[simp] theorem State.setFree_counter (v : Nat) (j : Counter) : (s.setFree v).counter j = s.counter j := rfl
@[simp] theorem State.setFree_ribbon (v : Nat) (id : RibbonId) : (s.setFree v).ribbon id = s.ribbon id := by cases id <;> rfl

/-! ### advance -/

@[simp] theorem State.advance_pending (c : Counter) (v : Nat) : (s.advance c v).pending = s.pending := rfl
@[simp] theorem State.advance_free (c : Counter) (v : Nat) : (s.advance c v).free = s.free := rfl
@[simp] theorem State.advance_resetAsserted (c : Counter) (v : Nat) : (s.advance c v).resetAsserted = s.resetAsserted := rfl
@[simp] theorem State.advance_link (c : Counter) (v : Nat) : (s.advance c v).link = s.link := rfl
@[simp] theorem State.advance_loader (c : Counter) (v : Nat) : (s.advance c v).loader = s.loader := rfl
@[simp] theorem State.advance_entries (c : Counter) (v : Nat) : (s.advance c v).entries = s.entries := rfl
@[simp] theorem State.advance_directory (c : Counter) (v : Nat) : (s.advance c v).directory = s.directory := rfl
@[simp] theorem State.advance_dayNumber (c : Counter) (v : Nat) : (s.advance c v).dayNumber = s.dayNumber := rfl
@[simp] theorem State.advance_walkActive (c : Counter) (v : Nat) : (s.advance c v).walkActive = s.walkActive := rfl
@[simp] theorem State.advance_walkPos (c : Counter) (v : Nat) : (s.advance c v).walkPos = s.walkPos := rfl
@[simp] theorem State.advance_clock (c : Counter) (v : Nat) : (s.advance c v).clock = s.clock := rfl
@[simp] theorem State.advance_sched (c : Counter) (v : Nat) : (s.advance c v).sched = s.sched := rfl
@[simp] theorem State.advance_session (c : Counter) (v : Nat) : (s.advance c v).session = s.session := rfl
@[simp] theorem State.advance_fu (c : Counter) (v : Nat) : (s.advance c v).fu = s.fu := rfl
@[simp] theorem State.advance_cells (c : Counter) (v : Nat) : (s.advance c v).cells = s.cells := rfl
@[simp] theorem State.advance_flashPeriod (c : Counter) (v : Nat) : (s.advance c v).flashPeriod = s.flashPeriod := rfl
@[simp] theorem State.advance_queues (c : Counter) (v : Nat) : (s.advance c v).queues = s.queues := rfl
@[simp] theorem State.advance_lines (c : Counter) (v : Nat) : (s.advance c v).lines = s.lines := rfl
@[simp] theorem State.advance_slots (c : Counter) (v : Nat) : (s.advance c v).slots = s.slots := rfl
@[simp] theorem State.advance_displays (c : Counter) (v : Nat) : (s.advance c v).displays = s.displays := rfl
@[simp] theorem State.advance_ribbonA (c : Counter) (v : Nat) : (s.advance c v).ribbonA = s.ribbonA := rfl
@[simp] theorem State.advance_ribbonB (c : Counter) (v : Nat) : (s.advance c v).ribbonB = s.ribbonB := rfl
@[simp] theorem State.advance_tlines (c : Counter) (v : Nat) : (s.advance c v).tlines = s.tlines := rfl
@[simp] theorem State.advance_terms (c : Counter) (v : Nat) : (s.advance c v).terms = s.terms := rfl
@[simp] theorem State.advance_windows (c : Counter) (v : Nat) : (s.advance c v).windows = s.windows := rfl
@[simp] theorem State.advance_counters (c : Counter) (v : Nat) : (s.advance c v).counters = Table.set 0 s.counters c.index (min Config.maxCounter (s.counter c + v)) := rfl
@[simp] theorem State.advance_entry (c : Counter) (v : Nat) (j : Nat) : (s.advance c v).entry j = s.entry j := rfl
@[simp] theorem State.advance_schedEntry (c : Counter) (v : Nat) (j : Nat) : (s.advance c v).schedEntry j = s.schedEntry j := rfl
@[simp] theorem State.advance_cell (c : Counter) (v : Nat) (j : Nat) : (s.advance c v).cell j = s.cell j := rfl
@[simp] theorem State.advance_refreshQueue (c : Counter) (v : Nat) (j : Nat) : (s.advance c v).refreshQueue j = s.refreshQueue j := rfl
@[simp] theorem State.advance_line (c : Counter) (v : Nat) (j : Nat) : (s.advance c v).line j = s.line j := rfl
@[simp] theorem State.advance_slotState (c : Counter) (v : Nat) (j : Nat) : (s.advance c v).slotState j = s.slotState j := rfl
@[simp] theorem State.advance_display (c : Counter) (v : Nat) (j k : Nat) : (s.advance c v).display j k = s.display j k := rfl
@[simp] theorem State.advance_tline (c : Counter) (v : Nat) (j : Nat) : (s.advance c v).tline j = s.tline j := rfl
@[simp] theorem State.advance_term (c : Counter) (v : Nat) (j : Nat) : (s.advance c v).term j = s.term j := rfl
@[simp] theorem State.advance_window (c : Counter) (v : Nat) (j : Nat) : (s.advance c v).window j = s.window j := rfl
@[simp] theorem State.advance_ribbon (c : Counter) (v : Nat) (id : RibbonId) : (s.advance c v).ribbon id = s.ribbon id := by cases id <;> rfl

/-! ### clearCounters -/

@[simp] theorem State.clearCounters_pending : (s.clearCounters).pending = s.pending := rfl
@[simp] theorem State.clearCounters_free : (s.clearCounters).free = s.free := rfl
@[simp] theorem State.clearCounters_resetAsserted : (s.clearCounters).resetAsserted = s.resetAsserted := rfl
@[simp] theorem State.clearCounters_link : (s.clearCounters).link = s.link := rfl
@[simp] theorem State.clearCounters_loader : (s.clearCounters).loader = s.loader := rfl
@[simp] theorem State.clearCounters_entries : (s.clearCounters).entries = s.entries := rfl
@[simp] theorem State.clearCounters_directory : (s.clearCounters).directory = s.directory := rfl
@[simp] theorem State.clearCounters_dayNumber : (s.clearCounters).dayNumber = s.dayNumber := rfl
@[simp] theorem State.clearCounters_walkActive : (s.clearCounters).walkActive = s.walkActive := rfl
@[simp] theorem State.clearCounters_walkPos : (s.clearCounters).walkPos = s.walkPos := rfl
@[simp] theorem State.clearCounters_clock : (s.clearCounters).clock = s.clock := rfl
@[simp] theorem State.clearCounters_sched : (s.clearCounters).sched = s.sched := rfl
@[simp] theorem State.clearCounters_session : (s.clearCounters).session = s.session := rfl
@[simp] theorem State.clearCounters_fu : (s.clearCounters).fu = s.fu := rfl
@[simp] theorem State.clearCounters_cells : (s.clearCounters).cells = s.cells := rfl
@[simp] theorem State.clearCounters_flashPeriod : (s.clearCounters).flashPeriod = s.flashPeriod := rfl
@[simp] theorem State.clearCounters_queues : (s.clearCounters).queues = s.queues := rfl
@[simp] theorem State.clearCounters_lines : (s.clearCounters).lines = s.lines := rfl
@[simp] theorem State.clearCounters_slots : (s.clearCounters).slots = s.slots := rfl
@[simp] theorem State.clearCounters_displays : (s.clearCounters).displays = s.displays := rfl
@[simp] theorem State.clearCounters_ribbonA : (s.clearCounters).ribbonA = s.ribbonA := rfl
@[simp] theorem State.clearCounters_ribbonB : (s.clearCounters).ribbonB = s.ribbonB := rfl
@[simp] theorem State.clearCounters_tlines : (s.clearCounters).tlines = s.tlines := rfl
@[simp] theorem State.clearCounters_terms : (s.clearCounters).terms = s.terms := rfl
@[simp] theorem State.clearCounters_windows : (s.clearCounters).windows = s.windows := rfl
@[simp] theorem State.clearCounters_counters : (s.clearCounters).counters = [] := rfl
@[simp] theorem State.clearCounters_entry (j : Nat) : (s.clearCounters).entry j = s.entry j := rfl
@[simp] theorem State.clearCounters_schedEntry (j : Nat) : (s.clearCounters).schedEntry j = s.schedEntry j := rfl
@[simp] theorem State.clearCounters_cell (j : Nat) : (s.clearCounters).cell j = s.cell j := rfl
@[simp] theorem State.clearCounters_refreshQueue (j : Nat) : (s.clearCounters).refreshQueue j = s.refreshQueue j := rfl
@[simp] theorem State.clearCounters_line (j : Nat) : (s.clearCounters).line j = s.line j := rfl
@[simp] theorem State.clearCounters_slotState (j : Nat) : (s.clearCounters).slotState j = s.slotState j := rfl
@[simp] theorem State.clearCounters_display (j k : Nat) : (s.clearCounters).display j k = s.display j k := rfl
@[simp] theorem State.clearCounters_tline (j : Nat) : (s.clearCounters).tline j = s.tline j := rfl
@[simp] theorem State.clearCounters_term (j : Nat) : (s.clearCounters).term j = s.term j := rfl
@[simp] theorem State.clearCounters_window (j : Nat) : (s.clearCounters).window j = s.window j := rfl
@[simp] theorem State.clearCounters_ribbon (id : RibbonId) : (s.clearCounters).ribbon id = s.ribbon id := by cases id <;> rfl

/-! ### setRibbon -/

@[simp] theorem State.setRibbon_pending (id : RibbonId) (v : Ribbon) : (s.setRibbon id v).pending = s.pending := by cases id <;> rfl
@[simp] theorem State.setRibbon_free (id : RibbonId) (v : Ribbon) : (s.setRibbon id v).free = s.free := by cases id <;> rfl
@[simp] theorem State.setRibbon_resetAsserted (id : RibbonId) (v : Ribbon) : (s.setRibbon id v).resetAsserted = s.resetAsserted := by cases id <;> rfl
@[simp] theorem State.setRibbon_link (id : RibbonId) (v : Ribbon) : (s.setRibbon id v).link = s.link := by cases id <;> rfl
@[simp] theorem State.setRibbon_loader (id : RibbonId) (v : Ribbon) : (s.setRibbon id v).loader = s.loader := by cases id <;> rfl
@[simp] theorem State.setRibbon_entries (id : RibbonId) (v : Ribbon) : (s.setRibbon id v).entries = s.entries := by cases id <;> rfl
@[simp] theorem State.setRibbon_directory (id : RibbonId) (v : Ribbon) : (s.setRibbon id v).directory = s.directory := by cases id <;> rfl
@[simp] theorem State.setRibbon_dayNumber (id : RibbonId) (v : Ribbon) : (s.setRibbon id v).dayNumber = s.dayNumber := by cases id <;> rfl
@[simp] theorem State.setRibbon_walkActive (id : RibbonId) (v : Ribbon) : (s.setRibbon id v).walkActive = s.walkActive := by cases id <;> rfl
@[simp] theorem State.setRibbon_walkPos (id : RibbonId) (v : Ribbon) : (s.setRibbon id v).walkPos = s.walkPos := by cases id <;> rfl
@[simp] theorem State.setRibbon_clock (id : RibbonId) (v : Ribbon) : (s.setRibbon id v).clock = s.clock := by cases id <;> rfl
@[simp] theorem State.setRibbon_sched (id : RibbonId) (v : Ribbon) : (s.setRibbon id v).sched = s.sched := by cases id <;> rfl
@[simp] theorem State.setRibbon_session (id : RibbonId) (v : Ribbon) : (s.setRibbon id v).session = s.session := by cases id <;> rfl
@[simp] theorem State.setRibbon_fu (id : RibbonId) (v : Ribbon) : (s.setRibbon id v).fu = s.fu := by cases id <;> rfl
@[simp] theorem State.setRibbon_cells (id : RibbonId) (v : Ribbon) : (s.setRibbon id v).cells = s.cells := by cases id <;> rfl
@[simp] theorem State.setRibbon_flashPeriod (id : RibbonId) (v : Ribbon) : (s.setRibbon id v).flashPeriod = s.flashPeriod := by cases id <;> rfl
@[simp] theorem State.setRibbon_queues (id : RibbonId) (v : Ribbon) : (s.setRibbon id v).queues = s.queues := by cases id <;> rfl
@[simp] theorem State.setRibbon_lines (id : RibbonId) (v : Ribbon) : (s.setRibbon id v).lines = s.lines := by cases id <;> rfl
@[simp] theorem State.setRibbon_slots (id : RibbonId) (v : Ribbon) : (s.setRibbon id v).slots = s.slots := by cases id <;> rfl
@[simp] theorem State.setRibbon_displays (id : RibbonId) (v : Ribbon) : (s.setRibbon id v).displays = s.displays := by cases id <;> rfl
@[simp] theorem State.setRibbon_tlines (id : RibbonId) (v : Ribbon) : (s.setRibbon id v).tlines = s.tlines := by cases id <;> rfl
@[simp] theorem State.setRibbon_terms (id : RibbonId) (v : Ribbon) : (s.setRibbon id v).terms = s.terms := by cases id <;> rfl
@[simp] theorem State.setRibbon_windows (id : RibbonId) (v : Ribbon) : (s.setRibbon id v).windows = s.windows := by cases id <;> rfl
@[simp] theorem State.setRibbon_counters (id : RibbonId) (v : Ribbon) : (s.setRibbon id v).counters = s.counters := by cases id <;> rfl
@[simp] theorem State.setRibbon_entry (id : RibbonId) (v : Ribbon) (j : Nat) : (s.setRibbon id v).entry j = s.entry j := by cases id <;> rfl
@[simp] theorem State.setRibbon_schedEntry (id : RibbonId) (v : Ribbon) (j : Nat) : (s.setRibbon id v).schedEntry j = s.schedEntry j := by cases id <;> rfl
@[simp] theorem State.setRibbon_cell (id : RibbonId) (v : Ribbon) (j : Nat) : (s.setRibbon id v).cell j = s.cell j := by cases id <;> rfl
@[simp] theorem State.setRibbon_refreshQueue (id : RibbonId) (v : Ribbon) (j : Nat) : (s.setRibbon id v).refreshQueue j = s.refreshQueue j := by cases id <;> rfl
@[simp] theorem State.setRibbon_line (id : RibbonId) (v : Ribbon) (j : Nat) : (s.setRibbon id v).line j = s.line j := by cases id <;> rfl
@[simp] theorem State.setRibbon_slotState (id : RibbonId) (v : Ribbon) (j : Nat) : (s.setRibbon id v).slotState j = s.slotState j := by cases id <;> rfl
@[simp] theorem State.setRibbon_display (id : RibbonId) (v : Ribbon) (j k : Nat) : (s.setRibbon id v).display j k = s.display j k := by cases id <;> rfl
@[simp] theorem State.setRibbon_tline (id : RibbonId) (v : Ribbon) (j : Nat) : (s.setRibbon id v).tline j = s.tline j := by cases id <;> rfl
@[simp] theorem State.setRibbon_term (id : RibbonId) (v : Ribbon) (j : Nat) : (s.setRibbon id v).term j = s.term j := by cases id <;> rfl
@[simp] theorem State.setRibbon_window (id : RibbonId) (v : Ribbon) (j : Nat) : (s.setRibbon id v).window j = s.window j := by cases id <;> rfl
@[simp] theorem State.setRibbon_counter (id : RibbonId) (v : Ribbon) (j : Counter) : (s.setRibbon id v).counter j = s.counter j := by cases id <;> rfl
@[simp] theorem State.setRibbon_ribbon_same (id : RibbonId) (v : Ribbon) : (s.setRibbon id v).ribbon id = v := by
  cases id <;> rfl
theorem State.setRibbon_ribbon_other {id id' : RibbonId} (h : id' ≠ id) (v : Ribbon) :
    (s.setRibbon id v).ribbon id' = s.ribbon id' := by
  cases id <;> cases id' <;> first | rfl | exact absurd rfl h

/-! ### count -/

@[simp] theorem State.count_pending (c : Counter) : (s.count c).pending = s.pending := rfl
@[simp] theorem State.count_free (c : Counter) : (s.count c).free = s.free := rfl
@[simp] theorem State.count_resetAsserted (c : Counter) : (s.count c).resetAsserted = s.resetAsserted := rfl
@[simp] theorem State.count_link (c : Counter) : (s.count c).link = s.link := rfl
@[simp] theorem State.count_loader (c : Counter) : (s.count c).loader = s.loader := rfl
@[simp] theorem State.count_entries (c : Counter) : (s.count c).entries = s.entries := rfl
@[simp] theorem State.count_directory (c : Counter) : (s.count c).directory = s.directory := rfl
@[simp] theorem State.count_dayNumber (c : Counter) : (s.count c).dayNumber = s.dayNumber := rfl
@[simp] theorem State.count_walkActive (c : Counter) : (s.count c).walkActive = s.walkActive := rfl
@[simp] theorem State.count_walkPos (c : Counter) : (s.count c).walkPos = s.walkPos := rfl
@[simp] theorem State.count_clock (c : Counter) : (s.count c).clock = s.clock := rfl
@[simp] theorem State.count_sched (c : Counter) : (s.count c).sched = s.sched := rfl
@[simp] theorem State.count_session (c : Counter) : (s.count c).session = s.session := rfl
@[simp] theorem State.count_fu (c : Counter) : (s.count c).fu = s.fu := rfl
@[simp] theorem State.count_cells (c : Counter) : (s.count c).cells = s.cells := rfl
@[simp] theorem State.count_flashPeriod (c : Counter) : (s.count c).flashPeriod = s.flashPeriod := rfl
@[simp] theorem State.count_queues (c : Counter) : (s.count c).queues = s.queues := rfl
@[simp] theorem State.count_lines (c : Counter) : (s.count c).lines = s.lines := rfl
@[simp] theorem State.count_slots (c : Counter) : (s.count c).slots = s.slots := rfl
@[simp] theorem State.count_displays (c : Counter) : (s.count c).displays = s.displays := rfl
@[simp] theorem State.count_ribbonA (c : Counter) : (s.count c).ribbonA = s.ribbonA := rfl
@[simp] theorem State.count_ribbonB (c : Counter) : (s.count c).ribbonB = s.ribbonB := rfl
@[simp] theorem State.count_tlines (c : Counter) : (s.count c).tlines = s.tlines := rfl
@[simp] theorem State.count_terms (c : Counter) : (s.count c).terms = s.terms := rfl
@[simp] theorem State.count_windows (c : Counter) : (s.count c).windows = s.windows := rfl
@[simp] theorem State.count_entry (c : Counter) (j : Nat) : (s.count c).entry j = s.entry j := rfl
@[simp] theorem State.count_schedEntry (c : Counter) (j : Nat) : (s.count c).schedEntry j = s.schedEntry j := rfl
@[simp] theorem State.count_cell (c : Counter) (j : Nat) : (s.count c).cell j = s.cell j := rfl
@[simp] theorem State.count_refreshQueue (c : Counter) (j : Nat) : (s.count c).refreshQueue j = s.refreshQueue j := rfl
@[simp] theorem State.count_line (c : Counter) (j : Nat) : (s.count c).line j = s.line j := rfl
@[simp] theorem State.count_slotState (c : Counter) (j : Nat) : (s.count c).slotState j = s.slotState j := rfl
@[simp] theorem State.count_display (c : Counter) (j k : Nat) : (s.count c).display j k = s.display j k := rfl
@[simp] theorem State.count_tline (c : Counter) (j : Nat) : (s.count c).tline j = s.tline j := rfl
@[simp] theorem State.count_term (c : Counter) (j : Nat) : (s.count c).term j = s.term j := rfl
@[simp] theorem State.count_window (c : Counter) (j : Nat) : (s.count c).window j = s.window j := rfl
@[simp] theorem State.count_ribbon (c : Counter) (id : RibbonId) : (s.count c).ribbon id = s.ribbon id := by cases id <;> rfl

end Sys2Proof.Machine
end

