-- ==== Sys2Proof/Laws/Table.lean ====
section
/-! SUPPORT. Sparse tables: a read after a write, and that every write keeps the canonical form. -/

namespace Sys2Proof.Machine

/-! ### Reads after writes -/

theorem Table.get_put_same {α : Type} (d : α) (t : Table α) (i : Nat) (v : α) :
    Table.get d (Table.put t i v) i = v := by
  induction t with
  | nil => simp [Table.put, Table.get]
  | cons e t ih =>
    obtain ⟨k, w⟩ := e
    simp only [Table.put]
    split_ifs with h1 h2
    · simp [Table.get]
    · simp [Table.get]
    · simp [Table.get, h2, ih]

theorem Table.get_put_other {α : Type} (d : α) (t : Table α) {i j : Nat} (h : j ≠ i) (v : α) :
    Table.get d (Table.put t i v) j = Table.get d t j := by
  induction t with
  | nil => simp [Table.put, Table.get, h]
  | cons e t ih =>
    obtain ⟨k, w⟩ := e
    simp only [Table.put]
    split_ifs with h1 h2
    · simp [Table.get, h]
    · subst h2; simp [Table.get, h]
    · simp [Table.get, ih]

/-- A table that rises from some number on rises from none. -/
theorem Table.rises_of_some {α : Type} {t : Table α} {lo : Nat} (h : Table.risesFrom (some lo) t = true) :
    Table.risesFrom none t = true := by
  cases t with
  | nil => rfl
  | cons e t =>
    obtain ⟨k, w⟩ := e
    simp only [Table.risesFrom, Bool.and_eq_true] at h
    simpa [Table.risesFrom] using h.2

@[simp] theorem Table.erase_cons {α : Type} (k : Nat) (w : α) (t : Table α) (i : Nat) :
    Table.erase ((k, w) :: t) i = if k = i then Table.erase t i else (k, w) :: Table.erase t i := by
  unfold Table.erase
  by_cases h : k = i <;> simp [h]

@[simp] theorem Table.erase_nil {α : Type} (i : Nat) : Table.erase ([] : Table α) i = [] := rfl

theorem Table.get_erase_same {α : Type} (d : α) (t : Table α) (i : Nat) :
    Table.get d (Table.erase t i) i = d := by
  induction t with
  | nil => rfl
  | cons e t ih =>
    obtain ⟨k, w⟩ := e
    rw [Table.erase_cons]
    split_ifs with h
    · exact ih
    · have hk : i ≠ k := fun e => h e.symm
      simp [Table.get, hk, ih]

theorem Table.get_erase_other {α : Type} (d : α) (t : Table α) {i j : Nat} (h : j ≠ i) :
    Table.get d (Table.erase t i) j = Table.get d t j := by
  induction t with
  | nil => rfl
  | cons e t ih =>
    obtain ⟨k, w⟩ := e
    rw [Table.erase_cons]
    split_ifs with h1
    · subst h1; simp [Table.get, h, ih]
    · simp [Table.get, ih]

/-- A read of another number is not changed by a write. -/
theorem Table.get_set_other {α : Type} [DecidableEq α] (d : α) (t : Table α) {i j : Nat} (h : j ≠ i) (v : α) :
    Table.get d (Table.set d t i v) j = Table.get d t j := by
  unfold Table.set
  split_ifs
  · exact Table.get_erase_other d t h
  · exact Table.get_put_other d t h v

/-- A read after a write gives what was written. -/
@[simp] theorem Table.get_set_same {α : Type} [DecidableEq α] (d : α) (t : Table α) (i : Nat) (v : α) :
    Table.get d (Table.set d t i v) i = v := by
  unfold Table.set
  split_ifs with h
  · rw [Table.get_erase_same d t i, h]
  · exact Table.get_put_same d t i v

/-! ### Writes keep the form -/

/-- A table that rises from above `m` rises from above any smaller number. -/
theorem Table.rises_mono {α : Type} {t : Table α} {l m : Nat} (h : l ≤ m) (hr : Table.risesFrom (some m) t = true) :
    Table.risesFrom (some l) t = true := by
  cases t with
  | nil => rfl
  | cons e t =>
    obtain ⟨k, w⟩ := e
    simp only [Table.risesFrom, Bool.and_eq_true, decide_eq_true_eq] at hr ⊢
    exact ⟨by omega, hr.2⟩

theorem Table.rises_erase {α : Type} (t : Table α) (i : Nat) (lo : Option Nat)
    (hr : Table.risesFrom lo t = true) : Table.risesFrom lo (Table.erase t i) = true := by
  induction t generalizing lo with
  | nil => exact hr
  | cons e t ih =>
    obtain ⟨k, w⟩ := e
    rw [Table.erase_cons]
    cases lo with
    | none =>
      have hk : Table.risesFrom (some k) t = true := by simpa [Table.risesFrom] using hr
      split_ifs
      · exact ih none (Table.rises_of_some hk)
      · simpa [Table.risesFrom] using ih (some k) hk
    | some l =>
      simp only [Table.risesFrom, Bool.and_eq_true, decide_eq_true_eq] at hr
      split_ifs
      · exact ih (some l) (Table.rises_mono (by omega) hr.2)
      · simp only [Table.risesFrom, Bool.and_eq_true, decide_eq_true_eq]
        exact ⟨hr.1, ih (some k) hr.2⟩

theorem Table.rises_put {α : Type} (t : Table α) (i : Nat) (v : α) (lo : Option Nat)
    (hr : Table.risesFrom lo t = true) (hlo : ∀ l, lo = some l → l < i) :
    Table.risesFrom lo (Table.put t i v) = true := by
  induction t generalizing lo with
  | nil =>
    cases lo with
    | none => rfl
    | some l => simp [Table.put, Table.risesFrom, hlo l rfl]
  | cons e t ih =>
    obtain ⟨k, w⟩ := e
    simp only [Table.put]
    split_ifs with h1 h2
    · cases lo with
      | none =>
        simp only [Table.risesFrom, Bool.and_eq_true, decide_eq_true_eq] at hr ⊢
        exact ⟨h1, hr⟩
      | some l =>
        simp only [Table.risesFrom, Bool.and_eq_true, decide_eq_true_eq] at hr ⊢
        exact ⟨hlo l rfl, h1, hr.2⟩
    · subst h2
      cases lo <;> simpa [Table.risesFrom] using hr
    · have hk : ∀ l, some k = some l → l < i := by
        intro l hl; cases hl; omega
      cases lo with
      | none => simpa [Table.risesFrom] using ih (some k) (by simpa [Table.risesFrom] using hr) hk
      | some l =>
        simp only [Table.risesFrom, Bool.and_eq_true, decide_eq_true_eq] at hr ⊢
        exact ⟨hr.1, ih (some k) hr.2 hk⟩

theorem Table.mem_erase {α : Type} {t : Table α} {i : Nat} {e : Nat × α} (h : e ∈ Table.erase t i) : e ∈ t :=
  List.mem_of_mem_filter h

theorem Table.mem_put {α : Type} {t : Table α} {i : Nat} {v : α} {e : Nat × α} (h : e ∈ Table.put t i v) :
    e = (i, v) ∨ e ∈ t := by
  induction t with
  | nil => simpa [Table.put] using h
  | cons x t ih =>
    obtain ⟨k, w⟩ := x
    simp only [Table.put] at h
    split_ifs at h with h1 h2
    · rcases List.mem_cons.mp h with h | h
      · exact .inl h
      · exact .inr h
    · rcases List.mem_cons.mp h with h | h
      · exact .inl h
      · exact .inr (List.mem_cons_of_mem _ h)
    · rcases List.mem_cons.mp h with h | h
      · exact .inr (h ▸ List.mem_cons_self)
      · exact (ih h).imp id (List.mem_cons_of_mem _)

/-- Every write keeps the canonical form. -/
theorem Table.wf_set {α : Type} [DecidableEq α] (d : α) (t : Table α) (i : Nat) (v : α) (h : Table.wf d t = true) :
    Table.wf d (Table.set d t i v) = true := by
  simp only [Table.wf, Bool.and_eq_true, List.all_eq_true, decide_eq_true_eq] at h ⊢
  unfold Table.set
  split_ifs with hv
  · exact ⟨Table.rises_erase t i none h.1, fun e he => h.2 e (Table.mem_erase he)⟩
  · refine ⟨Table.rises_put t i v none h.1 (by simp), fun e he => ?_⟩
    rcases Table.mem_put he with rfl | he
    · exact hv
    · exact h.2 e he

/-- The empty table has the form. -/
theorem Table.wf_nil {α : Type} [DecidableEq α] (d : α) : Table.wf d ([] : Table α) = true := rfl

theorem Table.rises_of_wf {α : Type} [DecidableEq α] {d : α} {t : Table α} (h : Table.wf d t = true) :
    Table.risesFrom none t = true := by
  simp only [Table.wf, Bool.and_eq_true] at h
  exact h.1

end Sys2Proof.Machine
end

