-- ==== Sys2Proof/Laws/Reads.lean ====
section
/-! SUPPORT. A named read after a named write of the same table; counters; what applying an operation to each of
several objects keeps. -/

namespace Sys2Proof.Machine

variable (s : State)

/-! ### Reads after writes -/

@[simp] theorem State.entry_setEntry_same (i : Nat) (v : Entry) : (s.setEntry i v).entry i = v :=
  Table.get_set_same _ _ i v
theorem State.entry_setEntry_other {i j : Nat} (h : j ≠ i) (v : Entry) : (s.setEntry i v).entry j = s.entry j :=
  Table.get_set_other _ _ h v
@[simp] theorem State.schedEntry_setSched_same (i : Nat) (v : SchedEntry) : (s.setSched i v).schedEntry i = v :=
  Table.get_set_same _ _ i v
theorem State.schedEntry_setSched_other {i j : Nat} (h : j ≠ i) (v : SchedEntry) : (s.setSched i v).schedEntry j = s.schedEntry j :=
  Table.get_set_other _ _ h v
@[simp] theorem State.cell_setCell_same (i : Nat) (v : Cell) : (s.setCell i v).cell i = v :=
  Table.get_set_same _ _ i v
theorem State.cell_setCell_other {i j : Nat} (h : j ≠ i) (v : Cell) : (s.setCell i v).cell j = s.cell j :=
  Table.get_set_other _ _ h v
@[simp] theorem State.refreshQueue_setQueue_same (i : Nat) (v : List Nat) : (s.setQueue i v).refreshQueue i = v :=
  Table.get_set_same _ _ i v
theorem State.refreshQueue_setQueue_other {i j : Nat} (h : j ≠ i) (v : List Nat) : (s.setQueue i v).refreshQueue j = s.refreshQueue j :=
  Table.get_set_other _ _ h v
@[simp] theorem State.line_setLine_same (i : Nat) (v : BoardLine) : (s.setLine i v).line i = v :=
  Table.get_set_same _ _ i v
theorem State.line_setLine_other {i j : Nat} (h : j ≠ i) (v : BoardLine) : (s.setLine i v).line j = s.line j :=
  Table.get_set_other _ _ h v
@[simp] theorem State.slotState_setSlot_same (i : Nat) (v : SlotState) : (s.setSlot i v).slotState i = v :=
  Table.get_set_same _ _ i v
theorem State.slotState_setSlot_other {i j : Nat} (h : j ≠ i) (v : SlotState) : (s.setSlot i v).slotState j = s.slotState j :=
  Table.get_set_other _ _ h v
@[simp] theorem State.tline_setTLine_same (i : Nat) (v : TermLine) : (s.setTLine i v).tline i = v :=
  Table.get_set_same _ _ i v
theorem State.tline_setTLine_other {i j : Nat} (h : j ≠ i) (v : TermLine) : (s.setTLine i v).tline j = s.tline j :=
  Table.get_set_other _ _ h v
@[simp] theorem State.term_setTerm_same (i : Nat) (v : Terminal) : (s.setTerm i v).term i = v :=
  Table.get_set_same _ _ i v
theorem State.term_setTerm_other {i j : Nat} (h : j ≠ i) (v : Terminal) : (s.setTerm i v).term j = s.term j :=
  Table.get_set_other _ _ h v
@[simp] theorem State.window_setWindow_same (i : Nat) (v : Window) : (s.setWindow i v).window i = v :=
  Table.get_set_same _ _ i v
theorem State.window_setWindow_other {i j : Nat} (h : j ≠ i) (v : Window) : (s.setWindow i v).window j = s.window j :=
  Table.get_set_other _ _ h v

/-! ### Counters -/

theorem Counter.index_injective {c d : Counter} (h : c.index = d.index) : c = d := by
  cases c <;> cases d <;> first | rfl | exact absurd h (by decide)

/-- A counter advanced: it saturates. -/
@[simp] theorem State.counter_advance_same (c : Counter) (n : Nat) :
    (s.advance c n).counter c = min Config.maxCounter (s.counter c + n) := Table.get_set_same _ _ _ _

/-- Any other counter stands. -/
theorem State.counter_advance_other {c d : Counter} (h : d ≠ c) (n : Nat) :
    (s.advance c n).counter d = s.counter d :=
  Table.get_set_other _ _ (fun e => h (Counter.index_injective e)) _

@[simp] theorem State.counter_count_same (c : Counter) :
    (s.count c).counter c = min Config.maxCounter (s.counter c + 1) := s.counter_advance_same c 1

theorem State.counter_count_other {c d : Counter} (h : d ≠ c) : (s.count c).counter d = s.counter d :=
  s.counter_advance_other h 1

@[simp] theorem State.counter_clearCounters (c : Counter) : s.clearCounters.counter c = 0 := rfl

/-! ### Notices -/

/-- R200: a raise changes the notice list alone: it stands, or the item has joined its tail. -/
theorem State.raise_cases (n : NoticeItem) :
    (n ∈ s.link.notices ∧ s.raise n = s) ∨
      (n ∉ s.link.notices ∧ s.raise n = s.setLink { s.link with notices := s.link.notices ++ [n] }) := by
  unfold State.raise
  by_cases h : n ∈ s.link.notices
  · exact .inl ⟨h, if_pos h⟩
  · exact .inr ⟨h, if_neg h⟩

/-! ### Several objects -/

@[simp] theorem forEach_nil {α : Type} (f : α → State → State) : forEach [] f s = s := rfl

@[simp] theorem forEach_cons {α : Type} (a : α) (l : List α) (f : α → State → State) :
    forEach (a :: l) f s = forEach l f (f a s) := rfl

/-- A relation that holds of no change and of one change after another holds of `forEach` when it holds of each. -/
theorem forEach_rel {α : Type} {R : State → State → Prop} (refl : ∀ s, R s s)
    (trans : ∀ a b c, R a b → R b c → R a c) {f : α → State → State} (l : List α) (h : ∀ a s, R s (f a s)) (s : State) :
    R s (forEach l f s) := by
  induction l generalizing s with
  | nil => exact refl s
  | cons a l ih => exact trans _ _ _ (h a s) (ih (f a s))

/-- An invariant that each application keeps is kept by `forEach`. -/
theorem forEach_keeps {α : Type} {P : State → Prop} {f : α → State → State} (l : List α)
    (h : ∀ a s, P s → P (f a s)) {s : State} (hs : P s) : P (forEach l f s) := by
  induction l generalizing s with
  | nil => exact hs
  | cons a l ih => exact ih (h a s hs)

end Sys2Proof.Machine
end

