-- ==== Sys2Proof/Laws/Shared.lean ====
section
/-! SUPPORT. One lemma per shared operation: all it can do. -/

namespace Sys2Proof.Machine

variable (s : State)

/-! ### The frame of a command -/

/-- A command's effect while RESET is not asserted. -/
theorem act_of_released {s : State} (h : s.resetAsserted = false) (f : State → State) :
    act f s = .next (finish s (f s)) := by simp [act, h]

/-- While RESET is asserted a command has no effect. -/
theorem act_of_asserted {s : State} (h : s.resetAsserted = true) (f : State → State) : act f s = .next s := by
  simp [act, h]

/-- Every command through `act` answers a next state. -/
theorem act_next (f : State → State) (s : State) : ∃ t, act f s = .next t := by
  unfold act; split <;> exact ⟨_, rfl⟩

/-- The effect of a command at which there is no decision, while RESET is not asserted. -/
theorem actUndecided_of_released {s : State} (h : s.resetAsserted = false) (f : State → State) :
    actUndecided f s = .next (noteTogether s (f s)) := by simp [actUndecided, h]

/-- While RESET is asserted it has none. -/
theorem actUndecided_of_asserted {s : State} (h : s.resetAsserted = true) (f : State → State) :
    actUndecided f s = .next s := by simp [actUndecided, h]

/-! ### The decision that follows a command (R64, R65, R72) -/

theorem mem_requesters (s : State) (p : Nat) : p ∈ requesters s ↔ p < 14 ∧ requests p s = true := by
  simp [requesters]

/-- R64, R72: no decision while a job is in flight; the whole decision where the state before awaited one; else the unit goes
IDLE, or grants the one requester, or one of several that a free value names. -/
theorem settle_cases (before s : State) :
    (s.fu.job ≠ none ∧ settle before s = s) ∨
      (s.fu.job = none ∧ awaitsDecision before = true ∧ settle before s = arbitrate s) ∨
      (s.fu.job = none ∧ awaitsDecision before = false ∧ requesters s = [] ∧ settle before s = goIdle s) ∨
      (∃ p, s.fu.job = none ∧ awaitsDecision before = false ∧ requesters s = [p] ∧ settle before s = grantIdle p s) ∨
      (∃ p, s.fu.job = none ∧ awaitsDecision before = false ∧ 2 ≤ (requesters s).length ∧ p ∈ requesters s ∧
        settle before s = grantIdle p (s.setFree (s.free + 1))) := by
  unfold settle
  cases hj : s.fu.job with
  | some j => exact .inl ⟨by simp, rfl⟩
  | none =>
    cases ha : awaitsDecision before with
    | true => exact .inr (.inl ⟨rfl, rfl, by simp⟩)
    | false =>
      cases hr : requesters s with
      | nil => exact .inr (.inr (.inl ⟨rfl, rfl, rfl, by simp⟩))
      | cons p l =>
        cases l with
        | nil => exact .inr (.inr (.inr (.inl ⟨p, rfl, rfl, rfl, by simp⟩)))
        | cons q l =>
          have hlt : Config.freeChoice s.free % (p :: q :: l).length < (p :: q :: l).length :=
            Nat.mod_lt _ (by simp)
          refine .inr (.inr (.inr (.inr ⟨_, rfl, rfl, by simp, List.getElem_mem hlt, ?_⟩)))
          rw [if_neg Bool.false_ne_true]
          dsimp only
          rw [List.getD_eq_getElem?_getD, List.getElem?_eq_getElem hlt, Option.getD_some]

/-! ### Serving -/

/-- R197, R198: the service of the head request of its kind. -/
theorem serve_of_ready {α : Type} {s : State} {k : HostKind} {r : LinkFrame} {rest : List LinkFrame}
    (h : s.ready k r rest) (read : List Byte → Option α) (rule : α → State → Served) :
    serve k read rule s = endService r (shaped read rule r.body (beginService r rest s)) := by
  obtain ⟨-, h2, h3, h4, h5, h6⟩ := h
  simp [serve, serveHead, h5, mayServe, h2, h3, h4, h6]

/-- R197: a body its reader reads goes to the rule. -/
theorem shaped_of_read {α : Type} {read : List Byte → Option α} {body : List Byte} {x : α} (h : read body = some x)
    (rule : α → State → Served) (s : State) : shaped read rule body s = rule x s := by simp [shaped, h]

/-- R197: a body its reader does not read is MALFORMED. -/
theorem shaped_of_unread {α : Type} {read : List Byte → Option α} {body : List Byte} (h : read body = none)
    (rule : α → State → Served) (s : State) : shaped read rule body s = Served.refuse .malformed s := by
  simp [shaped, h]

/-- R198: a refusal that changes nothing else. -/
theorem endService_refuse {s : State} (r : LinkFrame) (rest : List LinkFrame) (reason : Reason) :
    endService r (Served.refuse reason (beginService r rest s)) = s.refusedHead r rest reason := by
  simp [endService, Served.refuse, beginService, State.refusedHead, refuseReply, putReply, State.setLink]

/-! ### Modes and print queues (R121, R122) -/

/-- R122, R124: a mode evaluation keeps the mode, rises or falls. -/
theorem evalMode_cases (id : RibbonId) (s : State) :
    (risen (s.ribbon id) = none ∧ fallen (s.ribbon id) = none ∧ evalMode id s = s) ∨
      (∃ m, risen (s.ribbon id) = some m ∧
        evalMode id s = ((s.setRibbon id ((s.ribbon id).rise m)).count .rbModeRises).raise (.ribbon id)) ∨
      (∃ m, risen (s.ribbon id) = none ∧ fallen (s.ribbon id) = some m ∧
        evalMode id s = (s.setRibbon id ((s.ribbon id).fall m)).raise (.ribbon id)) := by
  unfold evalMode
  dsimp only
  cases risen (s.ribbon id) with
  | some m => exact .inr (.inl ⟨m, rfl, rfl⟩)
  | none =>
    cases fallen (s.ribbon id) with
    | some m => exact .inr (.inr ⟨m, rfl, rfl, rfl⟩)
    | none => exact .inl ⟨rfl, rfl, rfl⟩

/-- R121: the queue the full-queue policy leaves for a record is shorter by one. -/
theorem roomFor_length {body : PrintBody} {q q' : List PrintRecord} (h : roomFor body q = some q') :
    q'.length + 1 = q.length := by
  have key : ∀ p : PrintRecord → Bool, q.any p = true → (q.eraseP p).length + 1 = q.length := by
    intro p hp
    have hp' : ∃ a ∈ q, p a = true := by simpa using hp
    obtain ⟨a, ha, hpa⟩ := hp'
    have := List.length_eraseP_of_mem ha hpa
    have hpos : 0 < q.length := List.length_pos_of_mem ha
    omega
  unfold roomFor at h
  split at h
  · split_ifs at h with h1 h2
    · cases h; exact key _ h1
    · cases h; exact key _ h2
  · split_ifs at h with h1
    cases h; exact key _ h1

/-- R118 to R121: an offer is dropped by an OFF ribbon, joins the tail, makes room and joins, or is dropped. -/
theorem offerPrint_cases (id : RibbonId) (body : PrintBody) (at' : Nat) (s : State) :
    ((s.ribbon id).state = .off ∧ offerPrint id body at' s = s) ∨
      ((s.ribbon id).state ≠ .off ∧ (s.ribbon id).queue.length < Config.printPlaces ∧
        offerPrint id body at' s = joinQueue id (s.ribbon id).queue (makeRecord body at') s) ∨
      (∃ q, (s.ribbon id).state ≠ .off ∧ Config.printPlaces ≤ (s.ribbon id).queue.length ∧
        roomFor body (s.ribbon id).queue = some q ∧
        offerPrint id body at' s = joinQueue id q (makeRecord body at') (s.count .rbDropped)) ∨
      ((s.ribbon id).state ≠ .off ∧ Config.printPlaces ≤ (s.ribbon id).queue.length ∧
        roomFor body (s.ribbon id).queue = none ∧ offerPrint id body at' s = s.count .rbDropped) := by
  unfold offerPrint
  dsimp only
  by_cases h : (s.ribbon id).state = .off
  · exact .inl ⟨h, if_pos h⟩
  · by_cases h2 : (s.ribbon id).queue.length < Config.printPlaces
    · exact .inr (.inl ⟨h, h2, by rw [if_neg h, if_pos h2]⟩)
    · rw [if_neg h, if_neg h2]
      cases roomFor body (s.ribbon id).queue with
      | some q => exact .inr (.inr (.inl ⟨q, h, by omega, rfl, rfl⟩))
      | none => exact .inr (.inr (.inr ⟨h, by omega, rfl, rfl⟩))

/-! ### Refresh queues and rolls (R80, R28) -/

/-- R80: a cell offered keeps its place, joins the tail, or is absorbed. -/
theorem offerCell_cases (forced : Bool) (c : Nat) (s : State) :
    (c ∈ s.refreshQueue (c / 64) ∧ offerCell forced c s = s) ∨
      (c ∉ s.refreshQueue (c / 64) ∧ (forced = true ∨ (s.cell c).needsFull = false) ∧
        offerCell forced c s = s.setQueue (c / 64) (s.refreshQueue (c / 64) ++ [c])) ∨
      (c ∉ s.refreshQueue (c / 64) ∧ forced = false ∧ (s.cell c).needsFull = true ∧ offerCell forced c s = s) := by
  unfold offerCell
  by_cases h : c ∈ s.refreshQueue (c / 64)
  · exact .inl ⟨h, by simp [h]⟩
  · cases hf : forced <;> cases hn : (s.cell c).needsFull
    · exact .inr (.inl ⟨h, .inr rfl, by simp [h]⟩)
    · exact .inr (.inr ⟨h, rfl, rfl, by simp [h]⟩)
    · exact .inr (.inl ⟨h, .inl rfl, by simp [h]⟩)
    · exact .inr (.inl ⟨h, .inl rfl, by simp [h]⟩)

/-- R28, R30: a stale entry is rolled and its change handed out; a current one stands. -/
theorem touch_cases (i : Nat) (s : State) :
    ((s.entry i).stale s.dayNumber = false ∧ touch i s = s) ∨
      ((s.entry i).stale s.dayNumber = true ∧
        touch i s = fanCellsAndRows i (s.setEntry i ((s.entry i).rolled s.dayNumber))) := by
  unfold touch
  cases h : (s.entry i).stale s.dayNumber
  · exact .inl ⟨rfl, by simp⟩
  · exact .inr ⟨rfl, by simp⟩

/-- R27: a rolled entry is not stale on the day of its roll. -/
@[simp] theorem Entry.rolled_stale (day : Nat) (e : Entry) : (e.rolled day).stale day = false := by
  simp [Entry.stale, Entry.rolled]

/-! ### Job starts: what they leave unchanged -/

theorem JobFrame.refl (s : State) : JobFrame s s :=
  ⟨rfl, rfl, rfl, rfl, rfl, rfl, rfl, rfl, rfl, rfl, rfl, rfl, rfl, rfl, rfl, rfl, fun _ => .inl rfl⟩

theorem JobFrame.trans {a b c : State} (h1 : JobFrame a b) (h2 : JobFrame b c) : JobFrame a c where
  pending := h2.pending.trans h1.pending
  resetAsserted := h2.resetAsserted.trans h1.resetAsserted
  loader := h2.loader.trans h1.loader
  directory := h2.directory.trans h1.directory
  dayNumber := h2.dayNumber.trans h1.dayNumber
  walkActive := h2.walkActive.trans h1.walkActive
  walkPos := h2.walkPos.trans h1.walkPos
  clock := h2.clock.trans h1.clock
  sched := h2.sched.trans h1.sched
  session := h2.session.trans h1.session
  flashPeriod := h2.flashPeriod.trans h1.flashPeriod
  lines := h2.lines.trans h1.lines
  slots := h2.slots.trans h1.slots
  displays := h2.displays.trans h1.displays
  windows := h2.windows.trans h1.windows
  link := by rw [h2.link, h1.link]
  entries := fun i => by
    have h2i := h2.entries i
    rw [h1.dayNumber] at h2i
    rcases h1.entries i with e1 | ⟨st, e1⟩ <;> rw [e1] at h2i
    · exact h2i
    · rcases h2i with e2 | ⟨st2, -⟩
      · exact .inr ⟨st, e2⟩
      · simp at st2

/-- A change of no part that a job start leaves unchanged. -/
theorem JobFrame.of_eq {s t : State}
    (h : t = { s with
      free := t.free, fu := t.fu, cells := t.cells, queues := t.queues, ribbonA := t.ribbonA, ribbonB := t.ribbonB,
      tlines := t.tlines, terms := t.terms, counters := t.counters,
      link := { s.link with notices := t.link.notices } }) : JobFrame s t := by
  constructor <;> first | exact fun i => .inl (by rw [h]; rfl) | rw [h]

theorem jobFrame_setFU (f : FormatUnit) : JobFrame s (s.setFU f) := .of_eq rfl
theorem jobFrame_setFree (n : Nat) : JobFrame s (s.setFree n) := .of_eq rfl
theorem jobFrame_setCell (c : Nat) (r : Cell) : JobFrame s (s.setCell c r) := .of_eq rfl
theorem jobFrame_setQueue (n : Nat) (q : List Nat) : JobFrame s (s.setQueue n q) := .of_eq rfl
theorem jobFrame_setTerm (n : Nat) (t : Terminal) : JobFrame s (s.setTerm n t) := .of_eq rfl
theorem jobFrame_setTLine (n : Nat) (l : TermLine) : JobFrame s (s.setTLine n l) := .of_eq rfl
theorem jobFrame_advance (c : Counter) (n : Nat) : JobFrame s (s.advance c n) := .of_eq rfl
theorem jobFrame_count (c : Counter) : JobFrame s (s.count c) := .of_eq rfl

theorem jobFrame_setRibbon (id : RibbonId) (r : Ribbon) : JobFrame s (s.setRibbon id r) := by
  cases id <;> exact .of_eq rfl

theorem jobFrame_raise (n : NoticeItem) : JobFrame s (s.raise n) := by
  rcases s.raise_cases n with ⟨-, h⟩ | ⟨-, h⟩ <;> rw [h]
  · exact .refl s
  · exact .of_eq rfl

theorem jobFrame_forEach {α : Type} (l : List α) {f : α → State → State} (h : ∀ a s, JobFrame s (f a s)) :
    JobFrame s (forEach l f s) :=
  forEach_rel JobFrame.refl (fun _ _ _ => JobFrame.trans) l h s

theorem jobFrame_offerCell (forced : Bool) (c : Nat) : JobFrame s (offerCell forced c s) := by
  rcases offerCell_cases forced c s with ⟨-, h⟩ | ⟨-, -, h⟩ | ⟨-, -, -, h⟩ <;> rw [h]
  · exact .refl s
  · exact jobFrame_setQueue s _ _
  · exact .refl s

theorem jobFrame_fanCellsAndRows (i : Nat) : JobFrame s (fanCellsAndRows i s) := by
  have h1 : JobFrame s (fanCells i s) := jobFrame_forEach s _ (fun c s => jobFrame_offerCell s false c)
  refine h1.trans ?_
  unfold fanCellsAndRows fanRows
  split
  · exact .refl _
  · exact jobFrame_forEach _ _ (fun n s => jobFrame_setTerm s _ _)

/-- R30: a touch changes no entry but the one it rolls. -/
theorem jobFrame_touch (i : Nat) : JobFrame s (touch i s) := by
  rcases touch_cases i s with ⟨-, h⟩ | ⟨st, h⟩ <;> rw [h]
  · exact .refl s
  · refine JobFrame.trans (b := s.setEntry i ((s.entry i).rolled s.dayNumber)) ?_ (jobFrame_fanCellsAndRows _ i)
    refine ⟨rfl, rfl, rfl, rfl, rfl, rfl, rfl, rfl, rfl, rfl, rfl, rfl, rfl, rfl, rfl, rfl, fun j => ?_⟩
    by_cases hj : j = i
    · subst hj; exact .inr ⟨st, by simp⟩
    · exact .inl (State.entry_setEntry_other s hj _)

theorem jobFrame_touchAll (l : List (Option Nat)) : JobFrame s (touchAll l s) :=
  jobFrame_forEach s l (fun o s => by cases o with
    | none => exact .refl s
    | some i => exact jobFrame_touch s i)

theorem jobFrame_evalMode (id : RibbonId) : JobFrame s (evalMode id s) := by
  rcases evalMode_cases id s with ⟨-, -, h⟩ | ⟨m, -, h⟩ | ⟨m, -, -, h⟩ <;> rw [h]
  · exact .refl s
  · exact ((jobFrame_setRibbon s id _).trans (jobFrame_count _ _)).trans (jobFrame_raise _ _)
  · exact (jobFrame_setRibbon s id _).trans (jobFrame_raise _ _)

/-- R67. -/
theorem jobFrame_startBoardJob (line : Nat) : JobFrame s (startBoardJob line s) := by
  unfold startBoardJob
  split
  · exact .refl s
  · rename_i c rest _
    have h1 : JobFrame s ((s.setQueue line rest).setCell c { s.cell c with needsFull := false }) :=
      (jobFrame_setQueue s _ _).trans (jobFrame_setCell _ _ _)
    refine h1.trans ?_
    generalize (s.setQueue line rest).setCell c { s.cell c with needsFull := false } = s1
    have h2 : JobFrame s1 (touchBinding (s1.cell c) s1) := by
      unfold touchBinding
      split
      · exact jobFrame_touch _ _
      · exact .refl _
    refine h2.trans ?_
    exact (((jobFrame_setCell _ _ _).trans (jobFrame_advance _ _ _)).trans (jobFrame_advance _ _ _)).trans
      (jobFrame_setFU _ _)

/-- R68. -/
theorem jobFrame_startRibbonJob (id : RibbonId) : JobFrame s (startRibbonJob id s) := by
  unfold startRibbonJob
  dsimp only
  split
  · exact .refl s
  · rename_i rec rest _
    have h1 := (jobFrame_setRibbon s id { s.ribbon id with queue := rest }).trans
      (jobFrame_advance _ .rbSkipped (takeRecord (s.ribbon id)).1)
    refine (h1.trans (jobFrame_evalMode _ id)).trans ?_
    split
    · exact (jobFrame_setRibbon _ id _).trans (jobFrame_setFU _ _)
    · exact jobFrame_setFU _ _

/-- R152: composing any block. -/
theorem jobFrame_compose (n : Nat) (c : BlockChoice) : JobFrame s (compose n c s).2 := by
  cases c with
  | reply => exact (jobFrame_setTerm s _ _).trans (jobFrame_touchAll _ _)
  | bell slot => exact (jobFrame_setTerm s _ _).trans (jobFrame_touchAll _ _)
  | page => exact (jobFrame_setTerm s _ _).trans (jobFrame_touchAll _ _)
  | status => exact jobFrame_setTerm s _ _
  | idle => exact jobFrame_setTerm s _ _
  | rows => exact (jobFrame_setTerm s _ _).trans (jobFrame_touchAll _ _)

/-- R69. -/
theorem jobFrame_startTerminalJob (line : Nat) : JobFrame s (startTerminalJob line s) := by
  unfold startTerminalJob
  split
  · exact .refl s
  · split
    · exact .refl s
    · exact (jobFrame_setTLine s _ _).trans ((jobFrame_compose _ _ _).trans (jobFrame_setFU _ _))

/-- R66: the start of any requester's job. -/
theorem jobFrame_startJob (p : Nat) : JobFrame s (startJob p s) := by
  unfold startJob
  split_ifs
  · exact jobFrame_startBoardJob s p
  · exact jobFrame_startRibbonJob s .a
  · exact jobFrame_startRibbonJob s .b
  · exact jobFrame_startTerminalJob s (p - 10)

theorem jobFrame_grantUrgent (p : Nat) : JobFrame s (grantUrgent p s) := by
  unfold grantUrgent
  split
  · exact (jobFrame_setFU s _).trans (jobFrame_startJob _ _)
  · exact ((jobFrame_setFU s _).trans (jobFrame_count _ _)).trans (jobFrame_startJob _ _)

theorem jobFrame_grantRound (p : Nat) : JobFrame s (grantRound p s) :=
  (jobFrame_setFU s _).trans (jobFrame_startJob _ _)

theorem jobFrame_grantRun (p : Nat) : JobFrame s (grantRun p s) :=
  (jobFrame_setFU s _).trans (jobFrame_startJob _ _)

end Sys2Proof.Machine
end

