-- ==== Sys2Proof/Laws/Lookups.lean ====
section
/-! SUPPORT. What reading an entry (R26, R30) and settling slots (R95, R104) can do, and the scrub pointer and frames of
board lines (R100, R101). -/

namespace Sys2Proof.Machine

/-! ### Offers of several cells (R80) -/

theorem Offered.refl (s : State) (cells : List Nat) (h : cells = []) : Offered cells s s := by
  subst h
  exact ⟨by simp, fun n => List.prefix_refl _, fun n c hc => .inl hc, fun _ h => h⟩

/-- One absorbable offer. -/
theorem offered_offerCell (c : Nat) (s : State) : Offered [c] s (offerCell false c s) := by
  rcases offerCell_cases false c s with ⟨hm, h⟩ | ⟨hm, hf, h⟩ | ⟨-, -, hn, h⟩ <;> rw [h]
  · exact ⟨by simpa using fun _ => hm, fun _ => List.prefix_refl _, fun _ _ hc => .inl hc, fun _ h => h⟩
  · have hn : (s.cell c).needsFull = false := by simpa using hf
    have hq : ∀ n, (s.setQueue (c / 64) (s.refreshQueue (c / 64) ++ [c])).refreshQueue n =
        if n = c / 64 then s.refreshQueue (c / 64) ++ [c] else s.refreshQueue n := by
      intro n
      by_cases e : n = c / 64
      · subst e; simp
      · rw [if_neg e, State.refreshQueue_setQueue_other _ e]
    refine ⟨?_, fun n => ?_, fun n d hd => ?_, fun n hn => ?_⟩
    · intro d hd _
      obtain rfl : d = c := by simpa using hd
      simp
    · rw [hq]; split
      · next e => subst e; exact List.prefix_append _ _
      · exact List.prefix_refl _
    · rw [hq] at hd; split at hd
      · next e =>
        subst e
        rcases List.mem_append.1 hd with h1 | h1
        · exact .inl h1
        · obtain rfl : d = c := by simpa using h1
          exact .inr ⟨by simp, rfl, hn⟩
      · exact .inl hd
    · rw [hq]; split
      · next e =>
        subst e
        rw [List.nodup_append]
        exact ⟨hn, by simp, by intro a ha b hb; obtain rfl : b = c := by simpa using hb
                               rintro rfl; exact hm ha⟩
      · exact hn
  · refine ⟨fun d hd h' => ?_, fun _ => List.prefix_refl _, fun _ _ hc => .inl hc, fun _ h => h⟩
    obtain rfl : d = c := by simpa using hd
    rw [hn] at h'; cases h'

@[simp] theorem cells_offerCell (forced : Bool) (c : Nat) (s : State) : (offerCell forced c s).cells = s.cells := by
  rcases offerCell_cases forced c s with ⟨-, h⟩ | ⟨-, -, h⟩ | ⟨-, -, -, h⟩ <;> rw [h]
  rfl

/-- Offers made one after another. -/
theorem Offered.append {a b : List Nat} {s t u : State} (h1 : Offered a s t) (h2 : Offered b t u)
    (hc : t.cells = s.cells) : Offered (a ++ b) s u := by
  have hcell : ∀ d, t.cell d = s.cell d := fun d => by simp only [State.cell, hc]
  refine ⟨fun c hm hn => ?_, fun n => (h1.kept n).trans (h2.kept n), fun n c hm => ?_, fun n h => h2.once n (h1.once n h)⟩
  · rcases List.mem_append.1 hm with h | h
    · exact (h2.kept _).subset (h1.queued c h hn)
    · exact h2.queued c h (by rw [hcell]; exact hn)
  · rcases h2.others n c hm with h | ⟨h, e, hn⟩
    · rcases h1.others n c h with h | ⟨h, e, hn⟩
      · exact .inl h
      · exact .inr ⟨List.mem_append_left _ h, e, hn⟩
    · exact .inr ⟨List.mem_append_right _ h, e, by rw [← hcell]; exact hn⟩

theorem offered_forEach (cells : List Nat) (s : State) :
    Offered cells s (forEach cells (offerCell false) s) ∧ (forEach cells (offerCell false) s).cells = s.cells := by
  induction cells generalizing s with
  | nil => exact ⟨.refl s _ rfl, rfl⟩
  | cons c l ih =>
    obtain ⟨h, hc⟩ := ih (offerCell false c s)
    exact ⟨(offered_offerCell c s).append h (cells_offerCell ..), hc.trans (cells_offerCell ..)⟩

/-- Offers change nothing but the refresh queues. -/
theorem forEach_offerCell_frame (forced : Bool) (cells : List Nat) (s : State) :
    forEach cells (offerCell forced) s = { s with queues := (forEach cells (offerCell forced) s).queues } := by
  refine forEach_rel (R := fun s t => t = { s with queues := t.queues }) (fun _ => rfl) ?_ cells ?_ s
  · rintro a b c h1 h2; rw [h2, h1]
  · intro c s
    rcases offerCell_cases forced c s with ⟨-, h⟩ | ⟨-, -, h⟩ | ⟨-, -, -, h⟩ <;> rw [h]
    rfl

/-! ### Rows (R160) -/

/-- The place of a member is that of the library's search. -/
theorem placeOf_eq (i : Nat) (l : List Nat) : placeOf i l = l.idxOf? i := by
  induction l with
  | nil => rfl
  | cons b l ih => simp [placeOf, ih, List.idxOf?_cons]

theorem mem_insertNo (n m : Nat) (l : List Nat) : m ∈ insertNo n l ↔ m = n ∨ m ∈ l := by
  induction l with
  | nil => simp [insertNo]
  | cons k l ih => unfold insertNo; split_ifs <;> (simp_all; try tauto)

/-- R160: what marking an instrument's row can do to a terminal. -/
theorem Terminal.markInstrument_cases (i : Nat) (t : Terminal) :
    (t.markInstrument i = t ∧
        (t.state = .vacant ∨ ∀ k, t.watchList.idxOf? i = some k → k / 12 ≠ t.page)) ∨
      ∃ k, t.state ≠ .vacant ∧ t.watchList.idxOf? i = some k ∧ k / 12 = t.page ∧
        t.markInstrument i = { t with rows := insertNo (k % 12) t.rows } := by
  unfold Terminal.markInstrument
  rw [placeOf_eq]
  by_cases hv : t.state = .vacant
  · exact .inl ⟨if_pos hv, .inl hv⟩
  · rw [if_neg hv]
    cases hk : t.watchList.idxOf? i with
    | none => exact .inl ⟨rfl, .inr fun _ h => by cases h⟩
    | some k =>
      by_cases hp : k / 12 = t.page
      · exact .inr ⟨k, hv, rfl, hp, if_pos hp⟩
      · exact .inl ⟨if_neg hp, .inr fun j h => by cases h; exact hp⟩

/-- An operation on one terminal after another leaves each as its own operation does. -/
theorem term_forEach_setTerm (f : Terminal → Terminal) (l : List Nat) (hl : l.Nodup) (s : State) (n : Nat) :
    (forEach l (fun n s => s.setTerm n (f (s.term n))) s).term n = if n ∈ l then f (s.term n) else s.term n := by
  induction l generalizing s with
  | nil => simp
  | cons m l ih =>
    obtain ⟨hm, hl⟩ := List.nodup_cons.1 hl
    rw [forEach_cons, ih hl]
    by_cases e : n = m
    · subst e; simp [hm]
    · simp [e, State.term_setTerm_other _ e]

theorem forEach_setTerm_frame (f : Terminal → Terminal) (l : List Nat) (s : State) :
    forEach l (fun n s => s.setTerm n (f (s.term n))) s =
      { s with terms := (forEach l (fun n s => s.setTerm n (f (s.term n))) s).terms } :=
  forEach_rel (R := fun s t => t = { s with terms := t.terms }) (fun _ => rfl)
    (fun _ _ _ h1 h2 => by rw [h2, h1]) l (fun _ _ => rfl) s

/-- R39, R160: what `fanRows` does, whole. -/
theorem fanRows_marked (i : Nat) (s : State) :
    RowsMarked i s (fanRows i s) ∧ fanRows i s = { s with terms := (fanRows i s).terms } := by
  have ht : ∀ n, (fanRows i s).term n =
      if (s.entry i).watchers ≠ 0 ∧ n < 64 then (s.term n).markInstrument i else s.term n := by
    intro n
    unfold fanRows; split
    · next h0 => simp [h0]
    · next h0 =>
      rw [term_forEach_setTerm _ _ (by unfold termNos; exact List.nodup_range)]
      simp [h0, termNos]
  refine ⟨⟨fun n => ?_, fun n row => ?_⟩, ?_⟩
  · rw [ht]; split
    · rcases (s.term n).markInstrument_cases i with ⟨h, -⟩ | ⟨k, -, -, -, h⟩ <;> rw [h]
      · exact ⟨rfl, fun _ h => h⟩
      · exact ⟨rfl, fun r h => (mem_insertNo ..).2 (.inr h)⟩
    · exact ⟨rfl, fun _ h => h⟩
  · rw [ht, State.showsRow]; split
    · next hw =>
      rcases (s.term n).markInstrument_cases i with ⟨h, hn⟩ | ⟨k, hv, hk, hp, h⟩ <;> rw [h]
      · refine ⟨.inl, ?_⟩
        rintro (h | ⟨-, -, hv, k, hk, hp, -⟩)
        · exact h
        · rcases hn with hn | hn
          · exact absurd hn hv
          · exact absurd hp (hn k hk)
      · rw [mem_insertNo, or_comm]
        refine or_congr Iff.rfl ⟨fun e => ⟨hw.1, hw.2, hv, k, hk, hp, e⟩, ?_⟩
        rintro ⟨-, -, -, j, hj, -, e⟩
        rw [hk] at hj; cases hj; exact e
    · next hw => exact ⟨.inl, fun h => h.resolve_right fun h => hw ⟨h.1, h.2.1⟩⟩
  · unfold fanRows; split
    · rfl
    · exact forEach_setTerm_frame ..

/-- Marked rows are those of any state with the same terminals and watchers. -/
theorem RowsMarked.of_eq {i : Nat} {s t u : State} (h : RowsMarked i t u) (ht : t.terms = s.terms)
    (hw : (t.entry i).watchers = (s.entry i).watchers) : RowsMarked i s u := by
  have tn : ∀ n, t.term n = s.term n := fun n => by simp only [State.term, ht]
  exact ⟨fun n => tn n ▸ h.grown n, fun n row => by simpa only [State.showsRow, tn, hw] using h.rows n row⟩

/-! ### Reading an entry (R26, R30) -/

/-- R30: what `touch` does, whole: `EntryRead` says it. -/
theorem touch_read (i : Nat) (s : State) : EntryRead i s (touch i s) := by
  rcases touch_cases i s with ⟨hs, h⟩ | ⟨hs, h⟩ <;> rw [h]
  · have hc : s.current i = s.entry i := by simp [State.current, hs]
    exact ⟨fun _ => rfl, rfl, hc.symm, fun _ _ => rfl, fun h => by simp [hs] at h, fun h => by simp [hs] at h⟩
  · have hc : s.current i = (s.entry i).rolled s.dayNumber := by simp [State.current, hs]
    set s1 := s.setEntry i ((s.entry i).rolled s.dayNumber) with hs1
    have he : s1.entry i = (s.entry i).rolled s.dayNumber := by simp [hs1]
    set s2 := fanCells i s1 with hs2
    have hs2' : s2 = forEach (s.entry i).cells (offerCell false) s1 := by rw [hs2, fanCells, he]; rfl
    have f2 : s2 = { s1 with queues := s2.queues } := by rw [hs2']; exact forEach_offerCell_frame ..
    have e2 : s2.entries = s1.entries := by rw [f2]
    have w2 : (s2.entry i).watchers = (s.entry i).watchers := by
      have : s2.entry i = s1.entry i := by simp only [State.entry, e2]
      rw [this, he]; rfl
    have o2 : Offered (s.entry i).cells s1 s2 := by rw [hs2']; exact (offered_forEach ..).1
    have hu : fanCellsAndRows i s1 = fanRows i s2 := rfl
    obtain ⟨mu, fu⟩ := fanRows_marked i s2
    rw [hu]
    set u := fanRows i s2
    have eu : u.entries = s1.entries := by rw [fu]; exact e2
    have qu : ∀ n, u.refreshQueue n = s2.refreshQueue n := fun n => by rw [fu]; rfl
    refine ⟨fun h' => by simp [hs] at h', by rw [fu, f2]; rfl, ?_, fun j hj => ?_, fun _ => ?_, fun _ => ?_⟩
    · rw [hc, ← he]; simp only [State.entry, eu]
    · have : u.entry j = s1.entry j := by simp only [State.entry, eu]
      rw [this, hs1, State.entry_setEntry_other _ hj]
    · exact ⟨fun c h1 h2 => by rw [qu]; exact o2.queued c h1 h2, fun n => by rw [qu]; exact o2.kept n,
        fun n c h => o2.others n c (by rwa [qu] at h), fun n h => by rw [qu]; exact o2.once n h⟩
    · exact mu.of_eq (by rw [f2]; rfl) w2

/-! ### Settled slots (R95, R97, R104) -/

/-- R95, R104: settling slots settles each of them, clears their cells' needs_full flags, and changes nothing else. -/
theorem settleSlots_spec (line : Nat) (slots : List Nat) (s : State) :
    let u := settleSlots line slots s
    u = { s with slots := u.slots, cells := u.cells } ∧
      ∀ c, ((∃ k ∈ slots, c = cellNo line k) →
          u.slotState c = (s.slotState c).settled ∧ u.cell c = { s.cell c with needsFull := false }) ∧
        ((∀ k ∈ slots, c ≠ cellNo line k) → u.slotState c = s.slotState c ∧ u.cell c = s.cell c) := by
  induction slots generalizing s with
  | nil => exact ⟨rfl, fun c => ⟨by simp, fun _ => ⟨rfl, rfl⟩⟩⟩
  | cons k l ih =>
    obtain ⟨hf, hc⟩ := ih (settleSlot (cellNo line k) s)
    have same : (settleSlot (cellNo line k) s).slotState (cellNo line k) = (s.slotState (cellNo line k)).settled ∧
        (settleSlot (cellNo line k) s).cell (cellNo line k) = { s.cell (cellNo line k) with needsFull := false } :=
      ⟨State.slotState_setSlot_same .., State.cell_setCell_same ..⟩
    have other : ∀ c, c ≠ cellNo line k → (settleSlot (cellNo line k) s).slotState c = s.slotState c ∧
        (settleSlot (cellNo line k) s).cell c = s.cell c :=
      fun c h => ⟨State.slotState_setSlot_other _ h _, State.cell_setCell_other _ h _⟩
    refine ⟨hf, fun c => ⟨fun h => ?_, fun h => ?_⟩⟩
    · by_cases hl : ∃ j ∈ l, c = cellNo line j
      · obtain ⟨h1, h2⟩ := (hc c).1 hl
        by_cases e : c = cellNo line k
        · subst e; exact ⟨h1.trans (by rw [same.1]; rfl), h2.trans (by rw [same.2])⟩
        · exact ⟨h1.trans (by rw [(other c e).1]), h2.trans (by rw [(other c e).2])⟩
      · obtain ⟨j, hj, rfl⟩ := h
        obtain rfl | hj := List.mem_cons.1 hj
        · obtain ⟨h1, h2⟩ := (hc (cellNo line j)).2 fun i hi e => hl ⟨i, hi, e⟩
          exact ⟨h1.trans same.1, h2.trans same.2⟩
        · exact absurd ⟨j, hj, rfl⟩ hl
    · obtain ⟨h1, h2⟩ := (hc c).2 fun j hj => h j (List.mem_cons_of_mem _ hj)
      obtain ⟨g1, g2⟩ := other c (h k List.mem_cons_self)
      exact ⟨h1.trans g1, h2.trans g2⟩

/-! ### The scrub pointer and frames (R100, R101) -/

/-- R101: the pointer moved on over slots in ascending order. -/
theorem nextEnabled_scrubNext {enabled : List Nat} (h : enabled.Pairwise (· < ·)) (p : Nat) :
    ScrubNext enabled p (nextEnabled enabled p) := by
  unfold nextEnabled
  cases hf : enabled.find? (fun k => decide (p < k)) with
  | some k =>
    obtain ⟨hk, as, bs, rfl, ha⟩ := List.find?_eq_some_iff_append.1 hf
    have hk : p < k := by simpa using hk
    refine ⟨by simp, .inl ⟨hk, fun j hj hpj => ?_⟩⟩
    rw [List.mem_append, List.mem_cons] at hj
    rcases hj with hj | rfl | hj
    · have := ha j hj; simp at this; omega
    · exact le_rfl
    · have := (List.pairwise_cons.1 (List.pairwise_append.1 h).2.1).1 j hj; omega
  | none =>
    have hn : ∀ j ∈ enabled, j ≤ p := fun j hj => by simpa using List.find?_eq_none.1 hf j hj
    cases enabled with
    | nil => exact rfl
    | cons a l =>
      refine ⟨by simp, .inr ⟨hn, fun j hj => ?_⟩⟩
      rcases List.mem_cons.1 hj with rfl | hj
      · exact le_rfl
      · exact ((List.pairwise_cons.1 h).1 j hj).le

/-- R100: the command an item is given. -/
theorem frameCommand_fixed (l : BoardLine) (k : Nat) (x : SlotState) :
    CommandFixed l x { slot := k, command := frameCommand l k x } := by
  refine ⟨fun h => ?_, fun t h1 h2 => ?_, fun t h1 h2 h3 h4 => ?_, fun h1 h2 h3 => ?_⟩
  · simp [frameCommand, h]
  · simp [frameCommand, h1, h2]
  · simp [frameCommand, h1, h2, h3, h4]
  · rcases h3 with h3 | h3 <;> cases hx : x.shown <;> simp_all [frameCommand]

/-- R100, R101: what a frame start leaves on its line, whole. -/
theorem frameStart_begun (line : Nat) (s : State) : LineBegun line (s.line line) (frameStart line s) := by
  have h : (frameStart line s).line line = { s.line line with
      scrub := scrubAfterStart (s.line line)
      frame := some { items := sendList line s, offset := (s.line line).offset, rate := (s.line line).rate, sent := 0,
                      applies := (s.line line).enabled, settles := false } } := State.line_setLine_same ..
  refine ⟨by rw [h], ⟨_, by rw [h], ⟨rfl, by simp [sendList, Function.comp_def], rfl, rfl, rfl, rfl⟩, ?_⟩, ?_, ?_⟩
  · intro it hi
    obtain ⟨k, -, rfl⟩ := List.mem_map.1 hi
    exact frameCommand_fixed ..
  · rintro (hl | hl) <;> rw [h] <;> simp [scrubAfterStart, hl]
  · intro p hl hs hr
    rw [h]
    simpa [scrubAfterStart, hl, hs] using nextEnabled_scrubNext hr p

/-- TABLE 11-2: the slots of an enable set stand in ascending order. -/
theorem readLineSet_rising {body : List Byte} {b : LineBody} (h : readLineSet body = some b) :
    b.enabled.Pairwise (· < ·) := by
  unfold readLineSet at h
  split at h
  · cases h; exact List.pairwise_lt_range.filter _
  · cases h

end Sys2Proof.Machine
end

