-- ==== Sys2Proof/Laws/Composes.lean ====
section
/-! SUPPORT. What reading several entries in turn can do (R30, R69), for the blocks that TERMINAL jobs compose. -/

namespace Sys2Proof.Machine

/-- Offers of cells that are the same ones, in another order or repeated. -/
theorem Offered.of_mem {a b : List Nat} {s u : State} (h : Offered a s u) (hm : ∀ c, c ∈ a ↔ c ∈ b) : Offered b s u :=
  ⟨fun c hc => h.queued c ((hm c).2 hc), h.kept, fun n c hc => (h.others n c hc).imp id fun ⟨x, y⟩ => ⟨(hm c).1 x, y⟩,
    h.once⟩

/-- No entry read. -/
theorem EntriesRead.nil (s : State) : EntriesRead [] s s :=
  ⟨fun _ => rfl, rfl, by simp, fun _ _ => rfl, .refl s _ rfl, fun _ => ⟨rfl, fun _ h => h⟩, by simp⟩

/-- What an entry read leaves of the figures that a read of another one needs. -/
theorem EntryRead.keeps {i : Nat} {s t : State} (h : EntryRead i s t) :
    t.dayNumber = s.dayNumber ∧ t.cells = s.cells ∧ (∀ j, (t.entry j).cells = (s.entry j).cells) ∧
      (∀ j, (t.entry j).watchers = (s.entry j).watchers) ∧ ∀ j row n, t.showsRow j n row ↔ s.showsRow j n row := by
  have he : ∀ j, t.entry j = s.entry j ∨ t.entry j = (s.entry j).rolled s.dayNumber := by
    intro j
    by_cases hj : j = i
    · subst hj
      rw [h.entry, State.current]
      split
      · exact .inr rfl
      · exact .inl rfl
    · exact .inl (h.others j hj)
  have hw : ∀ j, (t.entry j).watchers = (s.entry j).watchers := fun j => by rcases he j with e | e <;> rw [e]; rfl
  refine ⟨by rw [h.frame], by rw [h.frame], fun j => by rcases he j with e | e <;> rw [e]; rfl, hw, fun j row n => ?_⟩
  have ht : (t.term n).state = (s.term n).state ∧ (t.term n).watchList = (s.term n).watchList ∧
      (t.term n).page = (s.term n).page := by
    cases hs : (s.entry i).stale s.dayNumber with
    | false => rw [h.fresh hs]; exact ⟨rfl, rfl, rfl⟩
    | true => rw [((h.rows hs).grown n).rest]; exact ⟨rfl, rfl, rfl⟩
  simp only [State.showsRow, hw, ht]

/-- One entry read before the others. -/
theorem EntriesRead.cons {i : Nat} {is : List Nat} {s t u : State} (h1 : EntryRead i s t) (h2 : EntriesRead is t u) :
    EntriesRead (i :: is) s u := by
  obtain ⟨hd, hc, hcells, -, hshow⟩ := h1.keeps
  have stale : ∀ j, (t.entry j).stale t.dayNumber = true ↔ (s.entry j).stale s.dayNumber = true ∧ j ≠ i := by
    intro j
    rw [hd]
    by_cases hj : j = i
    · subst hj
      rw [h1.entry, State.current]
      split
      · simp
      · simp_all
    · rw [h1.others j hj]; simp [hj]
  have cur : ∀ j, t.current j = s.current j := by
    intro j
    by_cases hj : j = i
    · subst hj
      have : ¬(t.entry j).stale t.dayNumber = true := fun h => ((stale j).1 h).2 rfl
      rw [State.current, if_neg this, h1.entry]
    · rw [State.current, State.current, h1.others j hj, hd]
  have grown1 : ∀ n, RowsGrown (s.term n) (t.term n) := by
    intro n
    cases hs : (s.entry i).stale s.dayNumber with
    | false => rw [h1.fresh hs]; exact ⟨rfl, fun _ h => h⟩
    | true => exact (h1.rows hs).grown n
  have rows1 : ∀ n row, row ∈ (t.term n).rows ↔
      row ∈ (s.term n).rows ∨ (s.entry i).stale s.dayNumber = true ∧ s.showsRow i n row := by
    intro n row
    cases hs : (s.entry i).stale s.dayNumber with
    | false => rw [h1.fresh hs]; simp
    | true => rw [(h1.rows hs).rows]; simp
  have off1 : Offered (if (s.entry i).stale s.dayNumber then (s.entry i).cells else []) s t := by
    cases hs : (s.entry i).stale s.dayNumber with
    | false => rw [h1.fresh hs]; exact .refl s _ (by simp)
    | true => simpa using h1.cells hs
  constructor
  · intro h
    have e := h1.fresh (h i List.mem_cons_self)
    subst e
    exact h2.fresh fun j hj => h j (List.mem_cons_of_mem _ hj)
  · rw [h2.frame, h1.frame]
  · intro j hj
    by_cases hm : j ∈ is
    · rw [h2.read j hm, cur]
    · obtain rfl : j = i := by simpa [hm] using hj
      rw [h2.others j hm, h1.entry]
  · intro j hj
    rw [List.mem_cons, not_or] at hj
    rw [h2.others j hj.2, h1.others j hj.1]
  · refine (off1.append h2.cells hc).of_mem fun c => ?_
    simp only [List.mem_append, List.mem_flatMap, List.mem_filter, List.mem_cons, stale, hcells]
    constructor
    · rintro (h | ⟨j, ⟨hj, hs, -⟩, hm⟩)
      · split at h
        · next hs => exact ⟨i, ⟨.inl rfl, hs⟩, h⟩
        · cases h
      · exact ⟨j, ⟨.inr hj, hs⟩, hm⟩
    · rintro ⟨j, ⟨hj, hs⟩, hm⟩
      by_cases e : j = i
      · subst e; exact .inl (by rw [if_pos hs]; exact hm)
      · exact .inr ⟨j, ⟨hj.resolve_left e, hs, e⟩, hm⟩
  · intro n
    refine ⟨?_, fun r hr => (h2.grown n).kept r ((grown1 n).kept r hr)⟩
    rw [(h2.grown n).rest, (grown1 n).rest]
  · intro n row
    rw [h2.rows, rows1]
    simp only [List.mem_cons, stale, hshow]
    constructor
    · rintro ((h | h) | ⟨j, hj, ⟨hs, -⟩, hw⟩)
      · exact .inl h
      · exact .inr ⟨i, .inl rfl, h⟩
      · exact .inr ⟨j, .inr hj, hs, hw⟩
    · rintro (h | ⟨j, hj, hs, hw⟩)
      · exact .inl (.inl h)
      · by_cases e : j = i
        · subst e; exact .inl (.inr ⟨hs, hw⟩)
        · exact .inr ⟨j, hj.resolve_left e, ⟨hs, e⟩, hw⟩

/-- R30, R69: what `touchAll` does, whole. -/
theorem touchAll_read (l : List (Option Nat)) (s : State) : EntriesRead (l.filterMap id) s (touchAll l s) := by
  induction l generalizing s with
  | nil => exact .nil s
  | cons o l ih =>
    cases o with
    | none => exact ih s
    | some i => exact .cons (touch_read i s) (ih (touch i s))

end Sys2Proof.Machine
end

