-- ==== Sys2Proof/Laws/Messages.lean ====
section
/-! SUPPORT. The encoders of the replies and notices are the field encodings of TABLE 11-2, one lemma each. -/

namespace Sys2Proof.Machine

/-- A number, byte by byte. -/
theorem numBytes_eq (k n : Nat) : numBytes k n = beField k n := by
  induction k with
  | zero => rfl
  | succ k ih =>
    have h : ∀ m : Nat, BitVec.ofNat 8 (m % 256) = BitVec.ofNat 8 m := fun m => by
      apply BitVec.eq_of_toNat_eq; simp
    rw [numBytes, ih, beField, beField, List.range_succ_eq_map, List.map_cons, List.map_map]
    refine congrArg₂ List.cons (h _) (List.map_congr_left fun j hj => ?_)
    rw [List.mem_range] at hj
    simp only [Function.comp_apply]
    congr 3
    omega

theorem flagByte_eq (b : Bool) : flagByte b = flagField b := rfl

theorem markedBytes_eq (x : Option Nat) : markedBytes x = markedField x := by
  cases x <;> exact numBytes_eq ..

theorem symbolBytes_eq (x : Text) : symbolBytes x = symbolField x := rfl

theorem optBytes_eq {α : Type} (size : Nat) (f : α → List Byte) (x : Option α) :
    optBytes size f x = optField size (x.map f) := by cases x <;> rfl

theorem boardCharByte_eq (c : BoardChar) : boardCharByte c = boardCharField c := by
  cases c <;> simp [boardCharByte, boardCharField, placeOf_eq, byteOf, glyphOrder]

theorem boardTextBytes_eq (t : Option BoardText) : boardTextBytes t = boardTextField t := by
  cases t with
  | none => rfl
  | some t =>
    have h : ∀ p : BoardPos, boardPosBytes p = [boardCharField p.char,
        BitVec.ofNat 8 ([Hue.white, .green, .red].idxOf p.hue + if p.flash then 4 else 0)] := fun p => by
      rw [boardPosBytes, boardCharByte_eq]; cases p.hue <;> rfl
    rw [boardTextBytes, boardTextField, funext h]
    simp [List.flatMap, beField, byteOf]

/-- An enumeration numbered in its table's order. -/
theorem enumByte_eq {α : Type} [DecidableEq α] (table : List α) (code : α → Nat) (x : α) (h : code x = table.idxOf x) :
    enumByte (code x) = tableField table x := by rw [enumByte, numBytes_eq, h, tableField]

theorem timeBytes_eq (c : Clock) : timeBytes c = timeField c := by simp only [timeBytes, timeField, numBytes_eq]

theorem sessionState_eq (x : SessionState) : enumByte x.code = tableField sessionTable x :=
  enumByte_eq _ _ _ (by cases x <;> rfl)

theorem sessionBytes_eq (x : Session) : sessionBytes x = sessionField x := by
  simp only [sessionBytes, sessionField, sessionState_eq, numBytes_eq]

theorem clockBytes_eq (c : Clock) :
    enumByte c.state.code ++ enumByte (if c.present then 0 else 1) = clockStateField c := by
  rw [clockStateField, enumByte_eq [ClockState.unset, .running, .freeRunning] ClockState.code _ (by cases c.state <;> rfl)]
  cases c.present <;> rfl

theorem schedBytes_eq (e : SchedEntry) : schedBytes e = schedField e := by
  have h : ∀ r : SkipRecord, enumByte r.reason.code = tableField [SkipReason.walk, .illegal] r.reason :=
    fun r => enumByte_eq _ _ _ (by cases r.reason <;> rfl)
  have hs : skipBytes = fun r => beField 3 r.second ++ tableField sessionTable r.found ++
      tableField [SkipReason.walk, .illegal] r.reason := funext fun r => by
    rw [skipBytes, numBytes_eq, sessionState_eq, h]
  rw [schedBytes, schedField, optBytes_eq, hs]
  cases e.selector <;> simp only [selectorBytes, numBytes_eq, flagByte_eq, sessionState_eq]

theorem loadBytes_eq (l : Loader) : loadBytes l = loadField l := by
  have h : (fun c : LoadCause => enumByte c.code) = tableField [LoadCause.check, .content, .noEnd, .promSilent] :=
    funext fun c => enumByte_eq _ _ _ (by cases c <;> rfl)
  rw [loadBytes, loadField, enumByte_eq [LoadResult.inProgress, .loaded, .empty, .bad] LoadResult.code _
    (by cases l.result <;> rfl), optBytes_eq, optBytes_eq, h]
  simp only [funext (numBytes_eq 2)]

theorem alertBytes_eq (a : Alert) : alertBytes a = alertField a := by
  rw [alertBytes, alertField, enumByte_eq [AlertState.empty, .armed, .fired, .spent] AlertState.code _
    (by cases a.state <;> rfl)]
  simp only [conditionBytes, optBytes_eq, markedBytes_eq, flagByte_eq, numBytes_eq, List.append_assoc,
    show indexBytes = beField 2 from funext (numBytes_eq 2)]

theorem presence_eq (x : Presence) : enumByte x.code = presenceField x := enumByte_eq _ _ _ (by cases x <;> rfl)

theorem termState_eq (x : TermState) : enumByte x.code = termStateField x := enumByte_eq _ _ _ (by cases x <;> rfl)

theorem recordState_eq (x : RecordState) : enumByte x.code = recordField x := enumByte_eq _ _ _ (by cases x <;> rfl)

theorem mode_eq (x : Mode) : enumByte x.code = modeField x := enumByte_eq _ _ _ (by cases x <;> rfl)

theorem ribbonState_eq (x : RibbonState) : enumByte x.code = ribbonStateField x :=
  enumByte_eq _ _ _ (by cases x <;> rfl)

theorem outcome_eq (x : ReferralOutcome) : enumByte x.code = outcomeField x := enumByte_eq _ _ _ (by cases x <;> rfl)

/-- A number of one byte. -/
theorem beField_one (n : Nat) : beField 1 n = [BitVec.ofNat 8 n] := by simp [beField]

theorem printKind_eq (b : PrintBody) : enumByte b.kindCode = printField b := by
  cases b <;> simp [enumByte, PrintBody.kindCode, printField, numBytes, byteOf]

theorem blockKind_eq (b : Block) : enumByte (Block.kindCode b) = blockField b := by
  cases b <;> simp [enumByte, Block.kindCode, blockField, numBytes, byteOf]

theorem job_eq (j : Job) : enumByte (Job.requester j) ++ enumByte (Job.kindCode j) = jobField j := by
  cases j with
  | ribbon r => cases r <;> simp [Job.requester, Job.kindCode, jobField, enumByte, numBytes_eq, beField_one, RibbonId.code]
  | board line => simp [Job.requester, Job.kindCode, jobField, enumByte, numBytes_eq, beField_one]
  | terminal line => simp [Job.requester, Job.kindCode, jobField, enumByte, numBytes_eq, beField_one]

theorem kindCount_eq {k : Nat} {b : Byte} (h : ∀ x : PrintBody, x.kindCode = k ↔ printField x = [b]) (r : Ribbon) :
    kindCount k r = printsOf b r := by
  rw [kindCount, printsOf, List.countP_eq_length_filter]
  congr 2; funext p; exact decide_eq_decide.2 (h _)

/-- TABLE 9-2: the items of a dealer request. -/
theorem dealerRequestBytes_sent (q : DealerRequest) : RequestSent q (dealerRequestBytes q) := by
  have fits : ∀ sym : Text, sym.length ≤ 7 → (∀ c ∈ sym, c.toNat < 256) → symbolFits sym = true := fun sym h1 h2 => by
    simp only [symbolFits, h1, decide_true, Bool.true_and, List.all_eq_true, decide_eq_true_eq]; exact h2
  constructor
  · intro p hk hp h
    simp [dealerRequestBytes, hk, requestItems, hp, smallItem, fitBytes, h, joinItems, numBytes_eq]
  · intro hk; simp [dealerRequestBytes, hk, requestItems, joinItems]
  · intro sym hk hs h1 h2 hp
    have : q.position.getD 0 < 256 := by
      cases hq : q.position with
      | none => simp
      | some p => exact hp p hq
    simp [dealerRequestBytes, hk, requestItems, hs, symbolItem, positionItem, fitBytes, fits sym h1 h2, this, joinItems,
      symbolBytes_eq, optBytes_eq, funext (numBytes_eq 1)]
  · rintro sym (hk | hk) hs h1 h2 <;>
      simp [dealerRequestBytes, hk, requestItems, hs, symbolItem, fitBytes, fits sym h1 h2, joinItems, symbolBytes_eq]
  · intro k sym a b z hk hn hkk hs h1 h2 ha hb hz ha' hb' hz'
    norm_num at ha' hb' hz'
    simp [dealerRequestBytes, hk, requestItems, hn, hkk, hs, symbolItem, smallItem, conditionItem, fitBytes,
      fits sym h1 h2, ha, hb, hz, ha', hb', hz', joinItems, symbolBytes_eq, numBytes_eq, flagByte_eq]
  · intro k hk hn h
    simp [dealerRequestBytes, hk, requestItems, hn, smallItem, fitBytes, h, joinItems, numBytes_eq]

end Sys2Proof.Machine
end

