-- ==== Sys2Proof/Laws/Texts.lean ====
section
/-! SUPPORT. The functions of chapter 1, the directory, alert conditions and forced offers in the terms of the statements:
what each can do, said once. -/

namespace Sys2Proof.Machine

/-! ### Texts and records (R5, R10, R14, R19, R20) -/

theorem plainPrice_eq (p : Nat) : plainPrice p = priceText false p := by
  unfold plainPrice plainParts priceText fractionText wholePart fracPart plainFraction fracNum fracDen
  split_ifs <;> simp_all

/-- R19: the record that an offer makes. -/
theorem makeRecord_eq (body : PrintBody) (arrival : Nat) : makeRecord body arrival = recordOf body arrival := by
  rcases body with t | _ | _ | b
  · simp only [makeRecord, recordOf, printLength, fullLength, printText, tradeText, dropsSymbol, modeVolume, modePrice,
      plainPrice_eq, firstMark]
    congr 1
    have hv : volumePart t.size t.lot = lotsText t.size t.lot := rfl
    rw [hv]
    cases t.first <;> simp <;> omega
  · simp [makeRecord, recordOf, printLength, fullLength, printText]
  · simp [makeRecord, recordOf, printLength, fullLength, printText]
  · cases b <;> rfl

theorem terminalChange_eq (last close : Option Nat) :
    terminalChange (netChange last close) = changeText last close := by
  rcases last with _ | l <;> rcases close with _ | c <;> try rfl
  simp only [netChange, terminalChange, changeText, plainPrice_eq, signChar]
  by_cases h : l = c
  · simp [h]
  · rw [if_neg (by omega), if_neg h]
    by_cases g : c < l
    · rw [if_pos g, if_pos g, if_pos (by omega)]
      congr 2; omega
    · rw [if_neg g, if_neg g, if_neg (by omega)]
      congr 2; omega

/-- R20: a row of a terminal. -/
theorem rowText_eq (e : Entry) : rowText e = watchRow e := by
  have price : ∀ p : Option Nat, priceColumn p =
      rightJustify ' ' 10 (match p with | some v => priceText false v | none => []) := by
    intro p; cases p <;> simp [priceColumn, plainPrice_eq]
  have last : lastColumn e = rightJustify ' ' 10 (if e.status = .halted then ['H', 'A', 'L', 'T'] else
      match e.last with | some v => priceText false v | none => []) := by
    unfold lastColumn; rw [price]; split_ifs <;> rfl
  have tick : tickTerminalChar e.tick = match e.tick with | .up => '+' | .down => '-' | .level => '=' | .none => ' ' := by
    cases e.tick <;> rfl
  simp only [rowText, watchRow, price, last, tick, terminalChange_eq, rightJustify, leftJustify, List.append_assoc,
    List.cons_append, List.nil_append] <;> rfl

/-! ### The directory (R25) -/

theorem symbolLt_iff (a b : Text) : symbolLt a b = true ↔ symbolBelow a b := by
  induction a generalizing b with
  | nil =>
    cases b with
    | nil => simp [symbolLt, symbolBelow]
    | cons y r => exact ⟨fun _ => .inl ⟨y, r, rfl⟩, fun _ => rfl⟩
  | cons x q ih =>
    cases b with
    | nil => simp [symbolLt, symbolBelow]
    | cons y r =>
      rw [symbolLt]
      split_ifs with h1 h2
      · exact ⟨fun _ => .inr ⟨[], x, q, y, r, rfl, rfl, h1⟩, fun _ => rfl⟩
      · refine ⟨fun h => by simp at h, ?_⟩
        rintro (⟨c, t, h⟩ | ⟨p, x', q', y', r', h, g, l⟩)
        · simp at h; rw [h.1] at h2; exact absurd h2 (lt_irrefl _)
        · cases p with
          | nil => simp at h g; rw [h.1, g.1] at h2; omega
          | cons z p => simp at h g; rw [h.1, g.1] at h2; exact absurd h2 (lt_irrefl _)
      · have e : x = y := Char.toNat_inj.1 (by omega)
        subst e
        rw [ih]
        constructor
        · rintro (⟨c, t, h⟩ | ⟨p, x', q', y', r', h, g, l⟩)
          · exact .inl ⟨c, t, by rw [h]; rfl⟩
          · exact .inr ⟨x :: p, x', q', y', r', by rw [h]; rfl, by rw [g]; rfl, l⟩
        · rintro (⟨c, t, h⟩ | ⟨p, x', q', y', r', h, g, l⟩)
          · simp at h; exact .inl ⟨c, t, h⟩
          · cases p with
            | nil => simp at h g; rw [← h.1, ← g.1] at l; exact absurd l (lt_irrefl _)
            | cons z p => simp at h g; exact .inr ⟨p, x', q', y', r', h.2, g.2, l⟩

theorem symbolLt_trans {a b c : Text} (h1 : symbolLt a b = true) (h2 : symbolLt b c = true) : symbolLt a c = true := by
  induction a generalizing b c with
  | nil => cases b with
    | nil => simp [symbolLt] at h1
    | cons y r => cases c with
      | nil => simp [symbolLt] at h2
      | cons => rfl
  | cons x q ih => cases b with
    | nil => simp [symbolLt] at h1
    | cons y r => cases c with
      | nil => simp [symbolLt] at h2
      | cons z t =>
        rw [symbolLt] at h1 h2 ⊢
        split_ifs at h1 h2 ⊢ <;> first | rfl | omega | exact ih h1 h2

/-- Of two symbols that differ, one is below the other. -/
theorem symbolLt_total {a b : Text} (h : a ≠ b) (h1 : symbolLt a b = false) : symbolLt b a = true := by
  induction a generalizing b with
  | nil => cases b with
    | nil => exact absurd rfl h
    | cons => simp [symbolLt] at h1
  | cons x q ih => cases b with
    | nil => rfl
    | cons y r =>
      rw [symbolLt] at h1 ⊢
      split_ifs at h1 ⊢ with g1 g2
      · rfl
      · refine ih (fun e => h ?_) h1
        have e' : x = y := Char.toNat_inj.1 (by omega)
        rw [e, e']

theorem ne_of_lookup_none {sym : Text} {d : List (Text × Nat)} (h : lookup sym d = none) : ∀ p ∈ d, p.1 ≠ sym := by
  induction d with
  | nil => simp
  | cons q d ih =>
    rw [lookup] at h
    split_ifs at h with e
    intro p hp
    rcases List.mem_cons.1 hp with rfl | hp
    · exact e
    · exact ih h p hp

/-- R25: a pair of a new symbol inserted: the members keep their order, and in a rising directory it stands above every
member before it and below every member after it. -/
theorem insertSymbol_spec (sym : Text) (i : Nat) (d : List (Text × Nat)) (hn : lookup sym d = none) :
    ∃ before after, d = before ++ after ∧ insertSymbol sym i d = before ++ (sym, i) :: after ∧
      (d.Pairwise (fun p q => symbolBelow p.1 q.1) →
        (∀ p ∈ before, symbolBelow p.1 sym) ∧ ∀ p ∈ after, symbolBelow sym p.1) := by
  induction d with
  | nil => exact ⟨[], [], rfl, rfl, fun _ => ⟨by simp, by simp⟩⟩
  | cons q d ih =>
    have hq := ne_of_lookup_none hn q List.mem_cons_self
    rw [lookup] at hn
    split_ifs at hn
    rw [insertSymbol]
    split_ifs with h
    · refine ⟨[], q :: d, rfl, rfl, fun hp => ⟨by simp, fun p hm => ?_⟩⟩
      rcases List.mem_cons.1 hm with rfl | hm
      · exact (symbolLt_iff ..).1 h
      · exact (symbolLt_iff ..).1 (symbolLt_trans h ((symbolLt_iff ..).2 ((List.pairwise_cons.1 hp).1 p hm)))
    · obtain ⟨before, after, h1, h2, h3⟩ := ih hn
      refine ⟨q :: before, after, by rw [h1]; rfl, by rw [h2]; rfl, fun hp => ?_⟩
      obtain ⟨h4, h5⟩ := h3 (List.pairwise_cons.1 hp).2
      refine ⟨fun p hm => ?_, h5⟩
      rcases List.mem_cons.1 hm with rfl | hm
      · exact (symbolLt_iff ..).1 (symbolLt_total (Ne.symm hq) (by simpa using h))
      · exact h4 p hm

/-! ### Conditions of alerts (R2, R171, R175) -/

theorem Conditions.hold_iff (c : Conditions) (price size : Nat) : c.hold price size = true ↔ c.met price size := by
  rcases c with ⟨_ | a, _ | b, _ | m⟩ <;> simp [Conditions.hold, Conditions.met, and_assoc]

/-- R175: the four alerts of a terminal tested on a trade. -/
theorem Terminal.alert_onTrade (i price size second : Nat) (t : Terminal) (k : Nat) :
    (t.onTrade i price size second).alert k =
      if k < 4 then (t.alert k).onTrade i price size second else t.alert k := by
  simp only [Terminal.onTrade, List.range, List.range.loop, List.foldl]
  rcases (by omega : k = 0 ∨ k = 1 ∨ k = 2 ∨ k = 3 ∨ 4 ≤ k) with rfl | rfl | rfl | rfl | h
  · simp [Terminal.setAlert, Terminal.alert, Table.get_set_other]
  · simp [Terminal.setAlert, Terminal.alert, Table.get_set_other]
  · simp [Terminal.setAlert, Terminal.alert, Table.get_set_other]
  · simp [Terminal.setAlert, Terminal.alert, Table.get_set_other]
  · rw [if_neg (by omega)]
    have h0 : ∀ j, j < 4 → k ≠ j := fun j hj => by omega
    simp [Terminal.setAlert, Terminal.alert, Table.get_set_other, h0]

/-- R175: testing the alerts changes nothing else of a terminal. -/
theorem Terminal.onTrade_frame (i price size second : Nat) (t : Terminal) :
    t.onTrade i price size second = { t with alerts := (t.onTrade i price size second).alerts } := by
  have step : ∀ (l : List Nat) (u : Terminal),
      let v := l.foldl (fun t n => t.setAlert n ((t.alert n).onTrade i price size second)) u
      v = { u with alerts := v.alerts } := by
    intro l
    induction l with
    | nil => intro u; rfl
    | cons n l ih => intro u; simp only [List.foldl_cons]; rw [ih]; rfl
  exact step _ t

/-- R39, R175: what the alert part of a trade leaves of each terminal. -/
theorem term_fanAlerts (i price size : Nat) (s : State) (n : Nat) :
    (fanAlerts i price size s).term n =
      if n < 64 then (s.term n).onTrade i price size s.clock.second else s.term n := by
  have clock : ∀ (l : List Nat) (u : State), u.clock = s.clock →
      forEach l (fun n v => v.setTerm n ((v.term n).onTrade i price size v.clock.second)) u =
        forEach l (fun n v => v.setTerm n ((v.term n).onTrade i price size s.clock.second)) u := by
    intro l
    induction l with
    | nil => intro u _; rw [forEach_nil, forEach_nil]
    | cons m l ih => intro u hu; rw [forEach_cons, forEach_cons, hu, ih _ (by simpa using hu)]
  unfold fanAlerts
  rw [clock termNos s rfl, term_forEach_setTerm (fun t => t.onTrade i price size s.clock.second) termNos
    (by unfold termNos; exact List.nodup_range) s n]
  simp [termNos]

/-- R2: a threshold on one of the four grids. -/
theorem checkThreshold_stored {denom : Nat} (hd : denom ∈ [8, 16, 32, 64]) (c : DealerCondition) :
    ThresholdStored denom c (checkThreshold denom c) := by
  unfold ThresholdStored checkThreshold checkPrice snap gridStep Config.maxPrice
  simp only [List.mem_cons, List.not_mem_nil, or_false] at hd
  rcases hd with rfl | rfl | rfl | rfl <;>
  · refine ⟨fun h => by simp [h], fun h g => ?_, fun h g1 g2 => ?_⟩
    · rw [if_pos h]; simp only [Option.map_eq_none_iff]; split_ifs <;> first | rfl | omega
    · rw [if_pos h, if_neg (by omega), if_neg (by omega)]; simp only [Option.map_some, Option.some.injEq]; omega

theorem checkMinSize_stored (c : DealerCondition) : MinSizeStored c (checkMinSize c) := by
  unfold MinSizeStored checkMinSize Config.maxSize
  refine ⟨fun h => by simp [h], fun h g => ?_, fun h g1 g2 => ?_⟩
  · rw [if_pos h, if_neg (by omega)]
  · rw [if_pos h, if_pos ⟨g1, g2⟩]

/-- R171: the conditions of an ALERT-SET on one of the four grids. -/
theorem checkConditions_stored {denom : Nat} (hd : denom ∈ [8, 16, 32, 64]) (q : DealerRequest) :
    ConditionsStored denom q (checkConditions denom q) := by
  refine ⟨?_, fun a b z ha hb hz => ⟨_, _, _, checkThreshold_stored hd a, checkThreshold_stored hd b,
    checkMinSize_stored z, ?_, ?_⟩⟩
  · unfold checkConditions
    rintro (h | h | h) <;> rw [h] <;> (repeat' split) <;> simp_all
  · unfold checkConditions; rw [ha, hb, hz]
    rintro (h | h | h) <;> simp only [h] <;> (repeat' split) <;> simp_all
  · intro x y m h1 h2 h3
    unfold checkConditions; rw [ha, hb, hz]; simp only [h1, h2, h3]

/-! ### Forced offers (R80) -/

theorem forced_offerCell (c : Nat) (s : State) : Forced [c] s (offerCell true c s) := by
  rcases offerCell_cases true c s with ⟨hm, h⟩ | ⟨hm, -, h⟩ | ⟨-, hf, -, -⟩
  · rw [h]; exact ⟨by simpa using hm, fun _ => List.prefix_refl _, fun _ _ hc => .inl hc, fun _ h => h⟩
  · rw [h]
    have hq : ∀ n, (s.setQueue (c / 64) (s.refreshQueue (c / 64) ++ [c])).refreshQueue n =
        if n = c / 64 then s.refreshQueue (c / 64) ++ [c] else s.refreshQueue n := by
      intro n
      by_cases e : n = c / 64
      · subst e; simp
      · rw [if_neg e, State.refreshQueue_setQueue_other _ e]
    refine ⟨by simp, fun n => ?_, fun n d hd => ?_, fun n hn => ?_⟩
    · rw [hq]; split
      · next e => subst e; exact List.prefix_append _ _
      · exact List.prefix_refl _
    · rw [hq] at hd; split at hd
      · next e =>
        subst e
        rcases List.mem_append.1 hd with h1 | h1
        · exact .inl h1
        · obtain rfl : d = c := by simpa using h1
          exact .inr ⟨by simp, rfl⟩
      · exact .inl hd
    · rw [hq]; split
      · next e =>
        subst e
        rw [List.nodup_append]
        exact ⟨hn, by simp, by rintro a ha b hb rfl; obtain rfl : a = c := by simpa using hb
                               exact hm ha⟩
      · exact hn
  · simp at hf

theorem Forced.refl (s : State) : Forced [] s s :=
  ⟨by simp, fun _ => List.prefix_refl _, fun _ _ hc => .inl hc, fun _ h => h⟩

/-- Forced offers made one after another. -/
theorem Forced.append {a b : List Nat} {s t u : State} (h1 : Forced a s t) (h2 : Forced b t u) : Forced (a ++ b) s u := by
  refine ⟨fun c hm => ?_, fun n => (h1.kept n).trans (h2.kept n), fun n c hm => ?_, fun n h => h2.once n (h1.once n h)⟩
  · rcases List.mem_append.1 hm with h | h
    · exact (h2.kept _).subset (h1.queued c h)
    · exact h2.queued c h
  · rcases h2.others n c hm with h | ⟨h, e⟩
    · rcases h1.others n c h with h | ⟨h, e⟩
      · exact .inl h
      · exact .inr ⟨List.mem_append_left _ h, e⟩
    · exact .inr ⟨List.mem_append_right _ h, e⟩

theorem forced_forEach (cells : List Nat) (s : State) : Forced cells s (forEach cells (offerCell true) s) := by
  induction cells generalizing s with
  | nil => exact .refl s
  | cons c l ih => exact (forced_offerCell c s).append (ih (offerCell true c s))

/-- Forced offers are those of any states with the same queues. -/
theorem Forced.of_queues {cells : List Nat} {s s' u u' : State} (h : Forced cells s u) (hs : s'.queues = s.queues)
    (hu : u'.queues = u.queues) : Forced cells s' u' := by
  have e1 : ∀ n, s'.refreshQueue n = s.refreshQueue n := fun n => by simp only [State.refreshQueue, hs]
  have e2 : ∀ n, u'.refreshQueue n = u.refreshQueue n := fun n => by simp only [State.refreshQueue, hu]
  exact ⟨fun c hc => by rw [e2]; exact h.queued c hc, fun n => by rw [e1, e2]; exact h.kept n,
    fun n c hc => by rw [e1]; exact h.others n c (by rwa [e2] at hc), fun n g => by
      rw [e2]; exact h.once n (by rwa [e1] at g)⟩

/-- R109: the cells of a line that are bound or held, in ascending order. -/
theorem mem_liveCells (n : Nat) (s : State) (c : Nat) :
    c ∈ liveCells n s ↔ c / 64 = n ∧ ((s.cell c).binding ≠ none ∨ (s.cell c).hold ≠ none) := by
  simp only [liveCells, List.mem_filter, List.mem_map, List.mem_range, cellNo, Bool.or_eq_true, Option.isSome_iff_ne_none]
  refine and_congr_left fun _ => ⟨?_, fun h => ⟨c % 64, by omega, by omega⟩⟩
  rintro ⟨k, hk, rfl⟩; omega

end Sys2Proof.Machine
end

