-- ==== Sys2Proof/Laws/Prints.lean ====
section
/-! SUPPORT. What offering a print to the ribbons can do (R39, R118 to R124): the ribbons, the two counters and the RIBBON
notices. -/

namespace Sys2Proof.Machine

/-! ### Ribbons read after a write -/

@[simp] theorem State.ribbon_setRibbon_same (s : State) (id : RibbonId) (r : Ribbon) : (s.setRibbon id r).ribbon id = r := by
  cases id <;> rfl

theorem State.ribbon_setRibbon_other (s : State) {id k : RibbonId} (h : k ≠ id) (r : Ribbon) :
    (s.setRibbon id r).ribbon k = s.ribbon k := by
  cases id <;> cases k <;> first | rfl | exact absurd rfl h

@[simp] theorem State.raise_ribbon (s : State) (n : NoticeItem) (id : RibbonId) : (s.raise n).ribbon id = s.ribbon id := by
  rcases s.raise_cases n with ⟨-, h⟩ | ⟨-, h⟩ <;> rw [h]
  cases id <;> rfl

@[simp] theorem State.raise_counters (s : State) (n : NoticeItem) : (s.raise n).counters = s.counters := by
  rcases s.raise_cases n with ⟨-, h⟩ | ⟨-, h⟩ <;> rw [h]
  rfl

/-! ### Notices -/

theorem Noticed.refl (s : State) : Noticed [] s s :=
  ⟨by simp, List.prefix_refl _, fun _ h => .inl h⟩

/-- One notice raised. -/
theorem noticed_raise (s : State) (n : NoticeItem) : Noticed [n] s (s.raise n) := by
  rcases s.raise_cases n with ⟨hm, h⟩ | ⟨-, h⟩ <;> rw [h]
  · exact ⟨by simpa using hm, List.prefix_refl _, fun _ h => .inl h⟩
  · exact ⟨by simp [State.setLink], List.prefix_append _ _, fun x hx => by simpa [State.setLink] using hx⟩

/-- Notices raised one after another. -/
theorem Noticed.append {a b : List NoticeItem} {s t u : State} (h1 : Noticed a s t) (h2 : Noticed b t u) :
    Noticed (a ++ b) s u := by
  refine ⟨fun x hx => ?_, h1.kept.trans h2.kept, fun x hx => ?_⟩
  · rcases List.mem_append.1 hx with h | h
    · exact h2.kept.subset (h1.listed x h)
    · exact h2.listed x h
  · rcases h2.others x hx with h | h
    · exact (h1.others x h).imp id fun h => List.mem_append_left _ h
    · exact .inr (List.mem_append_right _ h)

/-- States with the same notice list as one that some notices were raised in. -/
theorem Noticed.of_notices {a : List NoticeItem} {s s' u u' : State} (h : Noticed a s u)
    (hs : s'.link.notices = s.link.notices) (hu : u'.link.notices = u.link.notices) : Noticed a s' u' :=
  ⟨by rw [hu]; exact h.listed, by rw [hs, hu]; exact h.kept, by rw [hs, hu]; exact h.others⟩

/-! ### Counters -/

theorem State.advancedBy_zero {s u : State} {c : Counter} (h : u.counter c = s.counter c) : s.advancedBy u c 0 := h

theorem State.advancedBy_trans {s t u : State} {c : Counter} {m n : Nat} (h1 : s.advancedBy t c m)
    (h2 : t.advancedBy u c n) : s.advancedBy u c (m + n) := by
  unfold State.advancedBy at *
  rw [h2, h1]
  split_ifs <;> omega

/-! ### One ribbon (R118 to R124) -/

/-- What an offer to one ribbon does to a state: the other ribbon stands, and the counters and notices follow the policy and
the change of mode. -/
structure OfferedTo (id : RibbonId) (s u : State) : Prop where
  frame : u = { s with
    ribbonA := u.ribbonA, ribbonB := u.ribbonB, counters := u.counters
    link := { s.link with notices := u.link.notices } }
  other : ∀ k, k ≠ id → u.ribbon k = s.ribbon k
  counted : s.onlyCounted u [.rbDropped, .rbModeRises]
  risen : s.advancedBy u .rbModeRises (if (s.ribbon id).mode.code < (u.ribbon id).mode.code then 1 else 0)
  noticed : Noticed (if (u.ribbon id).mode ≠ (s.ribbon id).mode then [.ribbon id] else []) s u

/-- R122: a rise is to a later mode. -/
theorem risen_later {r : Ribbon} {m : Mode} (h : risen r = some m) : r.mode.code < m.code := by
  unfold risen riseTo at h
  cases hm : r.mode <;> simp only [hm] at h <;> first | cases h | (split at h <;> cases h; decide)

/-- R122: a fall is to an earlier mode. -/
theorem fallen_earlier {r : Ribbon} {m : Mode} (h : fallen r = some m) : m.code < r.mode.code := by
  unfold fallen fallTo at h
  cases hm : r.mode <;> simp only [hm] at h <;> first | cases h | (split at h <;> cases h; decide)

theorem Mode.code_ne {m k : Mode} (h : m.code ≠ k.code) : m ≠ k := fun e => h (congrArg Mode.code e)

/-- R122, R124: a mode evaluation changes its own ribbon by what that ribbon holds alone. -/
theorem evalMode_local (id : RibbonId) {s t : State} (h : t.ribbon id = s.ribbon id) :
    (evalMode id t).ribbon id = (evalMode id s).ribbon id := by
  simp only [evalMode, h]
  cases risen (s.ribbon id) with
  | some m => simp
  | none => cases fallen (s.ribbon id) with
    | some m => simp
    | none => simpa using h

/-- R122, R124: what a mode evaluation does. -/
theorem evalMode_offered (id : RibbonId) (s : State) : OfferedTo id s (evalMode id s) := by
  rcases evalMode_cases id s with ⟨-, -, h⟩ | ⟨m, hm, h⟩ | ⟨m, -, hm, h⟩ <;> rw [h]
  · exact ⟨rfl, fun _ _ => rfl, fun _ _ => rfl, by simpa using State.advancedBy_zero rfl, by simpa using Noticed.refl s⟩
  · have hlt : (s.ribbon id).mode.code < m.code := risen_later hm
    have hne : m ≠ (s.ribbon id).mode := Mode.code_ne (by omega)
    have hr : (((s.setRibbon id ((s.ribbon id).rise m)).count .rbModeRises).raise (.ribbon id)).ribbon id =
        (s.ribbon id).rise m := by simp
    refine ⟨?_, fun k hk => by simp [State.ribbon_setRibbon_other s hk], fun k hk => ?_, ?_, ?_⟩
    · generalize hw : State.raise _ _ = w
      rcases State.raise_cases ((s.setRibbon id ((s.ribbon id).rise m)).count .rbModeRises) (.ribbon id) with
        ⟨-, e⟩ | ⟨-, e⟩ <;> rw [e] at hw <;> subst hw <;> cases id <;> rfl
    · simp only [List.mem_cons, List.not_mem_nil, or_false, not_or] at hk
      simp only [State.counter, State.raise_counters]
      exact (State.counter_count_other _ hk.2).trans (by simp [State.counter])
    · rw [hr, Ribbon.rise]
      rw [if_pos hlt]
      simp only [State.advancedBy, State.counter, State.raise_counters]
      exact (State.counter_count_same ..).trans (by simp [State.counter, Config.maxCounter])
    · rw [hr, Ribbon.rise, if_pos hne]
      exact (noticed_raise _ _).of_notices (by simp) rfl
  · have hlt : m.code < (s.ribbon id).mode.code := fallen_earlier hm
    have hne : m ≠ (s.ribbon id).mode := Mode.code_ne (by omega)
    have hr : ((s.setRibbon id ((s.ribbon id).fall m)).raise (.ribbon id)).ribbon id = (s.ribbon id).fall m := by simp
    refine ⟨?_, fun k hk => by simp [State.ribbon_setRibbon_other s hk], fun k _ => ?_, ?_, ?_⟩
    · generalize hw : State.raise _ _ = w
      rcases State.raise_cases (s.setRibbon id ((s.ribbon id).fall m)) (.ribbon id) with
        ⟨-, e⟩ | ⟨-, e⟩ <;> rw [e] at hw <;> subst hw <;> cases id <;> rfl
    · simp [State.counter]
    · rw [hr, Ribbon.fall, if_neg (show ¬(s.ribbon id).mode.code < m.code by omega)]
      exact State.advancedBy_zero (by simp [State.counter])
    · rw [hr, Ribbon.fall, if_pos hne]
      exact (noticed_raise _ _).of_notices (by simp) rfl

/-- A change of the queue of the ribbon offered to, before the rest of the offer. -/
theorem OfferedTo.of_queue {id : RibbonId} {q : List PrintRecord} {s u : State}
    (h : OfferedTo id (s.setRibbon id { s.ribbon id with queue := q }) u) : OfferedTo id s u := by
  have hc : ∀ c, (s.setRibbon id { s.ribbon id with queue := q }).counter c = s.counter c := fun c => by
    simp [State.counter]
  refine ⟨?_, fun k hk => (h.other k hk).trans (State.ribbon_setRibbon_other s hk _), fun k hk => (h.counted k hk).trans (hc k),
    ?_, ?_⟩
  · have := h.frame
    cases id <;> exact this
  · have := h.risen
    rw [State.ribbon_setRibbon_same] at this
    simpa only [State.advancedBy, hc] using this
  · have := h.noticed
    rw [State.ribbon_setRibbon_same] at this
    exact this.of_notices (by simp) rfl

/-- A dropped record counted before the rest of the offer. -/
theorem OfferedTo.of_dropped {id : RibbonId} {s u : State} (h : OfferedTo id (s.count .rbDropped) u) : OfferedTo id s u := by
  have hr : ∀ k, (s.count .rbDropped).ribbon k = s.ribbon k := fun k => by cases k <;> rfl
  refine ⟨h.frame, fun k hk => (h.other k hk).trans (hr k), fun k hk => (h.counted k hk).trans ?_, ?_, ?_⟩
  · exact State.counter_count_other s (fun e => hk (by simp [e]))
  · have := h.risen
    rw [hr] at this
    simpa only [State.advancedBy, State.counter_count_other s (show Counter.rbModeRises ≠ .rbDropped by decide)] using this
  · have := h.noticed
    rw [hr] at this
    exact this.of_notices rfl rfl

/-- R118 to R124: what an offer of a print to a ribbon does. -/
theorem offerPrint_offered (id : RibbonId) (body : PrintBody) (at' : Nat) (s : State) :
    OfferedTo id s (offerPrint id body at' s) ∧
      s.advancedBy (offerPrint id body at' s) .rbDropped
        (if (s.ribbon id).state ≠ .off ∧ 512 ≤ (s.ribbon id).queue.length then 1 else 0) := by
  have join : ∀ q (t : State), t.advancedBy (joinQueue id q (makeRecord body at') t) .rbDropped 0 := fun q t => by
    have := evalMode_offered id (t.setRibbon id { t.ribbon id with queue := q ++ [makeRecord body at'] })
    refine State.advancedBy_zero ?_
    rcases evalMode_cases id (t.setRibbon id { t.ribbon id with queue := q ++ [makeRecord body at'] }) with
      ⟨-, -, h⟩ | ⟨m, -, h⟩ | ⟨m, -, -, h⟩ <;> rw [joinQueue, h]
    · simp [State.counter]
    · simp only [State.counter, State.raise_counters]
      exact (State.counter_count_other _ (by decide)).trans (by simp [State.counter])
    · simp [State.counter]
  rcases offerPrint_cases id body at' s with ⟨ho, h⟩ | ⟨ho, hq, h⟩ | ⟨q, ho, hq, -, h⟩ | ⟨ho, hq, -, h⟩ <;> rw [h]
  · exact ⟨⟨rfl, fun _ _ => rfl, fun _ _ => rfl, by simpa using State.advancedBy_zero rfl, by simpa using Noticed.refl s⟩,
      by simpa [ho] using State.advancedBy_zero rfl⟩
  · refine ⟨(evalMode_offered id _).of_queue, ?_⟩
    rw [if_neg (by simp only [Config.printPlaces] at hq; omega)]
    exact join _ s
  · refine ⟨(evalMode_offered id _).of_queue.of_dropped, ?_⟩
    rw [if_pos ⟨ho, hq⟩]
    exact State.advancedBy_trans (m := 1) (n := 0) (s.counter_count_same .rbDropped) (join _ _)
  · refine ⟨⟨rfl, fun k _ => by cases k <;> rfl, fun k hk => ?_, ?_, ?_⟩, ?_⟩
    · exact State.counter_count_other s (fun e => hk (by simp [e]))
    · have : (s.count .rbDropped).ribbon id = s.ribbon id := by cases id <;> rfl
      rw [this]
      simpa using State.advancedBy_zero (State.counter_count_other s (show Counter.rbModeRises ≠ .rbDropped by decide))
    · have : (s.count .rbDropped).ribbon id = s.ribbon id := by cases id <;> rfl
      rw [this]
      simpa using (Noticed.refl s).of_notices (u' := s.count .rbDropped) rfl rfl
    · rw [if_pos ⟨ho, hq⟩]; exact s.counter_count_same .rbDropped

/-- An offer changes its own ribbon by what that ribbon holds alone. -/
theorem offerPrint_local (id : RibbonId) (body : PrintBody) (at' : Nat) {s t : State} (h : t.ribbon id = s.ribbon id) :
    (offerPrint id body at' t).ribbon id = (offerPrint id body at' s).ribbon id := by
  have hc : ∀ v : State, (v.count .rbDropped).ribbon id = v.ribbon id := fun v => by cases id <;> rfl
  simp only [offerPrint, h, joinQueue]
  split
  · exact h
  · split
    · exact evalMode_local id (by simp)
    · split
      · exact evalMode_local id (by simp [hc, h])
      · rw [hc, hc, h]

/-! ### Both ribbons (R39, R120) -/

/-- R39, R120: an offer to each ribbon that takes the print. -/
theorem offers_spec (takes : RibbonId → Bool) (body : PrintBody) (s : State) :
    let offer (id : RibbonId) (v : State) := if takes id then offerPrint id body s.clock.second v else v
    let u := offer .b (offer .a s)
    PrintOffered takes body s u ∧ Noticed (modeNotices s u) s u ∧ s.onlyCounted u [.rbDropped, .rbModeRises] ∧
      u = { s with
        ribbonA := u.ribbonA, ribbonB := u.ribbonB, counters := u.counters
        link := { s.link with notices := u.link.notices } } := by
  intro offer u
  have one : ∀ id v, OfferedTo id v (offer id v) ∧ v.advancedBy (offer id v) .rbDropped
      (if takes id ∧ (v.ribbon id).state ≠ .off ∧ 512 ≤ (v.ribbon id).queue.length then 1 else 0) := by
    intro id v
    by_cases h : takes id
    · simp only [offer, h, if_true, true_and]; exact offerPrint_offered ..
    · have h' : takes id = false := by simpa using h
      simp only [offer, h', Bool.false_eq_true, if_false, false_and]
      exact ⟨⟨rfl, fun _ _ => rfl, fun _ _ => rfl, by simpa using State.advancedBy_zero rfl, by simpa using Noticed.refl v⟩,
        State.advancedBy_zero rfl⟩
  obtain ⟨oa, da⟩ := one .a s
  obtain ⟨ob, db⟩ := one .b (offer .a s)
  have hb : (offer .a s).ribbon .b = s.ribbon .b := oa.other .b (by decide)
  have ha : u.ribbon .a = (offer .a s).ribbon .a := ob.other .a (by decide)
  have same : ∀ id, takes id = true → u.ribbon id = (offerPrint id body s.clock.second s).ribbon id := by
    intro id h
    cases id with
    | a => rw [ha]; simp only [offer, h, if_true]
    | b =>
      have : u.ribbon .b = (offerPrint .b body s.clock.second (offer .a s)).ribbon .b := by simp only [u, offer, h, if_true]
      rw [this]; exact offerPrint_local _ _ _ hb
  have kept : ∀ id, takes id = false → u.ribbon id = s.ribbon id := by
    intro id h
    cases id with
    | a => rw [ha]; simp [offer, h]
    | b => rw [← hb]; simp [u, offer, h]
  have room : ∀ id, takes id = true → (s.ribbon id).state ≠ .off → (s.ribbon id).queue.length < 512 →
      u.ribbon id = (evalMode id (s.setRibbon id
        { s.ribbon id with queue := (s.ribbon id).queue ++ [recordOf body s.clock.second] })).ribbon id := by
    intro id h1 h2 h3
    rw [same id h1, offerPrint, if_neg h2, if_pos (show _ < Config.printPlaces from h3), joinQueue, makeRecord_eq]
  refine ⟨⟨?_, ?_, room, fun id h _ _ => same id h, ?_, ?_⟩, ?_, ?_, ?_⟩
  · rintro id (h | h)
    · exact kept id h
    · cases ht : takes id with
      | false => exact kept id ht
      | true => rw [same id ht, offerPrint, if_pos h]
  · intro id h1 h2 h3
    rw [room id h1 h2 h3]
    rcases evalMode_cases id (s.setRibbon id
      { s.ribbon id with queue := (s.ribbon id).queue ++ [recordOf body s.clock.second] }) with
      ⟨-, -, h⟩ | ⟨m, -, h⟩ | ⟨m, -, -, h⟩ <;> rw [h] <;> simp [Ribbon.rise, Ribbon.fall]
  · rw [hb] at db
    have := State.advancedBy_trans da db
    convert this using 1
    simp only [List.countP_cons, List.countP_nil, Bool.and_eq_true, decide_eq_true_eq, and_assoc]
    omega
  · have hr : (offer .a s).advancedBy u .rbModeRises
        (if ((offer .a s).ribbon .b).mode.code < (u.ribbon .b).mode.code then 1 else 0) := ob.risen
    rw [hb] at hr
    have hra := oa.risen
    rw [← ha] at hra
    have := State.advancedBy_trans hra hr
    convert this using 1
    simp only [List.countP_cons, List.countP_nil, decide_eq_true_eq]
    omega
  · have hn := ob.noticed
    rw [hb] at hn
    have hna := oa.noticed
    rw [← ha] at hna
    convert hna.append hn using 1
    simp only [modeNotices, List.filter_cons, List.filter_nil, decide_eq_true_eq]
    split_ifs <;> simp_all
  · intro k hk; rw [ob.counted k hk, oa.counted k hk]
  · have h1 := ob.frame
    have h2 := oa.frame
    show u = _
    rw [show u = offer .b (offer .a s) from rfl] at *
    rw [h1, h2]

end Sys2Proof.Machine
end

