-- ==== Sys2Proof/Laws/Rounds.lean ====
section
/-! SUPPORT. Rounds of the terminal lines, and the taking of a dealer's request: what each shared operation leaves. -/

namespace Sys2Proof.Machine

variable (s : State)

/-! ### What a round reads of a line -/

@[simp] theorem anyAdmitted_setTLine (line n : Nat) (l : TermLine) :
    anyAdmitted line (s.setTLine n l) = anyAdmitted line s := rfl
@[simp] theorem anyOutBlock_setTLine (line n : Nat) (l : TermLine) :
    anyOutBlock line (s.setTLine n l) = anyOutBlock line s := rfl
@[simp] theorem nextAddress_setTLine (line n : Nat) (r : Round) (l : TermLine) :
    nextAddress line r (s.setTLine n l) = nextAddress line r s := rfl

theorem anyAdmitted_iff (line : Nat) : anyAdmitted line s = true ↔ s.admitted line := by
  simp [anyAdmitted, addressNos, State.admitted]

theorem anyOutBlock_iff (line : Nat) : anyOutBlock line s = true ↔ s.holdsBlock line := by
  simp [anyOutBlock, addressNos, State.holdsBlock, Option.isSome_iff_ne_none]

theorem mem_addressesAbove (o : Option Nat) (a : Nat) :
    a ∈ addressesAbove o ↔ a < 16 ∧ ∀ b, o = some b → b < a := by
  cases o <;> simp [addressesAbove, addressNos]

/-- R142: a round finds an address exactly when some terminal above the last one taken is of those it visits. -/
theorem nextAddress_isSome_iff (line : Nat) (r : Round) :
    (nextAddress line r s).isSome = true ↔ s.findsAddress line r := by
  have : (nextAddress line r s).isSome = true ↔ ∃ a ∈ addressesAbove r.last, (s.term (termNo line a)).visited r.wide = true := by
    simp [nextAddress]
  rw [this]
  constructor
  · rintro ⟨a, ha, hv⟩
    obtain ⟨h1, h2⟩ := (mem_addressesAbove _ _).1 ha
    refine ⟨a, h1, h2, ?_⟩
    simpa [Terminal.visited, Terminal.served, or_assoc] using hv
  · rintro ⟨a, h1, h2, hv⟩
    refine ⟨a, (mem_addressesAbove _ _).2 ⟨h1, h2⟩, ?_⟩
    simpa [Terminal.visited, Terminal.served, or_assoc] using hv

/-- R142: the round in flight is spent exactly when it finds no address. -/
theorem roundSpent_iff {line : Nat} {r : Round} (h : (s.tline line).round = some r) :
    roundSpent line s = true ↔ ¬s.findsAddress line r := by
  rw [← nextAddress_isSome_iff]
  simp [roundSpent, h]

/-- R143: when the next round is due. -/
theorem roundDue_iff (line : Nat) : roundDue line s = true ↔ s.admitted line ∧
    ((s.tline line).poll = .continuous ∨ s.holdsBlock line ∨ (s.tline line).attention = true) := by
  simp [roundDue, anyAdmitted_iff, anyOutBlock_iff, or_assoc]

/-! ### The beginning of a round -/

/-- A wide round finds an address on a line with an admitted terminal. -/
theorem wide_finds {line : Nat} (h : s.admitted line) : s.findsAddress line { last := none, wide := true } := by
  obtain ⟨a, ha, hv⟩ := h
  refine ⟨a, ha, by simp, ?_⟩
  revert hv
  cases (s.term (termNo line a)).state <;> simp

/-- Rounds in turn change the line alone. -/
theorem startRounds_frame (line fuel : Nat) :
    (startRounds line fuel s = { s with tlines := (startRounds line fuel s).tlines }) ∧
      s.otherLinesKept (startRounds line fuel s) line := by
  induction fuel generalizing s with
  | zero => exact ⟨rfl, fun _ _ => rfl⟩
  | succ fuel ih =>
    have h1 : ∀ v : State, v = { s with tlines := v.tlines } → s.otherLinesKept v line →
        startRounds line fuel v = { s with tlines := (startRounds line fuel v).tlines } ∧
          s.otherLinesKept (startRounds line fuel v) line := by
      intro v hv hk
      obtain ⟨e, k⟩ := ih v
      exact ⟨by rw [e, hv], fun m hm => (k m hm).trans (hk m hm)⟩
    have h2 : ∀ l, s.otherLinesKept (s.setTLine line l) line := fun l m hm => State.tline_setTLine_other s hm l
    have h3 : ∀ l l', s.otherLinesKept ((s.setTLine line l).setTLine line l') line := fun l l' m hm => by
      rw [State.tline_setTLine_other _ hm, State.tline_setTLine_other _ hm]
    unfold startRounds
    dsimp only
    split_ifs
    · exact h1 _ rfl (h3 _ _)
    · exact ⟨rfl, h3 _ _⟩
    · exact ⟨rfl, h2 _⟩

/-- What a round reads of its terminals stands while the terminal lines alone change. -/
theorem lineReads_of_frame {s u : State} (h : u = { s with tlines := u.tlines }) (line : Nat) :
    (u.admitted line ↔ s.admitted line) ∧ (u.holdsBlock line ↔ s.holdsBlock line) ∧
      ∀ r, u.findsAddress line r ↔ s.findsAddress line r := by
  rw [h]
  exact ⟨Iff.rfl, Iff.rfl, fun _ => Iff.rfl⟩

theorem tlinesFrame_trans {s e u : State} (h1 : e = { s with tlines := e.tlines }) (h2 : u = { e with tlines := u.tlines }) :
    u = { s with tlines := u.tlines } := h2.trans (by rw [h1])

/-- A line as a round that has found nobody leaves it. -/
def TermLine.roundOver (l : TermLine) : TermLine :=
  { l with round := none, attention := false, roundCount := (l.roundCount + 1) % 8, quietCount := 0 }

/-- One round begun: it visits terminals, or it is over at its start, and the next begins when it is due. -/
theorem startRounds_succ (line fuel : Nat) :
    let l := s.tline line
    let r : Round := { last := none, wide := decide (l.roundCount = 0) }
    let due := s.admitted line ∧ (l.poll = .continuous ∨ s.holdsBlock line)
    (s.findsAddress line r →
      startRounds line (fuel + 1) s = s.setTLine line { l with round := some r, attention := false }) ∧
      (¬s.findsAddress line r → ∃ e, e = { s with tlines := e.tlines } ∧ e.tline line = l.roundOver ∧
        (due → startRounds line (fuel + 1) s = startRounds line fuel e) ∧
        (¬due → startRounds line (fuel + 1) s = e)) := by
  intro l r due
  let begun := s.setTLine line { l with round := some r, attention := false }
  let e := endRound line begun
  have hl : e.tline line = l.roundOver := by simp [e, endRound, begun, TermLine.roundOver]
  have hs : roundSpent line begun = true ↔ ¬s.findsAddress line r := by
    rw [roundSpent_iff begun (r := r) (by simp [begun])]
    exact Iff.rfl
  have hd : roundDue line e = true ↔ due := by
    rw [roundDue_iff, hl]
    simp only [TermLine.roundOver, Bool.false_eq_true, or_false]
    exact Iff.rfl
  have hstep : startRounds line (fuel + 1) s =
      if roundSpent line begun then if roundDue line e then startRounds line fuel e else e else begun := rfl
  rw [hstep]
  refine ⟨fun h => if_neg (by rw [hs]; exact fun n => n h), fun h => ⟨e, rfl, hl, fun d => ?_, fun d => ?_⟩⟩
  · rw [if_pos (hs.2 h), if_pos (hd.2 d)]
  · rw [if_pos (hs.2 h), if_neg (by rw [hd]; exact d)]

/-- On a line that calls for the next one, rounds go on to the wide one, when fuel reaches it. -/
theorem startRounds_wide (line fuel : Nat) : ∀ v : State, v.admitted line →
    ¬v.findsAddress line { last := none, wide := false } →
    ((v.tline line).poll = .continuous ∨ v.holdsBlock line) → (v.tline line).roundCount < 8 →
    (8 - (v.tline line).roundCount) % 8 < fuel → (v.tline line).quietCount = 0 →
    (startRounds line fuel v).tline line = { v.tline line with
      round := some { last := none, wide := true }, attention := false, roundCount := 0 } := by
  induction fuel with
  | zero => intro v _ _ _ _ hf; omega
  | succ fuel ih =>
    intro v ha hn hd hc hf hq
    obtain ⟨h1, h2⟩ := startRounds_succ v line fuel
    by_cases h0 : (v.tline line).roundCount = 0
    · rw [h1 (by simpa [h0] using wide_finds v ha), State.tline_setTLine_same]
      simp [h0]
    · obtain ⟨e, he, hl, h3, -⟩ := h2 (by simpa [h0] using hn)
      obtain ⟨ea, eb, ef⟩ := lineReads_of_frame he line
      rw [h3 ⟨ha, hd⟩, ih e (ea.2 ha) (by rwa [ef]) (by rw [hl, eb]; exact hd) (by rw [hl]; simp only [TermLine.roundOver]; omega)
        (by rw [hl]; simp only [TermLine.roundOver]; omega) (by rw [hl]; rfl), hl]
      simp [TermLine.roundOver, hq]

/-- R142, R143: what the beginning of a round leaves of its line. -/
theorem startRound_begun (line : Nat) : RoundBegun (s.tline line) line (startRound line s) := by
  obtain ⟨h1, h2⟩ := startRounds_succ s line 7
  obtain ⟨ad, hb, fa⟩ := lineReads_of_frame (startRounds_frame s line 8).1 line
  refine ⟨fun h => ?_, fun h ha hd hc => ?_, fun h hd => ?_⟩
  · rw [show startRound line s = _ from h1 ((fa _).1 h), State.tline_setTLine_same]
  · have h0 : (s.tline line).roundCount ≠ 0 := fun e => h ((fa _).2 (by simpa [e] using wide_finds s (ad.1 ha)))
    have hd' := hd.imp id hb.1
    obtain ⟨e, he, hl, h3, -⟩ := h2 (fun f => h ((fa _).2 f))
    obtain ⟨ea, eb, ef⟩ := lineReads_of_frame he line
    rw [show startRound line s = _ from h3 ⟨ad.1 ha, hd'⟩, startRounds_wide line 7 e (ea.2 (ad.1 ha))
      (fun f => h ((fa _).2 (by simpa [h0] using (ef _).1 f))) (by rw [hl, eb]; exact hd')
      (by rw [hl]; simp only [TermLine.roundOver]; omega) (by rw [hl]; simp only [TermLine.roundOver]; omega)
      (by rw [hl]; rfl), hl]
    simp [TermLine.roundOver]
  · obtain ⟨e, he, hl, -, h4⟩ := h2 (fun f => h ((fa _).2 f))
    rw [show startRound line s = _ from h4 (fun d => by
      rcases hd with hd | ⟨hd1, hd2⟩
      · exact hd (ad.2 d.1)
      · exact d.2.elim hd1 (fun b => hd2 (hb.2 b))), hl]
    rfl

/-- The beginning of a round changes its line alone. -/
theorem startRound_frame (line : Nat) : startRound line s = { s with tlines := (startRound line s).tlines } ∧
    s.otherLinesKept (startRound line s) line := startRounds_frame s line 8

/-! ### The end of a round -/

/-- R142, R143: what the end of a round leaves, with the next one begun when it is due. -/
theorem finishRound_ended (line : Nat) : RoundEnded (s.tline line) line (finishRound line s) ∧
    finishRound line s = { s with tlines := (finishRound line s).tlines } ∧
    s.otherLinesKept (finishRound line s) line := by
  generalize he : endRound line s = e
  have hf : e = { s with tlines := e.tlines } := by rw [← he]; rfl
  have hl : e.tline line = { s.tline line with
      round := none, roundCount := ((s.tline line).roundCount + 1) % 8, quietCount := 0 } := by
    rw [← he]; simp [endRound]
  have hk : s.otherLinesKept e line := fun m hm => by rw [← he]; exact State.tline_setTLine_other s hm _
  have hd := roundDue_iff e line
  simp only [hl] at hd
  have step : finishRound line s = if roundDue line e then startRound line e else e := by rw [← he]; rfl
  obtain ⟨f1, f2⟩ := startRound_frame e line
  by_cases h : roundDue line e = true
  · rw [step, if_pos h]
    obtain ⟨ea, eb, -⟩ := lineReads_of_frame f1 line
    refine ⟨⟨fun _ _ => by rw [← hl]; exact startRound_begun e line, fun hn => ?_⟩, ?_, fun m hm => (f2 m hm).trans (hk m hm)⟩
    · obtain ⟨g1, g2⟩ := hd.1 h
      rcases hn with hn | ⟨n1, n2, n3⟩
      · exact absurd (ea.2 g1) hn
      · rcases g2 with g | g | g
        · exact absurd g n1
        · exact absurd (eb.2 g) n2
        · simp [n3] at g
    · exact tlinesFrame_trans hf f1
  · rw [step, if_neg h]
    exact ⟨⟨fun ha hb => absurd (hd.2 ⟨ha, hb⟩) h, fun _ => hl⟩, hf, hk⟩

/-- R142: a round in flight goes on, or ends when it finds no address. -/
theorem endRoundIfDone_cases (line : Nat) :
    (roundSpent line s = false ∧ endRoundIfDone line s = s) ∨
      (roundSpent line s = true ∧ endRoundIfDone line s = finishRound line s) := by
  unfold endRoundIfDone
  cases h : roundSpent line s
  · exact .inl ⟨rfl, by simp⟩
  · exact .inr ⟨rfl, by simp⟩

/-! ### A dealer's request taken (R148, R163) -/

/-- R148, R150: the terminal as a request is taken. -/
theorem takeRequest_eq (q : DealerRequest) (t : Terminal) :
    t.takeRequest q = t.tookRequest { state := .taken, request := some q, result := none } := by
  unfold Terminal.takeRequest Terminal.tookRequest
  by_cases h : t.state = .lapsed <;> simp [h]

/-- R163: a result given replaces the result and the record's state alone. -/
@[simp] theorem giveResult_eq (n : Nat) (res : DealerResult) :
    giveResult n res s = s.setTerm n { s.term n with
      record := { (s.term n).record with state := .answered, result := some res } } := rfl

/-- R163: a request taken and answered at once. -/
theorem take_answered (n : Nat) (q : DealerRequest) (res : DealerResult) :
    (giveResult n res (s.setTerm n ((s.term n).takeRequest q))).term n =
      (s.term n).tookRequest { state := .answered, request := some q, result := some res } := by
  simp [takeRequest_eq, Terminal.tookRequest]

end Sys2Proof.Machine
end

