-- ==== Sys2Proof/Laws/Slots.lean ====
section
/-! SUPPORT. What the ends of terminal slots and of frames can do: the entry to SILENT, an ACK, and the cells that a frame
end and the waking of lines offer. -/

namespace Sys2Proof.Machine

/-! ### Notices (R200) -/

/-- R200: a raise changes nothing but the link. -/
theorem State.raise_frame (s : State) (n : NoticeItem) : s.raise n = { s with link := (s.raise n).link } := by
  rcases s.raise_cases n with ⟨-, h⟩ | ⟨-, h⟩ <;> rw [h]
  rfl

@[simp] theorem State.raise_term (s : State) (n : NoticeItem) (k : Nat) : (s.raise n).term k = s.term k := by
  rw [State.raise_frame]; rfl

@[simp] theorem State.raise_fu (s : State) (n : NoticeItem) : (s.raise n).fu = s.fu := by
  rw [State.raise_frame]

/-! ### The end of a frame, and the waking of lines (R102 to R104, R109) -/

/-- R102, R104: what an answered item offers, and which slot it touches. -/
theorem slotAnswered_offer (line : Nat) (it : FrameItem) (s : State) :
    let c := cellNo line it.slot
    Forced (if (s.slotState c).presence = .present then [] else [c]) s (slotAnswered line it s) ∧
      ∀ d, d ≠ c → (slotAnswered line it s).slotState d = s.slotState d := by
  intro c
  unfold slotAnswered
  by_cases hp : (s.slotState c).presence = .present
  · rw [if_pos hp, if_pos hp]
    exact ⟨Forced.of_queues (Forced.refl s) rfl rfl, fun d hd => State.slotState_setSlot_other _ hd _⟩
  · rw [if_neg hp, if_neg hp]
    generalize hw : State.raise _ _ = w
    have hq : w.queues = s.queues := by rw [← hw, State.raise_frame]; rfl
    have hs : ∀ d, d ≠ c → w.slotState d = s.slotState d := fun d hd => by
      rw [← hw, State.raise_frame]; exact State.slotState_setSlot_other _ hd _
    have fr := forEach_offerCell_frame true [c] w
    simp only [forEach_cons, forEach_nil] at fr
    exact ⟨(forced_offerCell c w).of_queues hq.symm rfl, fun d hd => by rw [fr]; exact hs d hd⟩

/-- R103: a lost item offers no cell, and touches its own slot alone. -/
theorem slotLost_keeps (line : Nat) (it : FrameItem) (s : State) :
    (slotLost line it s).queues = s.queues ∧
      ∀ d, d ≠ cellNo line it.slot → (slotLost line it s).slotState d = s.slotState d := by
  unfold slotLost
  dsimp only
  split_ifs
  · generalize hw : State.setCell _ _ _ = w
    have h1 : w.queues = s.queues := by rw [← hw]; rfl
    have h2 : ∀ d, d ≠ cellNo line it.slot → w.slotState d = s.slotState d := fun d hd => by
      rw [← hw, State.setCell_slotState]; exact State.slotState_setSlot_other _ hd _
    rw [State.raise_frame]; exact ⟨h1, h2⟩
  · exact ⟨rfl, fun d hd => by rw [State.setCell_slotState]; exact State.slotState_setSlot_other _ hd _⟩

/-- R102, R104: the forced offers of a frame end. -/
theorem applyItems_forced (line : Nat) (f : Frame) (answers : List ModuleAnswer) (s : State) (items : List FrameItem)
    (hn : (items.map FrameItem.slot).Nodup) :
    Forced ((items.filter (fun it => decide (it.slot ∈ f.applies) && answered f.offset answers it.slot &&
      !decide ((s.slotState (cellNo line it.slot)).presence = .present))).map (fun it => cellNo line it.slot)) s
      (forEach items (applyItem line f answers) s) := by
  have key : ∀ u : State, (∀ it ∈ items, u.slotState (cellNo line it.slot) = s.slotState (cellNo line it.slot)) →
      Forced ((items.filter (fun it => decide (it.slot ∈ f.applies) && answered f.offset answers it.slot &&
        !decide ((s.slotState (cellNo line it.slot)).presence = .present))).map (fun it => cellNo line it.slot)) u
        (forEach items (applyItem line f answers) u) := by
    induction items with
    | nil => intro u _; exact .refl u
    | cons it l ih =>
      intro u hu
      obtain ⟨h1, hn⟩ := List.nodup_cons.1 (by simpa using hn : (it.slot :: l.map FrameItem.slot).Nodup)
      have hne : ∀ jt ∈ l, cellNo line jt.slot ≠ cellNo line it.slot := fun jt hj e =>
        h1 (List.mem_map.2 ⟨jt, hj, by simp only [cellNo] at e; omega⟩)
      have e0 := hu it List.mem_cons_self
      have rest : ∀ v : State, (∀ d, d ≠ cellNo line it.slot → v.slotState d = u.slotState d) →
          ∀ jt ∈ l, v.slotState (cellNo line jt.slot) = s.slotState (cellNo line jt.slot) := fun v hv jt hj =>
        (hv _ (hne jt hj)).trans (hu jt (List.mem_cons_of_mem _ hj))
      rw [forEach_cons, applyItem, List.filter_cons]
      by_cases ha : it.slot ∈ f.applies
      · rw [if_pos ha]
        by_cases hb : answered f.offset answers it.slot = true
        · rw [if_pos hb]
          obtain ⟨o1, o2⟩ := slotAnswered_offer line it u
          have := o1.append (ih hn _ (rest _ o2))
          rw [e0] at this
          by_cases hp : (s.slotState (cellNo line it.slot)).presence = .present <;> simpa [ha, hb, hp] using this
        · rw [if_neg hb]
          obtain ⟨o1, o2⟩ := slotLost_keeps line it u
          have := ih hn _ (rest _ o2)
          simpa [ha, hb] using this.of_queues o1.symm rfl
      · rw [if_neg ha]
        simpa [ha] using ih hn u (rest u fun _ _ => rfl)
  exact key s fun _ _ => rfl
/-- R109: the forced offers of the lines that the entry into PRE_OPEN wakes. -/
theorem wakeLines_forced (s : State) :
    Forced (((List.range 8).filter (fun m => decide ((s.line m).state = .dark))).flatMap (fun m => liveCells m s)) s
      (wakeLines s) := by
  have live : ∀ {m : Nat} (v : State), v.cells = s.cells → liveCells m v = liveCells m s := by
    intro m v hv; simp only [liveCells, State.cell, hv]
  have key : ∀ (l : List Nat), l.Nodup → ∀ u : State, u.cells = s.cells → (∀ m ∈ l, u.line m = s.line m) →
      Forced ((l.filter (fun m => decide ((s.line m).state = .dark))).flatMap (fun m => liveCells m s)) u
        (forEach l (fun n s =>
          match (s.line n).state with
          | .dark => wakeLine n s
          | .lit => s.setLine n { s.line n with darkTimer := none }
          | .off => s) u) := by
    intro l hl
    induction l with
    | nil => intro u _ _; exact .refl u
    | cons m l ih =>
      intro u hc hm
      obtain ⟨hml, hl⟩ := List.nodup_cons.1 hl
      have e := hm m List.mem_cons_self
      have other : ∀ k ∈ l, k ≠ m := fun k hk e => hml (e ▸ hk)
      rw [forEach_cons]
      rcases h : (s.line m).state with _ | _ | _
      · rw [e]; simp only [h]
        simpa [List.filter_cons, h] using ih hl _ hc fun k hk => hm k (List.mem_cons_of_mem _ hk)
      · rw [e]; simp only [h]
        have := ih hl (u.setLine m { s.line m with darkTimer := none }) hc fun k hk => by
          rw [State.line_setLine_other _ (other k hk)]; exact hm k (List.mem_cons_of_mem _ hk)
        have stays : Forced [] u (u.setLine m { s.line m with darkTimer := none }) := (Forced.refl u).of_queues rfl rfl
        simpa [List.filter_cons, h] using stays.append this
      · rw [e]; simp only [h]
        obtain ⟨w, wc, wq, wl, ew⟩ : ∃ w : State, w.cells = s.cells ∧ w.queues = u.queues ∧
            (∀ k, k ≠ m → w.line k = u.line k) ∧ wakeLine m u = forEach (liveCells m s) (offerCell true) w := by
          refine ⟨u.setLine m { u.line m with state := .lit, darkTimer := none }, hc, rfl,
            fun k hk => State.line_setLine_other _ hk _, ?_⟩
          show forEach (liveCells m (u.setLine m { u.line m with state := .lit, darkTimer := none })) _ _ = _
          rw [live (u.setLine m { u.line m with state := .lit, darkTimer := none }) hc]
        have fr := forEach_offerCell_frame true (liveCells m s) w
        have f1 : Forced (liveCells m s) u (wakeLine m u) := by
          rw [ew]; exact (forced_forEach (liveCells m s) w).of_queues wq.symm rfl
        have := f1.append (ih hl (wakeLine m u) (by rw [ew, fr]; exact wc) fun k hk => by
          rw [ew, fr]; show w.line k = _
          rw [wl k (other k hk)]; exact hm k (List.mem_cons_of_mem _ hk))
        simpa [List.filter_cons, h] using this
  exact key _ List.nodup_range s rfl fun _ _ => rfl

/-! ### The ends of terminal slots (R145, R146, R153, R154) -/

/-- R69, R146, R154: what the entry to SILENT leaves of the terminal, and of the job in flight. -/
theorem goSilent_spec (line addr : Nat) (s : State) :
    let n := termNo line addr
    let t := s.term n
    let u := goSilent line addr s
    u.term n = { t with state := .silent, outBlock := none, statusOwed := false, idleOwed := false
                        changed := true, record := (u.term n).record, alerts := (u.term n).alerts } ∧
    (u.term n).record = (match t.outBlock with
          | some (.reply _) => if t.record.state = .sent then { t.record with state := .answered } else t.record
          | _ => t.record) ∧
    (∀ k, (∃ l, t.outBlock = some (.bell l) ∧ l.slot = k) → (u.term n).alert k = { t.alert k with marked := false }) ∧
    (∀ k, (∀ l, t.outBlock = some (.bell l) → l.slot ≠ k) → (u.term n).alert k = t.alert k) ∧
    (∀ o fate, s.fu.job = some (.terminal line addr o fate) → u.fu = { s.fu with
          job := some (.terminal line addr o (if fate = .retired then .retired else .silenced)) }) ∧
    ((∀ o fate, s.fu.job ≠ some (.terminal line addr o fate)) → u.fu = s.fu) := by
  intro n t u
  have hu : u.term n = { (match t.outBlock with | some b => t.discard b | none => t) with
      state := .silent, outBlock := none, idleOwed := false, statusOwed := false, changed := true } := by
    simp only [u, goSilent, markFate, State.count_term, State.raise_term, State.setFU_term, n, State.term_setTerm_same]
    rfl
  have hf : u.fu = { s.fu with job := s.fu.job.map (Job.meets .silenced line addr) } := by
    simp only [u, goSilent, markFate, State.count_fu, State.raise_fu, State.setFU_fu]
    rfl
  refine ⟨?_, ?_, ?_, ?_, ?_, ?_⟩
  · rw [hu]; rcases ho : t.outBlock with _ | b
    · rfl
    · cases b <;> simp only [Terminal.discard] <;> (try split_ifs) <;> rfl
  · rw [hu]; rcases ho : t.outBlock with _ | b
    · rfl
    · cases b <;> simp only [Terminal.discard] <;> (try split_ifs) <;> rfl
  · rintro k ⟨l, ho, rfl⟩
    rw [hu, ho]; simp only [Terminal.discard]
    split_ifs with hm
    · simp [Terminal.setAlert, Terminal.alert]
    · simp only [Terminal.alert] at hm ⊢
      cases h : Table.get Alert.cold t.alerts l.slot; simp_all
  · intro k hk
    rw [hu]; rcases ho : t.outBlock with _ | b
    · rfl
    · cases b with
      | bell l =>
        simp only [Terminal.discard]; split_ifs
        · simp [Terminal.setAlert, Terminal.alert, Table.get_set_other _ _ (Ne.symm (hk l ho))]
        · rfl
      | reply _ => simp only [Terminal.discard]; split_ifs <;> rfl
      | _ => rfl
  · intro o fate h; rw [hf, h]; simp [Job.meets]
  · intro h
    have hj : s.fu.job.map (Job.meets .silenced line addr) = s.fu.job := by
      rcases hj : s.fu.job with _ | j
      · rfl
      · cases j with
        | terminal l a b f =>
          simp only [Option.map_some, Job.meets]
          rw [if_neg fun g => h b f (by rw [hj, g.1, g.2])]
        | _ => rfl
    rw [hf, hj]

/-- R145, R153: what an ACK of an OUTPUT leaves of the terminal. -/
theorem slotAcked_spec (line addr : Nat) (r : Bool) (o : Block) (s : State) :
    let n := termNo line addr
    let t := s.term n
    let b := slotAcked line addr (.output r o) s
    b.term n = { t with retry := 0, outBlock := none, record := (b.term n).record, alerts := (b.term n).alerts } ∧
        (∀ q, o = .reply q → (b.term n).record = { state := .free, request := none, result := none }) ∧
        ((∀ q, o ≠ .reply q) → (b.term n).record = t.record) ∧
        ∀ k,
          let spent := ∃ l, o = .bell l ∧ l.slot = k ∧ (t.alert k).marked = true
          (spent → (b.term n).alert k = { t.alert k with state := .spent, marked := false }) ∧
          (¬spent → (b.term n).alert k = t.alert k) := by
  intro n t b
  have hb : b.term n = { ({ t with outBlock := none } : Terminal).delivered o with retry := 0 } := by
    simp [b, slotAcked, n, t]
  rw [hb]
  cases o with
  | bell l =>
    simp only [Terminal.delivered]
    have ha : ({ t with outBlock := none } : Terminal).alert l.slot = t.alert l.slot := rfl
    rw [ha]
    refine ⟨by split_ifs <;> rfl, by simp, fun _ => by split_ifs <;> rfl, fun k => ⟨?_, ?_⟩⟩
    · rintro ⟨l', hl, rfl, hm⟩; cases hl
      rw [if_pos hm]; simp [Terminal.setAlert, Terminal.alert]
    · intro hs
      split_ifs with hm
      · have : k ≠ l.slot := fun e => hs ⟨l, rfl, e.symm, e ▸ hm⟩
        simp [Terminal.setAlert, Terminal.alert, Table.get_set_other _ _ this]
      · rfl
  | reply q =>
    simp only [Terminal.delivered]
    exact ⟨rfl, fun _ _ => rfl, fun h => absurd rfl (h q), fun k => ⟨(by rintro ⟨l, h, -⟩; cases h), fun _ => rfl⟩⟩
  | _ => exact ⟨rfl, by simp, fun _ => rfl, fun k => ⟨(by rintro ⟨l, h, -⟩; cases h), fun _ => rfl⟩⟩

end Sys2Proof.Machine
end

