-- ==== Sys2Proof/Laws/Ticks.lean ====
section
/-! SUPPORT. What one second tick does to the blocks that count seconds, and what it leaves alone (R51, R88, R107, R123, R128,
R143, R150, R183). -/

namespace Sys2Proof.Machine

/-- A free order of a list takes each member once. -/
theorem freeOrder_perm {α : Type} (fuel n : Nat) (l : List α) (h : l.length ≤ fuel) : (freeOrder fuel n l).Perm l := by
  induction fuel generalizing n l with
  | zero => exact .refl _
  | succ fuel ih =>
    match l with
    | [] => exact .refl _
    | [_] => exact .refl _
    | a :: b :: l =>
      have hk : Config.freeChoice n % (a :: b :: l).length < (a :: b :: l).length := Nat.mod_lt _ (by simp)
      simp only [freeOrder, List.getElem?_eq_getElem hk]
      refine ((ih (n + 1) _ ?_).cons _).trans (List.getElem_cons_eraseIdx_perm hk)
      rw [List.length_eraseIdx_of_lt hk]; omega

/-! ### The referral windows (R183) -/

/-- The hold of a window runs out at this tick. -/
def State.runsOut (s : State) (w : Nat) : Bool :=
  match (s.window w).slot with
  | some h => decide (h.limit ≤ h.elapsed + 1)
  | none => false

/-- What the windows' ticks leave alone. -/
def State.ReferralFrame (s u : State) : Prop :=
  u = { s with
    windows := u.windows, terms := u.terms, counters := u.counters, link := { s.link with notices := u.link.notices } }

theorem State.ReferralFrame.trans {s t u : State} (a : s.ReferralFrame t) (b : t.ReferralFrame u) : s.ReferralFrame u := by
  obtain ⟨_, _, _, _, rfl⟩ : ∃ w r c n, t = { s with
    windows := w, terms := r, counters := c, link := { s.link with notices := n } } := ⟨_, _, _, _, a⟩
  exact b

theorem State.raise_referralFrame (s : State) (i : NoticeItem) : s.ReferralFrame (s.raise i) := by
  rcases s.raise_cases i with ⟨-, h⟩ | ⟨-, h⟩ <;> rw [h] <;> rfl

/-- R183: what one tick of some windows changes: theirs alone, with each hold that runs out counted and noticed, and its
terminal's record given a result. -/
structure ReferralsTicked (l : List Nat) (s u : State) : Prop where
  frame : s.ReferralFrame u
  windows : ∀ w, w ∉ l → u.window w = s.window w
  only : s.onlyCounted u [.rfExpired]
  counted : u.counter .rfExpired = if l.filter s.runsOut = [] then s.counter .rfExpired
    else min 4294967295 (s.counter .rfExpired + (l.filter s.runsOut).length)
  noticed : Noticed ((l.filter s.runsOut).map .referral) s u
  terms : ∀ n, u.term n = { s.term n with record := (u.term n).record }
  records : ∀ n, (∀ w h, w ∈ l.filter s.runsOut → (s.window w).slot = some h → termNo h.line h.addr ≠ n) →
    (u.term n).record = (s.term n).record

/-- R183: one window. -/
theorem tickReferral_ticked (w : Nat) (s : State) : ReferralsTicked [w] s (tickReferral w s) := by
  unfold tickReferral
  have quiet : s.runsOut w = false → ∀ v : Window, ReferralsTicked [w] s (s.setWindow w v) := by
    intro hr v
    have hf : [w].filter s.runsOut = [] := by simp [hr]
    refine ⟨rfl, fun k hk => State.window_setWindow_other _ (by simpa using hk) _, fun _ _ => rfl, by rw [hf]; rfl, ?_,
      fun _ => rfl, fun _ _ => rfl⟩
    rw [hf]; exact ⟨by simp, List.prefix_refl _, fun _ h => .inl h⟩
  split
  · next hs =>
    have hr : s.runsOut w = false := by simp [State.runsOut, hs]
    have hf : [w].filter s.runsOut = [] := by simp [hr]
    refine ⟨rfl, fun _ _ => rfl, fun _ _ => rfl, by rw [hf]; rfl, ?_, fun _ => rfl, fun _ _ => rfl⟩
    rw [hf]; exact ⟨by simp, List.prefix_refl _, fun _ h => .inl h⟩
  · next h hs =>
    by_cases hl : h.limit ≤ h.elapsed + 1
    · have hr : s.runsOut w = true := by simp [State.runsOut, hs, hl]
      have hf : [w].filter s.runsOut = [w] := by simp [hr]
      rw [if_pos hl]
      unfold expireHeld
      generalize hv : giveResult (termNo h.line h.addr) (DealerResult.ofCode .noAnswer)
        ((emptySlot w .expired s).count .rfExpired) = v
      have f : s.ReferralFrame v := by rw [← hv]; rfl
      have fr := State.raise_frame v (.referral w)
      have hw : ∀ k, k ≠ w → v.window k = s.window k := fun k hk => by
        rw [← hv]; exact State.window_setWindow_other _ hk _
      have hc : ∀ c, v.counter c = ((emptySlot w .expired s).count .rfExpired).counter c := fun c => by rw [← hv]; rfl
      have ht : ∀ n, v.term n = if n = termNo h.line h.addr then
          { s.term n with record := { (s.term n).record with
            state := .answered, result := some (DealerResult.ofCode .noAnswer) } } else s.term n := fun n => by
        rw [← hv]
        split
        · next e => subst e; exact State.term_setTerm_same ..
        · next e => exact State.term_setTerm_other _ e _
      have hn : Noticed [.referral w] s (v.raise (.referral w)) := by
        have e : v.link.notices = s.link.notices := by rw [← hv]; rfl
        rcases v.raise_cases (.referral w) with ⟨h1, h2⟩ | ⟨h1, h2⟩ <;> rw [h2]
        · exact ⟨by simpa using h1, by rw [e], fun x hx => .inl (by rwa [e] at hx)⟩
        · refine ⟨by simp [State.setLink], ?_, fun x hx => ?_⟩
          · show _ <+: v.link.notices ++ [_]; rw [e]; exact List.prefix_append _ _
          · have hx : x ∈ v.link.notices ++ [.referral w] := hx
            rw [e] at hx; simpa using hx
      refine ⟨f.trans (v.raise_referralFrame _), fun k hk => ?_, fun c hcx => ?_, ?_, ?_, fun n => ?_, fun n hnn => ?_⟩
      · rw [fr]; exact hw k (by simpa using hk)
      · rw [fr]; show v.counter c = _
        rw [hc]; exact State.counter_count_other _ (by simpa using hcx)
      · rw [hf, if_neg (by simp), fr]; show v.counter _ = _
        rw [hc, State.counter_count_same]; rfl
      · rw [hf]; exact hn
      · rw [State.raise_term, ht]; split <;> rfl
      · rw [State.raise_term, ht, if_neg (Ne.symm (hnn w h (by rw [hf]; simp) hs))]
    · rw [if_neg hl]
      exact quiet (by simp [State.runsOut, hs, hl]) _

/-- R183: several windows, one after another, each once. -/
theorem forEach_tickReferral (l : List Nat) (hl : l.Nodup) (s : State) :
    ReferralsTicked l s (forEach l tickReferral s) := by
  induction l generalizing s with
  | nil =>
    exact ⟨rfl, fun _ _ => rfl, fun _ _ => rfl, rfl, ⟨by simp, List.prefix_refl _, fun _ h => .inl h⟩, fun _ => rfl,
      fun _ _ => rfl⟩
  | cons w l ih =>
    obtain ⟨hw, hl⟩ := List.nodup_cons.1 hl
    rw [forEach_cons]
    have a := tickReferral_ticked w s
    generalize tickReferral w s = t at a ⊢
    have b := ih hl t
    generalize forEach l tickReferral t = u at b ⊢
    have win : ∀ k ∈ l, t.window k = s.window k := fun k hk => a.windows k (by rintro h; simp at h; exact hw (h ▸ hk))
    have ro : l.filter t.runsOut = l.filter s.runsOut :=
      List.filter_congr fun k hk => by simp only [State.runsOut, win k hk]
    have split : (w :: l).filter s.runsOut = [w].filter s.runsOut ++ l.filter s.runsOut := by
      rw [← List.filter_append]; rfl
    refine ⟨?_, fun k hk => ?_, fun c hc => (b.only c hc).trans (a.only c hc), ?_, ?_, fun n => ?_, fun n hn => ?_⟩
    · exact a.frame.trans b.frame
    · rw [b.windows k (fun h => hk (List.mem_cons_of_mem _ h)), a.windows k (fun h => hk (by simp at h; simp [h]))]
    · rw [b.counted, ro, a.counted, split]
      by_cases h1 : [w].filter s.runsOut = [] <;> by_cases h2 : l.filter s.runsOut = [] <;> simp [h1, h2]
      omega
    · rw [split, List.map_append]
      have nb := b.noticed
      rw [ro] at nb
      refine ⟨fun x hx => ?_, a.noticed.kept.trans nb.kept, fun x hx => ?_⟩
      · rcases List.mem_append.1 hx with h | h
        · exact nb.kept.subset (a.noticed.listed x h)
        · exact nb.listed x h
      · rcases nb.others x hx with h | h
        · rcases a.noticed.others x h with h | h
          · exact .inl h
          · exact .inr (List.mem_append_left _ h)
        · exact .inr (List.mem_append_right _ h)
    · rw [b.terms n, a.terms n]
    · rw [split] at hn
      refine (b.records n fun k h hk hs => ?_).trans (a.records n fun k h hk => hn k h (List.mem_append_left _ hk))
      rw [ro] at hk
      exact hn k h (List.mem_append_right _ hk) (by rw [← win k (List.mem_filter.1 hk).1]; exact hs)

/-! ### The other counts of seconds (R88, R107, R143, R150) -/

/-- R88: the flash counts. -/
theorem tickFlashes_frame (s : State) :
    tickFlashes s = { s with
      cells := (tickFlashes s).cells, queues := (tickFlashes s).queues, free := (tickFlashes s).free } := by
  let R (s t : State) := t = { s with cells := t.cells, queues := t.queues, free := t.free }
  have trans : ∀ a b c, R a b → R b c → R a c := by intro a b c h1 h2; simp only [R] at *; rw [h2, h1]
  have a : R s (forEach (Table.keys s.cells) tickFlash s) := by
    refine forEach_rel (R := R) (fun _ => rfl) trans _ (fun c s => ?_) s
    unfold tickFlash; split <;> rfl
  have b : ∀ l t, R t (forEach l flashExpire t) := fun l t => by
    refine forEach_rel (R := R) (fun _ => rfl) trans _ (fun c s => ?_) t
    unfold flashExpire
    rcases offerCell_cases false c (s.setCell c { s.cell c with flashCount := 0 }) with ⟨-, h⟩ | ⟨-, -, h⟩ | ⟨-, -, -, h⟩ <;>
      rw [h] <;> rfl
  refine trans _ _ _ (trans _ _ _ a ?_) (b _ _)
  rfl

/-- R107: the dark timers. -/
theorem tickDark_frame (n : Nat) (s : State) : tickDark n s = { s with lines := (tickDark n s).lines } ∧
    ∀ m, m ≠ n → (tickDark n s).line m = s.line m := by
  unfold tickDark
  split
  · exact ⟨rfl, fun _ _ => rfl⟩
  · split
    · exact ⟨rfl, fun m hm => State.line_setLine_other _ hm _⟩
    · exact ⟨rfl, fun m hm => State.line_setLine_other _ hm _⟩

/-- R143: the quiet counts. -/
theorem tickQuiet_frame (n : Nat) (s : State) : tickQuiet n s = { s with tlines := (tickQuiet n s).tlines } ∧
    s.otherLinesKept (tickQuiet n s) n := by
  unfold tickQuiet
  dsimp only
  split
  · exact ⟨rfl, fun _ _ => rfl⟩
  · generalize hw : State.setTLine _ _ _ = w
    have f : w = { s with tlines := w.tlines } := by rw [← hw]; rfl
    have k : s.otherLinesKept w n := fun m hm => by rw [← hw]; exact State.tline_setTLine_other _ hm _
    split
    · unfold startRoundIfIdle
      split
      · obtain ⟨f1, k1⟩ := startRound_frame w n
        exact ⟨tlinesFrame_trans f f1, fun m hm => (k1 m hm).trans (k m hm)⟩
      · exact ⟨f, k⟩
    · exact ⟨f, k⟩

/-- R150: the lapse counts leave every record. -/
theorem tickLapse_frame (n : Nat) (s : State) : tickLapse n s = { s with terms := (tickLapse n s).terms } ∧
    (∀ m, m ≠ n → (tickLapse n s).term m = s.term m) ∧ ∀ m, ((tickLapse n s).term m).record = (s.term m).record := by
  refine ⟨rfl, fun m hm => State.term_setTerm_other _ hm _, fun m => ?_⟩
  by_cases h : m = n
  · subst h
    unfold tickLapse; rw [State.term_setTerm_same]
    unfold Terminal.tickLapse; split
    · dsimp only; split <;> rfl
    · rfl
  · unfold tickLapse; rw [State.term_setTerm_other _ h]

/-- Operations that leave every object of a kind but their own leave those that none of them names. -/
theorem forEach_others {β : Type} (f : Nat → State → State) (read : State → Nat → β)
    (h : ∀ n s m, m ≠ n → read (f n s) m = read s m) (l : List Nat) (s : State) (m : Nat) (hm : m ∉ l) :
    read (forEach l f s) m = read s m := by
  induction l generalizing s with
  | nil => rfl
  | cons n l ih =>
    rw [forEach_cons, ih _ fun e => hm (List.mem_cons_of_mem _ e)]
    exact h n s m fun e => hm (e ▸ List.mem_cons_self)

/-! ### A tick's counts (R51) -/

/-- What the counts of seconds before the windows' leave alone. -/
def State.SecondsFrame (s e : State) : Prop :=
  e = { s with
    cells := e.cells, queues := e.queues, lines := e.lines, ribbonA := e.ribbonA, ribbonB := e.ribbonB
    tlines := e.tlines, terms := e.terms, free := e.free }

theorem State.SecondsFrame.trans {s t u : State} (a : s.SecondsFrame t) (b : t.SecondsFrame u) : s.SecondsFrame u := by
  obtain ⟨_, _, _, _, _, _, _, _, rfl⟩ : ∃ c q l ra rb tl tm f, t = { s with
    cells := c, queues := q, lines := l, ribbonA := ra, ribbonB := rb, tlines := tl, terms := tm, free := f } :=
    ⟨_, _, _, _, _, _, _, _, a⟩
  exact b

/-- What one tick's counts leave alone. -/
theorem State.SecondsFrame.trans_referral {s t u : State} (a : s.SecondsFrame t) (b : t.ReferralFrame u) :
    u = { s with
      cells := u.cells, queues := u.queues, lines := u.lines, ribbonA := u.ribbonA, ribbonB := u.ribbonB
      tlines := u.tlines, terms := u.terms, windows := u.windows, counters := u.counters, free := u.free
      link := { s.link with notices := u.link.notices } } := by
  obtain ⟨c, q, l, ra, rb, tl, tm, f, rfl⟩ : ∃ c q l ra rb tl tm f, t = { s with
    cells := c, queues := q, lines := l, ribbonA := ra, ribbonB := rb, tlines := tl, terms := tm, free := f } :=
    ⟨_, _, _, _, _, _, _, _, a⟩
  obtain ⟨_, _, _, _, rfl⟩ : ∃ w r k n, u = { s with
    cells := c, queues := q, lines := l, ribbonA := ra, ribbonB := rb, tlines := tl, free := f
    windows := w, terms := r, counters := k, link := { s.link with notices := n } } := ⟨_, _, _, _, b⟩
  rfl

/-- R51: what the counts of seconds change before the windows are taken, and what they leave alone. -/
structure SecondsCounted (s e : State) : Prop where
  frame : s.SecondsFrame e
  lines : ∀ n, 8 ≤ n → e.line n = s.line n
  tlines : ∀ n, 4 ≤ n → e.tline n = s.tline n
  terms : ∀ n, 64 ≤ n → e.term n = s.term n
  records : ∀ n, (e.term n).record = (s.term n).record

theorem SecondsCounted.setFree {s e : State} (h : SecondsCounted s e) (k : Nat) : SecondsCounted s (e.setFree k) :=
  ⟨h.frame.trans rfl, h.lines, h.tlines, h.terms, h.records⟩

/-- R51, R88, R107, R143, R150: the counts that come before the windows'. -/
def tickSeconds (s : State) : State :=
  forEach termNos tickLapse (forEach tlineNos tickQuiet
    (forEach ribbonIds (fun id s => s.setRibbon id (s.ribbon id).tick) (forEach lineNos tickDark (tickFlashes s))))

theorem tickSeconds_counted (s : State) : SecondsCounted s (tickSeconds s) := by
  unfold tickSeconds
  generalize ha : tickFlashes s = a
  have fa : a = { s with cells := a.cells, queues := a.queues, free := a.free } := by rw [← ha]; exact tickFlashes_frame s
  generalize hb : forEach lineNos tickDark a = b
  have fb : b = { a with lines := b.lines } := by
    rw [← hb]
    exact forEach_rel (R := fun s t => t = { s with lines := t.lines }) (fun _ => rfl)
      (fun _ _ _ h1 h2 => by rw [h2, h1]) _ (fun n s => (tickDark_frame n s).1) a
  have kb : ∀ m, 8 ≤ m → b.line m = a.line m := fun m hm => by
    rw [← hb]
    exact forEach_others tickDark State.line (fun n s m h => (tickDark_frame n s).2 m h) _ _ _ (by simp [lineNos]; omega)
  generalize hc : forEach ribbonIds (fun id s => s.setRibbon id (s.ribbon id).tick) b = c
  have fc : c = { b with ribbonA := c.ribbonA, ribbonB := c.ribbonB } := by rw [← hc]; rfl
  generalize hd : forEach tlineNos tickQuiet c = d
  have fd : d = { c with tlines := d.tlines } := by
    rw [← hd]
    exact forEach_rel (R := fun s t => t = { s with tlines := t.tlines }) (fun _ => rfl)
      (fun _ _ _ h1 h2 => by rw [h2, h1]) _ (fun n s => (tickQuiet_frame n s).1) c
  have kd : ∀ m, 4 ≤ m → d.tline m = c.tline m := fun m hm => by
    rw [← hd]
    exact forEach_others tickQuiet State.tline (fun n s m h => (tickQuiet_frame n s).2 m h) _ _ _
      (by simp [tlineNos]; omega)
  generalize he : forEach termNos tickLapse d = e
  have fe : e = { d with terms := e.terms } := by
    rw [← he]
    exact forEach_rel (R := fun s t => t = { s with terms := t.terms }) (fun _ => rfl)
      (fun _ _ _ h1 h2 => by rw [h2, h1]) _ (fun n s => (tickLapse_frame n s).1) d
  have ke : ∀ m, 64 ≤ m → e.term m = d.term m := fun m hm => by
    rw [← he]
    exact forEach_others tickLapse State.term (fun n s m h => (tickLapse_frame n s).2.1 m h) _ _ _
      (by simp [termNos]; omega)
  have re : ∀ m, (e.term m).record = (d.term m).record := by
    rw [← he]
    exact forEach_rel (R := fun s t => ∀ m, (t.term m).record = (s.term m).record) (fun _ _ => rfl)
      (fun _ _ _ h1 h2 m => (h2 m).trans (h1 m)) _ (fun n s => (tickLapse_frame n s).2.2) d
  refine ⟨?_, fun n hn => ?_, fun n hn => ?_, fun n hn => ?_, fun n => ?_⟩
  · unfold State.SecondsFrame; rw [fe, fd, fc, fb, fa]
  · rw [fe, fd, fc]; show b.line n = _
    rw [kb n hn, fa]; rfl
  · rw [fe]; show d.tline n = _
    rw [kd n hn, fc, fb, fa]; rfl
  · rw [ke n hn, fd, fc, fb, fa]; rfl
  · rw [re, fd, fc, fb, fa]; rfl

/-- R51: the windows' ticks come last. -/
theorem tickCounts_eq (s : State) : tickCounts s =
    let e := tickSeconds s
    let held := windowNos.filter (fun w => (e.window w).slot.isSome)
    forEach (freeOrder held.length e.free held) tickReferral (e.setFree (e.free + held.length)) := rfl

/-- R51: what the counts of one tick change, and what they leave alone. -/
theorem tickCounts_frame (s u : State) (hu : tickCounts s = u) :
    let out := (List.range 4).filter s.runsOut
    (u = { s with
        cells := u.cells, queues := u.queues, lines := u.lines, ribbonA := u.ribbonA, ribbonB := u.ribbonB
        tlines := u.tlines, terms := u.terms, windows := u.windows, counters := u.counters, free := u.free
        link := { s.link with notices := u.link.notices } } ∧
      s.onlyCounted u [.rfExpired] ∧
      u.counter .rfExpired =
        (if out = [] then s.counter .rfExpired else min 4294967295 (s.counter .rfExpired + out.length)) ∧
      Noticed (out.map NoticeItem.referral) s u ∧
      ∀ n, (∀ w h, w ∈ out → (s.window w).slot = some h → termNo h.line h.addr ≠ n) →
        (u.term n).record = (s.term n).record) ∧
    (∀ n, 8 ≤ n → u.line n = s.line n) ∧ (∀ n, 4 ≤ n → u.tline n = s.tline n) ∧
      (∀ n, 64 ≤ n → u.term n = { s.term n with record := (u.term n).record }) ∧
      ∀ w, 4 ≤ w → u.window w = s.window w := by
  intro out
  have hq := tickSeconds_counted s
  generalize he : tickSeconds s = e at hq
  generalize hh : windowNos.filter (fun w => (e.window w).slot.isSome) = held
  replace hu : u = forEach (freeOrder held.length e.free held) tickReferral (e.setFree (e.free + held.length)) := by
    rw [← hu, tickCounts_eq, ← hh, ← he]
  have q : SecondsCounted s (e.setFree (e.free + held.length)) := hq.setFree _
  have we : ∀ w, e.window w = s.window w := fun w => by rw [hq.frame]; rfl
  generalize e.setFree (e.free + held.length) = f at hu q
  have ws : ∀ w, f.window w = s.window w := fun w => by rw [q.frame]; rfl
  have ro : f.runsOut = s.runsOut := by funext w; simp only [State.runsOut, ws]
  have pm := freeOrder_perm held.length e.free held le_rfl
  have nd : (freeOrder held.length e.free held).Nodup := by
    rw [pm.nodup_iff, ← hh]; exact List.nodup_range.filter _
  have r := forEach_tickReferral _ nd f
  rw [← hu] at r
  have po : ((freeOrder held.length e.free held).filter f.runsOut).Perm out := by
    refine (pm.filter _).trans ?_
    rw [← hh, List.filter_filter, ro]
    refine .of_eq (List.filter_congr fun w _ => ?_)
    rw [we]
    unfold State.runsOut
    cases (s.window w).slot <;> simp
  have cnt : ∀ c, f.counter c = s.counter c := fun c => by rw [q.frame]; rfl
  have lk : f.link = s.link := by rw [q.frame]
  refine ⟨⟨?_, fun k hk => ?_, ?_, ?_, fun n hn => ?_⟩, fun n hn => ?_, fun n hn => ?_, fun n hn => ?_, fun w hw => ?_⟩
  · exact q.frame.trans_referral r.frame
  · exact (r.only k hk).trans (cnt k)
  · rw [r.counted, cnt, po.length_eq]
    by_cases ho : out = []
    · rw [if_pos ho, if_pos (by rw [ho] at po; exact po.eq_nil)]
    · rw [if_neg ho, if_neg fun h => ho (by rw [h] at po; exact po.symm.eq_nil)]
  · have nt := r.noticed
    refine ⟨fun x hx => nt.listed x ((po.map _).mem_iff.2 hx), by rw [← lk]; exact nt.kept, fun x hx => ?_⟩
    rw [← lk]
    exact (nt.others x hx).imp id fun h => (po.map _).mem_iff.1 h
  · exact (r.records n fun w h hw hs => hn w h (po.mem_iff.1 hw) (by rw [← ws]; exact hs)).trans (q.records n)
  · rw [← q.lines n hn, r.frame]; rfl
  · rw [← q.tlines n hn, r.frame]; rfl
  · rw [r.terms n, q.terms n hn]
  · rw [r.windows w fun h => ?_, ws]
    rw [pm.mem_iff, ← hh, List.mem_filter, windowNos, List.mem_range] at h
    omega

end Sys2Proof.Machine
end

