-- ==== Sys2Proof/Tests/Slice0.lean ====
section
/-! SUPPORT. Tests: ill-formed commands refused by the checks of WellFormed, single steps whose expected values are the
manual's worked sequences, and, for each statement that has hypotheses, a state and operands that meet them, each clause
at a boundary value of its range. -/

namespace Sys2Proof.Tests

open Sys2Proof Sys2Proof.Machine

set_option Elab.async false

/-! ### Ill-formed commands -/

theorem test_record_of_seven_bytes_refused :
    (Instr.layoutRecordRead (.record [1, 0, 40, 2, 10, 0, 0])).wellFormed = false := by decide
theorem test_receipt_of_no_byte_refused : (Instr.receiveFrame []).wellFormed = false := by decide
theorem test_receipt_of_256_bytes_refused :
    (Instr.receiveFrame (List.replicate 256 0)).wellFormed = false := by decide +kernel
theorem test_answer_from_address_79_refused :
    (Instr.frameEnd 0 [{ window := some 63, address := 79, checkHolds := true }]).wellFormed = false := by decide
theorem test_answer_in_window_64_refused :
    (Instr.frameEnd 0 [{ window := some 64, address := 64, checkHolds := true }]).wellFormed = false := by decide
theorem test_message_from_address_16_refused :
    (Instr.terminalAnswer 0 { address := 16, checkHolds := true, ack := true, request := none }).wellFormed = false := by
  decide
/-- A dealer request's command is an answer that carries a request of that kind. -/
theorem test_page_without_its_request_refused :
    (Instr.page 3 { address := 15, checkHolds := true, ack := true, request := none }).wellFormed = false := by decide
theorem test_sync_is_not_a_missing_sync : (Instr.secondSyncMissing 0x16).wellFormed = false := by decide
theorem test_boundary_answer_accepted :
    (Instr.frameEnd 7 [{ window := some 63, address := 78, checkHolds := true }]).wellFormed = true := by decide

/-! ### Small states -/

/-- The state a command leaves. -/
def after (x : Host.Outcome State Fault Refusal) : State :=
  match x with
  | .next s => s
  | .fault _ => State.reset
  | .refused _ => State.reset

/-- A request frame of a kind, tag 7. -/
def req (k : HostKind) (body : List Byte) : LinkFrame := { kind := k.code, tag := 7, body := body }

/-- A state with one request at the head of its queue, ready to be served. -/
def readied (s : State) (k : HostKind) (body : List Byte) : State :=
  { s with
    resetAsserted := false
    loader := { s.loader with result := .loaded }
    link := { Link.cold with requests := [req k body] } }

theorem readied_ready (s : State) (k : HostKind) (body : List Byte) : (readied s k body).ready k (req k body) [] :=
  ⟨rfl, fun h => LoadResult.noConfusion h, rfl, by simp [readied, Link.cold, Config.replyPlaces], rfl, rfl⟩

/-- XRB as 1.11.1 lists it, with LAST and CHANGE cells at 4/12 and 4/13. -/
def xrb : Entry :=
  { Entry.cold with
    status := .listed, symbol := ['X', 'R', 'B'], denom := 8, lot := 100, prevClose := some 2872
    firstPending := true, watchers := 1, cells := [268, 269] }

/-- An OPEN session with XRB listed at index 12, a halted instrument at index 1,023, a stale one at index 13. -/
def floor : State :=
  (((((({ State.reset with
        session := { Session.cold with state := .opened }
        directory := [(['X', 'R', 'B'], 12)] } : State).setEntry 12 xrb).setEntry 1023
          { xrb with status := .halted, symbol := ['K', 'L', 'M'], cells := [], watchers := 0 }).setEntry 13
            { xrb with symbol := ['Q', 'Z', 'T'], cells := [], watchers := 0, dayStamp := 255, last := some 2904 }).setCell
              268 { Cell.cold with binding := some 12, field := .last, width := 6 }).setCell
              269 { Cell.cold with binding := some 12, field := .change, width := 4 })

/-- Terminal 3/15 ACTIVE, its watch list holding XRB. -/
def desk : Terminal := { Terminal.cold with state := .active, watchList := [12] }

/-- A dealer request of a kind, for XRB. -/
def ask (k : DealerKind) : DealerRequest :=
  { kind := some k, page := some 1, symbol := some ['X', 'R', 'B'], position := some 23, slot := some 3
    above := some { enabled := true, value := 2905 }, below := some { enabled := false, value := 0 }
    minSize := some { enabled := true, value := 9999999 } }

/-- Terminal line 3 in some state, with terminal 3/15 as given. -/
def lined (t : Terminal) (l : TermLine) : State := (floor.setTerm 63 t).setTLine 3 l

/-- A slot for address 15. -/
def slot15 (tx : Transmission) : TermSlot := { address := 15, tx := tx, limit := 50, ignored := false }

/-- Terminal line 3 with a slot for address 15 in progress. -/
def slotted (t : Terminal) (tx : Transmission) : State := lined t { TermLine.cold with slot := some (slot15 tx) }

/-- A message from address 15 that passes its check. -/
def said (ack : Bool) (q : Option DealerRequest) : TerminalMessage :=
  { address := 15, checkHolds := true, ack := ack, request := q }

theorem slotted_answersSlot (t : Terminal) (tx : Transmission) (ack : Bool) (q : Option DealerRequest) :
    (slotted t tx).answersSlot 3 (slot15 tx) (said ack q) := ⟨rfl, rfl, rfl, by show 15 < 16; decide, rfl, rfl⟩

theorem slotted_handsOver (t : Terminal) (tx : Transmission) (ack : Bool) (q : DealerRequest) (hr : t.readySent = true) : (slotted t tx).handsOver 3 (slot15 tx) (said ack (some q)) q :=
  ⟨slotted_answersSlot t tx ack _, rfl, by simpa [slotted, lined, slot15, termNo] using hr⟩

/-- A window that restricts every kind for every index. -/
def wide : Window := { Window.cold with enabled := true, k := 10, kinds := 7 }

/-- The facts of a later XRB print. -/
def xrbPrint (price size : Nat) : PrintBody :=
  .trade { symbol := ['X', 'R', 'B'], index := 12, price := price, size := size, lot := 100, denom := 8, first := false }

/-! ### Single steps with the manual's values -/

/-- 11.1, R192: a TRADE of 500 shares of index 12 at 2,904, written out byte by byte: length 8, kind 0x22, tag 5, sum
0x0193. -/
theorem test_wire_of_a_trade :
    LinkFrame.wire { kind := 0x22, tag := 5, body := [0, 12, 0, 11, 0x58, 0, 1, 0xF4] } =
      [0x16, 0x16, 8, 0x22, 5, 0, 12, 0, 11, 0x58, 0, 1, 0xF4, 1, 0x93] := by decide +kernel

/-- 1.11.1: the LAST cell of 45 3/8 in six positions. -/
theorem test_board_price_1_11_1 :
    (boardPrice 6 2904).chars = [.plain ' ', .plain ' ', .plain ' ', .plain '4', .plain '5', .glyph 6] := by
  decide +kernel

/-- 1.11.1: the CHANGE cell of +1/2 in four positions. -/
theorem test_board_change_1_11_1 :
    (boardChange 4 (some 32)).chars = [.plain '+', .plain ' ', .plain ' ', .glyph 8] := by decide +kernel

/-- 1.11.2: 803 snaps to 802 on the grid of D = 32 and is coarsened to 12 1/2 in five positions. -/
theorem test_coarse_price_1_11_2 :
    checkPrice 32 803 = some (802, true) ∧
      boardPrice 5 802 = { chars := [.plain ' ', .plain ' ', .plain '1', .plain '2', .glyph 8], coarsened := 1,
                           overflow := 0 } := by decide +kernel

/-- TABLE 1-4: 48,200 in three positions, 1,234,567 in four, 99,999,999 in five and in four. -/
theorem test_volume_table_1_4 :
    (boardVolume 3 48200).chars = boardChars ['4', '8', 'K'] ∧
      (boardVolume 4 1234567).chars = boardChars ['1', '.', '2', 'M'] ∧
      (boardVolume 5 99999999).chars = boardChars ['9', '9', '.', '9', 'M'] ∧
      boardVolume 4 99999999 = { chars := boardDashes 4, coarsened := 0, overflow := 1 } := by decide +kernel

/-- 1.11.3: the second XRB print of a trimmed ribbon: 2,000 shares, the same instrument before it. -/
theorem test_trim_print_1_11_3 :
    printText .trim 10 (some 12) false (xrbPrint 2920 2000) = ['2', '0', '@', '4', '5', ' ', '5', '/', '8', ' '] := by
  decide +kernel

/-- 1.11.3: KLM's 15 shares of lot size 10 lose their volume part; 16 characters in full. -/
theorem test_trim_print_klm_1_11_3 :
    let p : PrintBody := .trade { symbol := ['K', 'L', 'M'], index := 300, price := 464, size := 15, lot := 10,
                                  denom := 8, first := false }
    printText .trim 10 (some 12) false p = ['K', 'L', 'M', ' ', '7', ' ', '1', '/', '4', ' ', ' '] ∧
      fullLength p = 16 := by decide +kernel

/-- 1.11.1: the DIGITS print with the anchor bit set. -/
theorem test_digits_print_1_11_1 :
    printText .digits 10 none true (xrbPrint 2904 500) = ['X', 'R', 'B', ' ', '5', ' ', '3', '/', '8', ' ', ' '] := by
  decide +kernel

/-- R25: the order runs ABC, ABC.A, ABCD, and XR, XR.B, XRB, whatever the order of listing. -/
theorem test_directory_order_R25 :
    ((["XRB", "ABCD", "XR", "ABC", "XR.B", "ABC.A"].map String.toList).foldl (fun d s => insertSymbol s 0 d) []).map
      (fun p => String.ofList p.1) = ["ABC", "ABC.A", "ABCD", "XR", "XR.B", "XRB"] := by decide +kernel

/-- R20: a HALTED row with an absent bid and an ask of 45 3/8, at its 63 positions. -/
theorem test_row_R20 :
    let e : Entry := { xrb with status := .halted, last := some 2904, ask := some { price := 2904, size := 1 }
                                tick := .up, dayVolume := 500 }
    String.ofList (rowText e) = "XRB           HALT        +1/2                45 3/8      500 +" ∧
      (rowText e).length = 63 := by decide +kernel

/-- 1.11.6: measured lag across midnight. -/
theorem test_measured_lag_1_11_6 : measuredLag 20 86390 = 30 ∧ measuredLag 110 86390 = 120 := by decide

/-- TRADE, 1.11.1: 500 shares at 45 3/8: last, tick, counters, and the print on ribbon A of 15 characters. -/
theorem test_trade_1_11_1 :
    let s := after (exec .trade (readied floor .trade [0, 12, 0, 11, 0x58, 0, 1, 0xF4]))
    (s.entry 12).last = some 2904 ∧ (s.entry 12).tick = .up ∧ (s.entry 12).dayVolume = 500 ∧
      s.counter .inOffgrid = 0 ∧ s.counter .inTrades = 1 ∧
      s.ribbonA.queue.map PrintRecord.fullLength = [15] := by decide +kernel

/-- TRADE, R198: the reply to a refused TRADE of a halted instrument, HALTED being reason 7. -/
theorem test_trade_of_halted_refused :
    (after (exec .trade (readied floor .trade [3, 0xFF, 0, 11, 0x58, 0, 1, 0xF4]))).link.replies =
      [{ kind := 0xA1, tag := 7, body := [0x22, 7] }] := by decide +kernel

/-- SECOND_PULSE, 3.6.4: 28 February of year 88 becomes 29 February, weekday 4 becomes 5. -/
theorem test_tick_3_6_4_leap :
    let c := (after (exec .secondPulse { State.reset with
      clock := { Clock.cold with second := 86399, weekday := 4, day := 28, month := 2, year := 88 } })).clock
    (c.second, c.weekday, c.day, c.month, c.year) = (0, 5, 29, 2, 88) := by decide +kernel

/-- INTERNAL_SECOND, 3.6.4: 31 December of year 99 becomes 1 January of year 0. -/
theorem test_tick_3_6_4_year :
    let c := (after (exec .internalSecond { State.reset with
      clock := { Clock.cold with second := 86399, weekday := 5, day := 31, month := 12, year := 99 } })).clock
    (c.second, c.weekday, c.day, c.month, c.year) = (0, 6, 1, 1, 0) := by decide +kernel

/-- REFERENCE_WATCH_EXPIRY, R48: three ticks, and the indication LOST. -/
theorem test_watch_expiry_takes_three_ticks :
    let c := (after (exec .referenceWatchExpiry { State.reset with
      clock := { Clock.cold with second := 100, present := true, watchExpired := false } })).clock
    (c.second, c.present, c.watchExpired) = (103, false, true) := by decide +kernel

/-- LAYOUT_RECORD_READ, 11.8.2, record 1: cell 0/0 of width 7 shows SYMBOL of index 12. -/
theorem test_layout_record_1_11_8_2 :
    let s := after (exec (.layoutRecordRead (.record [2, 0, 0, 7, 0, 0, 0x0C, 0x15]))
      { State.reset with loader := { Loader.cold with pos := 1, lineCount := 1, lines := [0] } })
    (s.cell 0).binding = some 12 ∧ (s.cell 0).width = 7 ∧ (s.cell 0).field = .symbol ∧ (s.entry 12).cells = [0] ∧
      s.loader.pos = 2 ∧ s.loader.slotCount = 1 := by decide +kernel

/-- LAYOUT_RECORD_READ, 11.8.2, record 4: W 11 ends the load BAD, CONTENT, record 4, and line 0 becomes LIT. -/
theorem test_layout_record_4_11_8_2 :
    let s := after (exec (.layoutRecordRead (.record [2, 1, 5, 0x0B, 2, 1, 0x2C, 0x42]))
      { State.reset with loader := { Loader.cold with pos := 4, lineCount := 2, slotCount := 2, lines := [0, 1] } })
    (s.loader.result, s.loader.cause, s.loader.failing) = (.bad, some .content, some 4) ∧
      (s.line 0).state = .lit ∧ (s.line 2).state = .off ∧ s.link.notices = [.layout] := by decide +kernel

/-- FLASH_EXPIRY and BOARD_SET leave what 5.9.1's last tick leaves: a count of 0 and the cell queued. -/
theorem test_flash_expiry_5_9_1 :
    let s := after (exec (.flashExpiry 4 12) (floor.setCell 268 { floor.cell 268 with flashCount := 1 }))
    (s.cell 268).flashCount = 0 ∧ s.refreshQueue 4 = [268] := by decide +kernel

/-- BIND, 5.9.3: a fifth cell is refused NOROOM, reason 9. -/
theorem test_bind_5_9_3 :
    (after (exec .bind (readied (floor.setEntry 517 { xrb with cells := [201, 202, 360, 450] }) .bind
      [2, 33, 2, 5, 3, 6]))).link.replies = [{ kind := 0xA1, tag := 7, body := [0x40, 9] }] := by decide +kernel

/-- One evaluation of 7.9.1: TRIM rises to DIGITS at a projected lag of 95. -/
theorem test_mode_rise_7_9_1 :
    let r := { Ribbon.cold with
      state := .running, mode := .trim, dwell := 12, anchors := [12], fifo := List.replicate 20 ' '
      queue := List.replicate 80 { body := .banner .marketOpen, arrival := 0, fullLength := 14 } }
    let s := evalMode .b { State.reset with ribbonB := r }
    s.ribbonB.mode = .digits ∧ s.ribbonB.dwell = 0 ∧ s.ribbonB.anchors = [] ∧ s.counter .rbModeRises = 1 ∧
      s.link.notices = [.ribbon .b] := by decide +kernel

/-- CHARACTER_PERIOD, 7.9.4: the last character of the FIFO in AFTER stops the ribbon. -/
theorem test_character_period_7_9_4 :
    let s := after (exec (.characterPeriod .a) { State.reset with
      session := { Session.cold with state := .after }
      ribbonA := { Ribbon.cold with state := .running, fifo := ['D'] } })
    s.ribbonA.state = .stopped ∧ s.ribbonA.output = some 'D' ∧ s.ribbonA.fifo = [] := by decide +kernel

/-- WATCH_ADD, 9.5.2: at position 5 of a list of 12, rows 5 to 11 of page 0 are marked. -/
theorem test_watch_add_9_5_2 :
    let t := (after (exec (.watchAdd 3 (said true (some { ask .watchAdd with position := some 5 })))
      (slotted { desk with exempt := true, watchList := List.range' 100 12 } (.poll true)))).term 63
    t.rows = [5, 6, 7, 8, 9, 10, 11] ∧ t.watchList.length = 13 ∧ t.watchList[5]? = some 12 := by decide +kernel

/-- WATCH_DROP, 9.5.2: a drop at position 2 of a list of 13 marks every row of page 1. -/
theorem test_watch_drop_9_5_2 :
    let t := (after (exec (.watchDrop 3 (said true (some (ask .watchDrop)))) (slotted { desk with
      exempt := true, page := 1, watchList := [100, 101, 12, 103, 104, 105, 106, 107, 108, 109, 110, 111, 112] }
      (.poll true)))).term 63
    t.rows = List.range 12 ∧ t.watchList.length = 12 := by decide +kernel

/-- ALERT_SET, 10.5.2: the above price 1,601 snaps to 1,600 on the grid of D = 32. -/
theorem test_alert_conditions_10_5_2 :
    checkConditions 32 { ask .alertSet with above := some { enabled := true, value := 1601 } } =
      some { above := some 1600, below := none, minSize := some 9999999 } := by decide +kernel

/-- TERM_RETIRE, 10.5.2: the retirement of a held terminal empties the slot CANCELLED. -/
theorem test_retire_10_5_2 :
    let held : HeldSlot := { line := 3, addr := 11, kind := .alert, index := 517, start := 52000, limit := 60,
                             elapsed := 0 }
    let s := after (exec .termRetire (readied ((floor.setWindow 0 { wide with slot := some held }).setTerm 59
      { desk with record := { state := .referred, request := none, result := none } }) .termRetire [3, 11]))
    (s.window 0).slot = none ∧ (s.window 0).outcome = .cancelled ∧ (s.term 59).state = .vacant ∧
      s.link.notices = [.referral 0] := by decide +kernel

/-! ### Witnesses: the queue, RESET, invariants -/

theorem witness_StepTakesTheFrontCommand :
    State.reset.pending = [] ∧
      ({ State.reset with pending := [.attention 0, .restart] } : State).pending = .attention 0 :: [.restart] :=
  ⟨rfl, rfl⟩

/-- A job in flight; an IDLE unit found with a requester requesting, with none, with one more, and with two. -/
theorem witness_ArbiterLeavesTheRest :
    ({ State.reset with fu := { FormatUnit.cold with job := some (.board 7 63 [] true) } } : State).fu.job ≠ none ∧
      (let s := (floor.setLine 4 { BoardLine.cold with state := .lit }).setQueue 4 [268]
       s.fu.job = none ∧ requests 4 s = true ∧ (∀ q, q < 14 → requests q s = true → q = 4) ∧ urgent 4 s = false ∧
         (let u := (s.setLine 0 { BoardLine.cold with state := .lit }).setQueue 0 [0]
          requests 0 u = true ∧ requests 4 u = true)) ∧
      (floor.fu.job = none ∧ ∀ p, p < 14 → requests p floor = false) := by decide +kernel

theorem witness_ResetPinGivesTheColdState :
    ({ State.reset with resetAsserted := true } : State).resetAsserted = true ∧ State.reset.resetAsserted = false ∧
      (Instr.frameSent ≠ .resetAssert ∧ Instr.frameSent ≠ .resetRelease) := by decide

/-- Full queues, a full notice pair, 512 records, a counter at its limit. -/
def brim : State :=
  { State.reset with
    pending := [.firstSyncByte]
    link := { Link.cold with
      requests := List.replicate 16 (req .trade []), replies := List.replicate 4 (req .trade []), notices := [.layout] }
    ribbonA := { Ribbon.cold with queue := List.replicate 512 { body := .banner .marketOpen, arrival := 0, fullLength := 13 } }
    counters := [(0, 4294967295)], queues := [(7, [511, 448])], terms := [(63, { Terminal.cold with rows := [0, 11] })]
    lines := [(7, { BoardLine.cold with enabled := [0, 63] })]
    directory := [(['A', 'B', 'C'], 0), (['A', 'B', 'C', '.', 'A'], 1023), (['A', 'B', 'C', 'D'], 1)] }

/-- R25: ABC is below ABC.A, and that below ABCD. -/
theorem brim_directoryRising : brim.directoryRising := by
  simp only [State.directoryRising, ← symbolLt_iff]
  decide

/-- Its line 7 holds cells 448 and 511 in its queue and enables slots 0 and 63; its terminal 63 has rows 0 and 11. -/
theorem witness_BoundsKept :
    brim.linkBounded ∧ brim.noticesOnce ∧ brim.queuesBounded ∧ brim.countersBounded ∧ brim.refreshOnce ∧
      brim.enabledRising ∧ brim.rowsRising ∧ brim.directoryRising ∧ ∃ t, step brim = .next t := by
  refine ⟨⟨by decide, by decide, rfl⟩, List.nodup_singleton _, ⟨by decide +kernel, by decide⟩, ?_, fun n => ?_, fun n => ?_,
    fun n => ?_, brim_directoryRising, _, rfl⟩
  · intro c
    cases c <;> decide
  · by_cases h : n = 7
    · subst h; decide
    · rw [show brim.refreshQueue n = Table.get [] [(7, [511, 448])] n from rfl]
      simp [Table.get, h]
  · by_cases h : n = 7
    · subst h; decide
    · rw [show brim.line n = Table.get BoardLine.cold [(7, { BoardLine.cold with enabled := [0, 63] })] n from rfl]
      simp only [Table.get, h, if_false]
      decide
  · by_cases h : n = 63
    · subst h; decide
    · rw [show brim.term n = Table.get Terminal.cold [(63, { Terminal.cold with rows := [0, 11] })] n from rfl]
      simp only [Table.get, h, if_false]
      decide

/-- A record not written reads as the default. -/
theorem get_of_not_key {α : Type} (d : α) (t : Table α) (i : Nat) (h : i ∉ Table.keys t) : Table.get d t i = d := by
  induction t with
  | nil => rfl
  | cons e l ih =>
    simp only [Table.keys, List.map_cons, List.mem_cons, not_or] at h
    simp only [Table.get, if_neg h.1]
    exact ih h.2

/-- A FIFO of 22 characters and a job whose texts fill it to 64, a queued print of the longest symbol, price and size, a watch
list of 24 instruments, an instrument with four cells. -/
def crowded : State :=
  { State.reset with
    pending := [.firstSyncByte]
    ribbonA := { Ribbon.cold with
      fifo := List.replicate 22 'A'
      queue := [makeRecord (.trade { symbol := List.replicate 7 'A', index := 12, price := 639999, size := 9999999, lot := 100
                                     denom := 64, first := true }) 0] }
    fu := { FormatUnit.cold with
      job := some (.ribbon .a (some 1439) (List.replicate 11 'A') (List.replicate 31 'A') none none false) }
    terms := [(63, { desk with watchList := List.range 24 })]
    entries := [(12, { xrb with symbol := List.replicate 7 'A', cells := [0, 63, 448, 511] })]
    cells := [0, 63, 448, 511].map (fun c => (c, { Cell.cold with binding := some 12 })) }

theorem witness_BoundsKept_lists :
    crowded.fifosBounded ∧ crowded.watchListsBounded ∧ crowded.cellListsBounded ∧ ∃ t, step crowded = .next t := by
  have other : ∀ i, i ≠ 12 → crowded.entry i = Entry.cold := fun i h =>
    get_of_not_key _ _ _ (by simpa [crowded, Table.keys] using h)
  refine ⟨⟨fun id => by cases id <;> decide, ?_, fun id => ?_, fun i => ?_⟩, fun n => ?_, fun i => ?_, _, rfl⟩
  · intro id late lt t an pr h
    cases h
    decide
  · cases id
    · intro p hp
      obtain rfl : p = _ := by simpa [crowded, State.ribbon] using hp
      exact ⟨by decide, by decide, by decide⟩
    · intro p hp; cases hp
  · by_cases h : i = 12
    · subst h; decide
    · rw [other i h]; decide
  · by_cases h : n = 63
    · subst h; decide
    · rw [show crowded.term n = Terminal.cold from get_of_not_key _ _ _ (by simpa [crowded, Table.keys] using h)]
      decide
  · by_cases h : i = 12
    · subst h; decide
    · rw [other i h]; exact ⟨by decide, by decide, by simp [Entry.cold]⟩

theorem floor_tablesWf : floor.tablesWf := by
  simp only [State.tablesWf, ← and_assoc]
  exact ⟨by decide +kernel, fun _ => rfl⟩

theorem witness_TablesKeptCanonical :
    ({ floor with pending := [.firstSyncByte] } : State).tablesWf ∧
      ∃ t, step { floor with pending := [.firstSyncByte] } = .next t := ⟨floor_tablesWf, _, rfl⟩

/-! ### Witnesses: the host link -/

/-- The link with so many requests and replies queued. -/
def queued (requests replies : Nat) : State :=
  { State.reset with link := { Link.cold with
      requests := List.replicate requests (req .trade []), replies := List.replicate replies (req .trade []) } }

theorem witness_ReceivedFrameJoinsTheQueue :
    (queued 15 4).resetAsserted = false ∧ (queued 15 4).link.asm = .hunt ∧
      (req .hold (List.replicate 248 0)).body.length ≤ 248 ∧ (queued 15 4).link.requests.length < 16 := by
  decide +kernel

theorem witness_FullQueueRefusesOrDiscards :
    16 ≤ (queued 16 3).link.requests.length ∧ (queued 16 3).link.asm = .hunt ∧ (queued 16 3).link.replies.length < 4 ∧
      16 ≤ (queued 16 4).link.requests.length ∧ ¬(queued 16 4).link.replies.length < 4 := by decide +kernel

/-- An assembler state reached in a frame. -/
def assembling (a : Asm) : State := { State.reset with link := { Link.cold with asm := a } }

theorem witness_AssemblerEvents :
    State.reset.resetAsserted = false ∧ State.reset.link.asm = .hunt ∧ 248 < (249 : Byte).toNat ∧
      (let f := req .restart []
       f.body.length ≤ 248 ∧
         (0 : Byte).toNat * 256 + (0 : Byte).toNat ≠
           (f.body.length + f.kind.toNat + f.tag.toNat + (f.body.map BitVec.toNat).sum) % 65536) ∧
      ((assembling .syncSeen).link.asm = .syncSeen ∧ (0x15 : Byte) ≠ 0x16) ∧
      (assembling (.checkLow 0 0 0 [] 0)).link.asm ≠ .hunt := by decide

/-- A link that sends, with replies and notices queued. -/
def sending (tx : Option LinkFrame) (replies : List LinkFrame) (notices : List NoticeItem) : State :=
  { State.reset with link := { Link.cold with tx := tx, replies := replies, notices := notices } }

theorem witness_TransmitterChooses :
    let f : LinkFrame := { kind := 0xB7, tag := 255, body := [] }
    (sending none [f] []).link.replies = f :: [] ∧ (sending none [f] []).link.tx = none ∧
      (sending (some f) [f] []).link.tx = some f ∧ (sending (some f) [] []).link.replies = [] ∧
      (sending (some f) [] []).link.notices = [] ∧ (sending (some f) [] [.layout]).link.notices = .layout :: [] ∧
      (sending none [] [.boardModule 7 63]).link.notices = .boardModule 7 63 :: [] ∧
      (sending none [] [.terminal 3 15]).link.notices = .terminal 3 15 :: [] ∧
      (sending (some f) [] [.boardModule 7 63]).link.notices = .boardModule 7 63 :: [] ∧
      (let s := sending none [f] [.layout]
       (finish State.reset s).link.noticeMayLead = true ∧ s.link.noticeMayLead = false) := by decide +kernel

/-- The kind byte 0x27 is of no request kind. -/
def odd : State :=
  { readied floor .list [] with link := { Link.cold with requests := [{ kind := 0x27, tag := 7, body := [] }] } }

theorem witness_WrongShapeIsMalformed :
    ((readied floor .trade (List.replicate 7 0)).ready .trade (req .trade (List.replicate 7 0)) [] ∧
        HostKind.bodyLength .trade = some 8 ∧ (req .trade (List.replicate 7 0)).body.length ≠ 8) ∧
      ((readied floor .hold [0, 0, 0, 0]).ready .hold (req .hold [0, 0, 0, 0]) [] ∧
        (req .hold [0, 0, 0, 0]).body.length < 5) ∧
      ((readied floor .hold [0, 0, 0, 0, 1]).ready .hold (req .hold [0, 0, 0, 0, 1]) [] ∧
        (req .hold [0, 0, 0, 0, 1]).body.length ≠ 5 + ((req .hold [0, 0, 0, 0, 1]).body.getD 4 0).toNat) ∧
      (odd.loader.result ≠ .inProgress ∧ odd.link.inService = none ∧ odd.link.replies.length < 4 ∧
        odd.link.requests = [{ kind := 0x27, tag := 7, body := [] }] ∧ ∀ k : HostKind, (0x27 : Byte) ≠ k.code) := by
  refine ⟨⟨readied_ready _ _ _, rfl, by decide⟩, ⟨readied_ready _ _ _, by decide⟩, ⟨readied_ready _ _ _, by decide⟩,
    fun h => LoadResult.noConfusion h, rfl, by decide, rfl, ?_⟩
  intro k
  cases k <;> decide

/-- A TRADE whose price or size is absent, a QUOTE whose bid has a price and no size. -/
theorem witness_WrongShapeIsMalformed_absent :
    let absent : List Byte := [0xFF, 0xFF, 0xFF]
    (let b : List Byte := [0, 12] ++ absent ++ [0, 1, 0xF4]
     (readied floor .trade b).ready .trade (req .trade b) []) ∧
      (let b : List Byte := [0, 12] ++ [0, 11, 0x58] ++ absent
       (readied floor .trade b).ready .trade (req .trade b) []) ∧
      (let b : List Byte := [0, 12] ++ [0, 11, 0x58] ++ absent ++ absent ++ absent
       (readied floor .quote b).ready .quote (req .quote b) [] ∧ ¬([0, 11, 0x58] = absent ↔ absent = absent)) :=
  ⟨readied_ready _ _ _, readied_ready _ _ _, readied_ready _ _ _, by decide⟩

/-- Three replies queued, the most with which a request is served. -/
theorem witness_EveryServiceGivesOneReply :
    ({ readied floor .askCounters [] with link := { (readied floor .askCounters []).link with
        replies := List.replicate 3 (req .trade []) } } : State).ready .askCounters (req .askCounters []) [] :=
  ⟨rfl, fun h => LoadResult.noConfusion h, rfl, by decide, rfl, rfl⟩

/-- A load in progress, four replies queued, no request, and a head request of another kind. -/
theorem witness_EveryServiceGivesOneReply_waits :
    State.reset.resetAsserted = false ∧ State.reset.loader.result = .inProgress ∧ State.reset.link.requests = [] ∧
      4 ≤ (queued 1 4).link.replies.length ∧ (readied floor .trade []).link.requests = [req .trade []] ∧
      (readied floor .trade []).loader.result ≠ .inProgress ∧ (req .trade []).kind ≠ HostKind.code .quote ∧
      (req .trade []).kind = HostKind.code .trade := by decide +kernel

/-! ### Witnesses: feed requests -/

theorem witness_PricesAndSizesAreChecked :
    639999 < 640000 ∧ 7 < 64 / 8 ∧ 0 < 64 / 64 ∧ (64 / 8 ≤ 8 ∧ 8 ≤ 639999) ∧ (64 / 64 ≤ 639999 ∧ 639999 ≤ 639999) ∧
      (1 ≤ 1 ∧ 9999999 ≤ 9999999) ∧ 9999999 < 10000000 := by decide

/-- The body of a TRADE of 500 shares at 2,904. -/
def tradeOf (hi lo : Byte) : List Byte := [hi, lo, 0, 11, 0x58, 0, 1, 0xF4]

theorem witness_FeedChecksInOrder_trade :
    ((readied floor .trade (tradeOf 4 0)).ready .trade (req .trade (tradeOf 4 0)) [] ∧
        (readTrade (tradeOf 4 0)).map TradeBody.index = some 1024) ∧
      (readTrade (tradeOf 0 0)).map TradeBody.index = some 0 ∧ (floor.entry 0).status = .free ∧
      (readTrade (tradeOf 3 0xFF)).map TradeBody.index = some 1023 ∧ (floor.entry 1023).status = .halted ∧
      (floor.entry 12).status = .listed ∧ floor.session.state = .opened ∧
      ({ floor with session := Session.cold } : State).session.state ≠ .opened ∧
      checkPrice (floor.entry 12).denom 640000 = none ∧ checkSize 0 = none :=
  ⟨⟨readied_ready _ _ _, by decide⟩, by decide, by decide +kernel, by decide, by decide +kernel, by decide +kernel, rfl,
    by decide, by decide, by decide⟩

/-- A slot that holds a request naming index 12. -/
def heldQuote : HeldSlot :=
  { line := 3, addr := 15, kind := .quote, index := 12, start := 0, limit := 30, elapsed := 0 }

theorem witness_FeedChecksInOrder_others :
    (readied floor .delist [4, 0]).ready .delist (req .delist [4, 0]) [] ∧ readIndex [4, 0] = some 1024 ∧
      readIndex [3, 0xFF] = some 1023 ∧ (floor.entry 0).status = .free ∧ (floor.entry 12).status ≠ .free ∧
      (∃ w h, w < 4 ∧ ((floor.setWindow 3 { wide with slot := some heldQuote }).window w).slot = some h ∧ h.index = 12) ∧
      (floor.entry 1023).status ≠ .listed ∧ (floor.entry 12).status ≠ .halted :=
  ⟨readied_ready _ _ _, by decide, by decide, by decide +kernel, by decide +kernel,
    ⟨3, heldQuote, by decide, by decide +kernel, rfl⟩, by decide +kernel, by decide +kernel⟩

theorem isSymbol_xrb : isSymbol ['X', 'R', 'B'] :=
  ⟨['X', 'R', 'B'], [], rfl, by decide, by decide, by
    intro c h
    simp only [List.mem_cons, List.not_mem_nil, or_false] at h
    rcases h with rfl | rfl | rfl <;> exact ⟨by decide, by decide⟩, .inl rfl⟩

/-- LIST of XRB: at index 1,024, with a lot of 11, at an index in use, and at a free index under a symbol listed; QUOTE and
CLOSE-SET beyond the last index, of a free entry, and with a price of 640,000. -/
theorem witness_FeedChecksInOrder_list_quote_close :
    (let body (i1 i0 lot : Byte) : List Byte := [i1, i0, 0x58, 0x52, 0x42, 0x20, 0x20, 0x20, 0x20, 8, lot, 0]
     (readied floor .list (body 4 0 100)).ready .list (req .list (body 4 0 100)) [] ∧
       (readList (body 4 0 100)).map (fun b => (b.index, b.symbol, b.denom, b.lot, b.cls)) =
         some (1024, ['X', 'R', 'B'], 8, 100, 0) ∧
       (readList (body 0 14 11)).map ListBody.lot = some 11 ∧ ¬(11 = 10 ∨ 11 = 100) ∧
       (readList (body 0 12 100)).map ListBody.index = some 12 ∧ (floor.entry 12).status ≠ .free ∧
       (readList (body 0 14 100)).map ListBody.index = some 14 ∧ (floor.entry 14).status = .free ∧
       ∃ i, (['X', 'R', 'B'], i) ∈ floor.directory) ∧
      (let body : List Byte := [0, 12, 0x09, 0xC4, 0x00, 0, 0, 1, 0xFF, 0xFF, 0xFF, 0xFF, 0xFF, 0xFF]
       (readied floor .quote body).ready .quote (req .quote body) [] ∧
         (readQuote body).map (fun b => (b.index, b.bid)) = some (12, some { price := 640000, size := 1 }) ∧
         checkPrice (floor.entry 12).denom 640000 = none) ∧
      (readied floor .closeSet [0, 12, 0x09, 0xC4, 0x00]).ready .closeSet (req .closeSet [0, 12, 0x09, 0xC4, 0x00]) [] ∧
      readCloseSet [0, 12, 0x09, 0xC4, 0x00] = some (12, some 640000) ∧
      readCloseSet [4, 0, 0xFF, 0xFF, 0xFF] = some (1024, none) :=
  ⟨⟨readied_ready _ _ _, by decide +kernel, by decide +kernel, by decide, by decide +kernel, by decide +kernel,
      by decide +kernel, by decide +kernel, 12, by decide +kernel⟩,
    ⟨readied_ready _ _ _, by decide +kernel, by decide⟩, readied_ready _ _ _, by decide, by decide⟩

/-- The body of a LIST at index 1,023. -/
def listBody : List Byte := [3, 0xFF, 0x41, 0x42, 0x43, 0x44, 0x45, 0x2E, 0x42, 64, 10, 7]

theorem witness_ListMakesAnEntry :
    (readied State.reset .list listBody).ready .list (req .list listBody) [] ∧
      (readList listBody).map (fun b => (b.index, b.inRange)) = some (1023, true) ∧
      (State.reset.entry 1023).status = .free ∧ lookup ['A', 'B', 'C', 'D', 'E', '.', 'B'] State.reset.directory = none :=
  ⟨readied_ready _ _ _, by decide +kernel, by decide, by decide⟩

/-- A new symbol between two members of a directory in order. -/
theorem witness_ListMakesAnEntry_directory :
    brim.directoryRising ∧ lookup ['A', 'B', 'C', '.', 'B'] brim.directory = none := ⟨brim_directoryRising, by decide⟩

/-- Terminal 3/15 shows XRB in row 0 and has an alert on it. -/
theorem witness_DelistCascade :
    (readied floor .delist [0, 12]).ready .delist (req .delist [0, 12]) [] ∧ readIndex [0, 12] = some 12 ∧
      (floor.entry 12).status ≠ .free ∧ (∀ w h, w < 4 → (floor.window w).slot = some h → h.index ≠ 12) ∧
      (desk.watchList[0]? = some 12 ∧ 0 ≤ 12 * desk.page + 0 ∧ 12 * desk.page + 0 < desk.watchList.length) ∧
      ((desk.setAlert 3 { Alert.cold with state := .armed, instrument := some 12 }).alert 3).instrument = some 12 ∧
      12 ∉ Terminal.cold.watchList :=
  ⟨readied_ready _ _ _, by decide, by decide +kernel, fun _ _ _ h => Option.noConfusion rfl (heq_of_eq h), by decide,
    by decide +kernel, by decide⟩

/-- Both for the entry an accepted TRADE leaves and for its fan-out; index 13 is a stale entry. -/
theorem witness_TradeUpdatesTheEntry :
    (readied floor .trade (tradeOf 0 12)).ready .trade (req .trade (tradeOf 0 12)) [] ∧
      readTrade (tradeOf 0 12) = some { index := 12, price := 2904, size := 500 } ∧
      (floor.entry 12).status = .listed ∧ (floor.entry 13).status = .listed ∧
      (floor.entry 13).stale floor.dayNumber = true ∧ floor.session.state = .opened ∧
      checkPrice (floor.entry 12).denom 2904 = some (2904, false) ∧ checkSize 500 = some (500, false) :=
  ⟨readied_ready _ _ _, by decide, by decide +kernel, by decide +kernel, by decide +kernel, rfl, by decide +kernel,
    by decide⟩

theorem witness_TradeFansOut :
    floor.ribbonA.state ≠ .off ∧ floor.ribbonA.mask.getLsbD (floor.current 12).cls = true ∧
      floor.ribbonA.queue.length < 512 ∧
      ({ Ribbon.cold with mask := 0xFE } : Ribbon).mask.getLsbD (floor.current 12).cls = false ∧
      (floor.current 12).watchers ≠ 0 ∧ ((floor.setTerm 63 desk).term 63).state ≠ .vacant ∧
      ((floor.setTerm 63 desk).term 63).watchList.idxOf? 12 = some 0 ∧
      0 / 12 = ((floor.setTerm 63 desk).term 63).page := by decide +kernel

/-- An ARMED alert on XRB whose conditions a trade of 500 shares at 2,904 meets at their edges, and one that it does not. -/
theorem witness_TradeFansOut_alerts :
    let a : Alert := { Alert.cold with
      state := .armed, instrument := some 12, conditions := { above := some 2904, below := some 2904, minSize := some 500 } }
    (desk.setAlert 3 a).alert 3 = a ∧ a.conditions.met 2904 500 ∧
      ¬({ a.conditions with above := some 2905 } : Conditions).met 2904 500 := by
  simp only [← Conditions.hold_iff]
  decide +kernel

/-- A body of a QUOTE of index 1,023: a bid of 9,999,999 shares at 639,999, no ask. -/
def quoteBody : List Byte := [3, 0xFF, 0x09, 0xC3, 0xFF, 0x98, 0x96, 0x7F, 0xFF, 0xFF, 0xFF, 0xFF, 0xFF, 0xFF]

theorem witness_QuoteAndCloseSet :
    (readied floor .quote quoteBody).ready .quote (req .quote quoteBody) [] ∧
      (readQuote quoteBody).map QuoteBody.ask = some none ∧ (floor.entry 1023).status ≠ .free ∧
      (checkSide (floor.entry 1023).denom (some { price := 639999, size := 9999999 })).isSome = true ∧
      (checkSide (floor.entry 1023).denom none).isSome = true ∧
      ((floor.entry 1023).stale floor.dayNumber = false ∧ (floor.entry 13).stale floor.dayNumber = true ∧
        (floor.entry 13).status ≠ .free) ∧
      (readied floor .closeSet [3, 0xFF, 0xFF, 0xFF, 0xFF]).ready .closeSet
        (req .closeSet [3, 0xFF, 0xFF, 0xFF, 0xFF]) [] ∧
      readCloseSet [3, 0xFF, 0xFF, 0xFF, 0xFF] = some (1023, none) ∧
      checkClose (floor.entry 1023).denom none = some (none, false) :=
  ⟨readied_ready _ _ _, by decide +kernel, by decide +kernel, by decide +kernel, by decide +kernel, by decide +kernel,
    readied_ready _ _ _, by decide, by decide +kernel⟩

/-- Terminal 3/15 shows XRB in row 0. -/
theorem witness_rows_shown : (floor.setTerm 63 desk).showsRow 12 63 0 :=
  ⟨by decide +kernel, by decide, by decide +kernel, 0, by decide +kernel, by decide +kernel, by decide⟩

theorem witness_HaltAndResume :
    (readied floor .halt [0, 12]).ready .halt (req .halt [0, 12]) [] ∧ (floor.entry 12).status = .listed ∧
      (readied floor .resume [3, 0xFF]).ready .resume (req .resume [3, 0xFF]) [] ∧ readIndex [3, 0xFF] = some 1023 ∧
      (floor.entry 1023).status = .halted :=
  ⟨readied_ready _ _ _, by decide +kernel, readied_ready _ _ _, by decide, by decide +kernel⟩

theorem witness_RollWalkVisit :
    ({ floor with walkActive := true, walkPos := 13 } : State).walkActive = true ∧ (floor.entry 13).status ≠ .free ∧
      (floor.entry 13).dayStamp ≠ floor.dayNumber ∧ 13 < 1023 ∧ (floor.entry 14).status = .free ∧
      (floor.entry 12).dayStamp = floor.dayNumber ∧
      1023 ≤ ({ floor with walkActive := true, walkPos := 1023 } : State).walkPos := by decide +kernel

/-! ### Witnesses: session and clock -/

/-- A session state. -/
def inSession (x : SessionState) : State := { floor with session := { Session.cold with state := x } }

theorem witness_SessionSetMakesATransition :
    ((readied (inSession .opened) .sessionSet [5]).ready .sessionSet (req .sessionSet [5]) [] ∧ read1 [5] = some 5 ∧
        4 < 5) ∧
      ((readied (inSession .closed) .sessionSet [1]).ready .sessionSet (req .sessionSet [1]) [] ∧
        sessionStateOf 1 = some .preOpen ∧ legalTransition .closed .preOpen = true ∧
        ¬(SessionState.preOpen = .preOpen ∧ (readied (inSession .closed) .sessionSet [1]).walkActive = true)) ∧
      (sessionStateOf 4 = some .after ∧ legalTransition .opened .after = true) ∧
      legalTransition .closed .opened = false ∧ ({ floor with walkActive := true } : State).walkActive = true ∧
      (let s := (inSession .closed).setLine 4 { BoardLine.cold with state := .dark }
       (s.line 4).state = .dark ∧ liveCells 4 s = [268, 269]) :=
  ⟨⟨readied_ready _ _ _, by decide, by decide⟩, ⟨readied_ready _ _ _, by decide, by decide, by decide +kernel⟩,
    by decide, by decide, rfl, by decide +kernel⟩

theorem witness_SessionReachesTheRibbons :
    (readied (inSession .opened) .sessionSet [4]).ready .sessionSet (req .sessionSet [4]) [] ∧
      bannerFor .opened .after = some .marketClosed ∧ (inSession .opened).ribbonA.state ≠ .off ∧
      (inSession .opened).ribbonA.queue.length < 512 ∧ (inSession .closed).ribbonA.state = .stopped ∧
      closedOrAfter .closed = true ∧ bannerFor .after .closed = none ∧ legalTransition .after .closed = true ∧
      ({ Ribbon.cold with state := .running } : Ribbon).fifo = [] ∧ ribbonJobInFlight .a floor = false :=
  ⟨readied_ready _ _ _, by decide, by decide, by decide +kernel, by decide, by decide, by decide, by decide, rfl, rfl⟩

/-- A ribbon that an entry into PRE_OPEN finds RUNNING, and one that keeps a record at an entry into CLOSED. -/
theorem witness_SessionReachesTheRibbons_unchanged :
    legalTransition .after .preOpen = true ∧ ({ Ribbon.cold with state := .running } : Ribbon).state ≠ .stopped ∧
      bannerFor .after .closed = none ∧ closedOrAfter .closed = true ∧
      ({ Ribbon.cold with state := .running, fifo := ['A'] } : Ribbon).fifo ≠ [] := by decide +kernel

theorem witness_TimeAndScheduleAreSet :
    ((readied floor .timeSet [1, 0x51, 0x7F, 6, 31, 12, 99]).ready .timeSet
        (req .timeSet [1, 0x51, 0x7F, 6, 31, 12, 99]) [] ∧
      readTimeSet [1, 0x51, 0x7F, 6, 31, 12, 99] =
        some { second := 86399, weekday := 6, day := 31, month := 12, year := 99 } ∧ 31 ≤ monthLength 12 99) ∧
      readTimeSet [1, 0x51, 0x80, 0, 1, 1, 0] = some { second := 86400, weekday := 0, day := 1, month := 1, year := 0 } ∧
      ((readied floor .schedSet [15, 1, 23, 1, 59, 1, 0, 127, 1, 4]).ready .schedSet
        (req .schedSet [15, 1, 23, 1, 59, 1, 0, 127, 1, 4]) [] ∧ sessionStateOf 4 = some .after ∧
        (127 : Byte).toNat < 128 ∧ (127 : Byte) ≠ 0) ∧
      (1 ≤ (31 : Byte).toNat ∧ (31 : Byte).toNat ≤ 31) ∧ 31 < (32 : Byte).toNat :=
  ⟨⟨readied_ready _ _ _, by decide, by decide⟩, by decide, ⟨readied_ready _ _ _, by decide, by decide, by decide⟩,
    by decide, by decide⟩

theorem witness_TicksAdvanceTheClock :
    State.reset.resetAsserted = false ∧ State.reset.clock.present = false ∧ State.reset.clock.watchExpired = true ∧
      (86398 ≠ 86399 ∧ 27 < monthLength 2 87 ∧ monthLength 2 87 ≤ 28 ∧ monthLength 2 88 = 29) ∧
      ({ Clock.cold with present := true, watchExpired := false } : Clock).watchExpired = false := by decide

/-- A minute boundary of a set clock, and one of an unset clock; a cell at its last tick, a dark timer, quiet counts below
and at their interval, a terminal at its lapse time and one below it, a held slot at its limit with a terminal it does not name. -/
theorem witness_TickReachesTheCounters :
    floor.tablesWf ∧
      (let c : Clock := { Clock.cold with second := 59, state := .running }
       c.tick.state ≠ .unset ∧ c.tick.second % 60 = 0) ∧
      (Clock.cold.tick.state = .unset ∧ Clock.cold.tick.second % 60 ≠ 0) ∧
      (floor.setCell 511 { Cell.cold with flashCount := 1 }).cell 511 = { Cell.cold with flashCount := 1 } ∧
      (floor.tline 3).round = none ∧
      (let s := lined { desk with lapse := 3599 } { TermLine.cold with quietInterval := 10, quietCount := 9, lapseTime := 60 }
       (s.tline 3).poll = .quiet ∧ (s.tline 3).quietInterval ≤ min 10 ((s.tline 3).quietCount + 1) ∧
         (s.term (termNo 3 15)).state ≠ .vacant ∧ (s.tline (63 / 16)).lapseTime ≠ 0 ∧
         (s.tline (63 / 16)).lapseTime * 60 ≤ min 3600 ((s.term 63).lapse + 1)) ∧
      (min 10 ((floor.tline 3).quietCount + 1) < (floor.tline 3).quietInterval ∧ (floor.tline 0).lapseTime = 0) ∧
      (let h := { heldQuote with elapsed := 29 }
       ((floor.setWindow 3 { wide with slot := some h }).window 3).slot = some h ∧ h.limit ≤ h.elapsed + 1 ∧
         (List.range 4).filter (floor.setWindow 3 { wide with slot := some h }).runsOut = [3] ∧ termNo h.line h.addr ≠ 62 ∧
         ¬heldQuote.limit ≤ heldQuote.elapsed + 1) := ⟨floor_tablesWf, by decide +kernel⟩

/-- Entry 15 asks for PRE_OPEN on any weekday. -/
def scheduled (x : SessionState) (walk : Bool) : State :=
  { (inSession x).setSched 15 { SchedEntry.cold with enabled := true, target := .preOpen } with walkActive := walk }

theorem witness_TickReachesTheCounters_schedule :
    15 ∈ matchingEntries (scheduled .closed false) ∧
      ((scheduled .preOpen true).schedEntry 15).target = (scheduled .preOpen true).session.state ∧
      legalTransition (scheduled .opened false).session.state ((scheduled .opened false).schedEntry 15).target = false ∧
      (legalTransition (scheduled .after true).session.state ((scheduled .after true).schedEntry 15).target = true ∧
        (scheduled .after true).walkActive = true) ∧
      (scheduled .closed false).walkActive = false := by decide +kernel

theorem witness_ExpiriesOfCounts :
    ((floor.setCell 511 { Cell.cold with flashCount := 1 }).cell (cellNo 7 63)).flashCount = 1 ∧
      ((floor.setLine 7 { BoardLine.cold with darkTimer := some 1 }).line 7).darkTimer = some 1 ∧
      (let s := lined { desk with lapse := 3599 } { TermLine.cold with quietInterval := 10, quietCount := 9, lapseTime := 60 }
       (s.tline 3).round = none ∧ (s.tline 3).poll = .quiet ∧ (s.tline 3).quietInterval ≤ min 10 ((s.tline 3).quietCount + 1) ∧
         (s.term (termNo 3 15)).state ≠ .vacant ∧ (s.term (termNo 3 15)).state = .active ∧ (s.tline 3).lapseTime ≠ 0 ∧
         (s.tline 3).lapseTime * 60 ≤ min 3600 ((s.term (termNo 3 15)).lapse + 1)) ∧
      (let h := { heldQuote with elapsed := 29 }
       ((floor.setWindow 3 { wide with slot := some h }).window 3).slot = some h ∧ h.limit ≤ h.elapsed + 1) := by
  decide +kernel

/-! ### Witnesses: configurations -/

theorem witness_PlainConfigurations :
    (readied floor .formatSet [8]).ready .formatSet (req .formatSet [8]) [] ∧ read1 [8] = some 8 ∧
      (readied floor .boardSet [16]).ready .boardSet (req .boardSet [16]) [] ∧ read1 [16] = some 16 ∧
      (readied floor .windowSet [3, 1, 9, 2, 0, 7, 120]).ready .windowSet (req .windowSet [3, 1, 9, 2, 0, 7, 120]) [] ∧
      readWindowSet [3, 1, 9, 2, 0, 7, 120] =
        some { window := 3, enabled := true, k := 9, base := 512, kinds := 7, limit := 120 } ∧ 512 % 2 ^ 9 = 0 ∧
      10 < 11 ∧ 1 % 2 ^ 1 ≠ 0 ∧
      (readied floor .tlineSet [3, 0, 10, 200, 15, 60]).ready .tlineSet (req .tlineSet [3, 0, 10, 200, 15, 60]) [] ∧
      pollModeOf 0 = some .continuous ∧ 1 < 2 ∧ 200 < 201 ∧ 7 < (8 : Byte).toNat ∧
      ((floor.setTerm 63 desk).tline 3).poll = .quiet ∧ ((floor.setTerm 63 desk).term (termNo 3 15)).state ≠ .vacant :=
  ⟨readied_ready _ _ _, by decide, readied_ready _ _ _, by decide, readied_ready _ _ _, by decide, by decide, by decide,
    by decide, readied_ready _ _ _, by decide, by decide, by decide, by decide, by decide +kernel, by decide +kernel⟩

/-! ### Witnesses: the Format Unit -/

/-- Line 0 and line 7 request; ribbon A does with 15 characters, or with 22. -/
def asking (chars : Nat) : State :=
  { ((floor.setLine 0 { BoardLine.cold with state := .lit }).setQueue 0 [0]).setQueue 4 [268] with
    ribbonA := { Ribbon.cold with
      state := .running, fifo := List.replicate chars ' '
      queue := [{ body := .banner .marketOpen, arrival := 0, fullLength := 13 }] } }

theorem witness_ArbiterGrantsInOrder :
    urgent 8 (asking 15) = true ∧ urgent 8 (asking 16) = false ∧ urgent 9 (asking 16) = false ∧
      requests 8 (asking 22) = true ∧ requests 8 (asking 23) = false ∧ (asking 22).fu.pointer < 14 ∧
      (let s : State := { asking 22 with fu := { FormatUnit.cold with holder := some 0, runCount := 3 } }
       s.fu.holder = some 0 ∧ requests 0 s = true ∧ s.fu.runCount < s.fu.runLength) ∧
      (let s : State := { asking 22 with fu := { FormatUnit.cold with holder := some 0, runCount := 4, pointer := 0 } }
       s.fu.runLength ≤ s.fu.runCount ∧ requests 8 s = true ∧
         ∀ q, q < 14 → requests q s = true → (8 + 13 - s.fu.pointer) % 14 ≤ (q + 13 - s.fu.pointer) % 14) ∧
      (∀ p, p < 14 → requests p State.reset = false) ∧ requests 13 (lined { desk with rows := [0] } TermLine.cold) = true ∧
      ((lined { desk with rows := [0] } TermLine.cold).term (termNo 3 15)).rows ≠ [] := by decide +kernel

theorem witness_BoardJobTakesTheHeadCell :
    (let s := asking 22
     s.refreshQueue 4 = 268 :: [] ∧ (s.cell 268).binding = some 12 ∧ (s.entry 12).stale s.dayNumber = false ∧
       (s.cell 268).hold = none ∧ (s.entry 12).status ≠ .free ∧ (s.cell 0).binding = none ∧
       ((s.setCell 0 { Cell.cold with hold := some { text := [.upArrow], hue := .red, flash := true } }).cell 0).hold =
         some { text := [.upArrow], hue := .red, flash := true }) ∧
      (floor.entry 13).stale floor.dayNumber = true ∧
      (let s : State := { (asking 22).setCell 268 { (asking 22).cell 268 with
         tradeMark := true, prevChars := some (boardChars [' ', ' ', ' ', ' ', ' ', '1']) } with flashPeriod := 15 }
       (s.cell 268).field = .last ∧ (s.cell 268).tradeMark = true ∧ 0 < s.flashPeriod ∧
         (s.cell 268).prevChars ≠ some (fieldForm .last 6 (s.current 12)).chars) := by decide +kernel

/-- A floor with a job in flight. -/
def working (j : Job) : State := { floor with fu := { FormatUnit.cold with job := some j } }

theorem witness_BoardJobDelivers :
    (working (.board 7 63 (blankText 10) true)).fu.job = some (.board 7 63 (blankText 10) true) ∧
      63 ∈ (floor.line 7).enabled ∧ (floor.slotState 511).presence ≠ .absent ∧
      ((floor.setSlot 511 { SlotState.cold with shown := some (blankText 10) }).slotState 511).shown =
        some (blankText 10) ∧
      ((floor.setSlot 511 { SlotState.cold with presence := .absent }).slotState 511).presence = .absent := by
  decide +kernel

/-- Ribbon B in SAMPLE: a trade of index 12 with one of the same instrument behind it, then a banner; and ribbon A in NORMAL
with one record. The records came 60 seconds before. -/
theorem witness_RibbonJobTakesARecord :
    (let old : PrintRecord := makeRecord (xrbPrint 2904 500) 0
     let new : PrintRecord := makeRecord (xrbPrint 2920 600) 0
     let s : State := { floor with
       clock := { Clock.cold with second := 60 }
       ribbonB := { Ribbon.cold with state := .running, mode := .sample, queue := [old, new] } }
     (s.ribbon .b).queue = [old] ++ new :: [] ∧ (s.ribbon .b).mode = .sample ∧
       ¬(s.clock.second + 86400 - new.arrival) % 86400 < 60 ∧ (s.ribbon .b).lateFigure ≠ some (60 / 60)) ∧
      (∃ t, (makeRecord (xrbPrint 2904 500) 0).body = .trade t ∧ t.first = false ∧ t.index = 12) ∧
      ((asking 22).ribbon .a).queue = [] ++ ({ body := .banner .marketOpen, arrival := 0, fullLength := 13 } : PrintRecord) :: [] ∧
      ((asking 22).ribbon .a).mode ≠ .sample :=
  ⟨by decide +kernel, ⟨_, rfl, rfl, rfl⟩, by decide, by decide⟩

theorem witness_RibbonJobDelivers :
    (working (.ribbon .b none [] ['A'] none none false)).fu.job = some (.ribbon .b none [] ['A'] none none false) ∧
      (working (.ribbon .b none [] ['A'] none none true)).fu.job = some (.ribbon .b none [] ['A'] none none true) ∧
      RibbonId.a ≠ .b := by decide +kernel

/-- Terminal 3/15 with each of the six blocks to compose, the compose pointer at 15 and no other terminal ready. -/
theorem witness_TerminalJobComposesABlock :
    let answered : RequestRecord := {
      state := .answered, request := some (ask .quoteAsk)
      result := some { code := .accepted, position := none, index := some 12, conditions := none } }
    let fired : Alert := { Alert.cold with
      state := .fired, instrument := some 12, fired := some { price := 2904, size := 500, second := 86399 } }
    (∀ t ∈ [({ desk with record := answered } : Terminal), desk.setAlert 3 fired, { desk with fullPage := true },
        { desk with statusOwed := true }, { desk with state := .lapsed, idleOwed := true }, { desk with rows := [0, 1, 5, 7, 11] }],
      ((lined t TermLine.cold).tline 3).compose < 16 ∧ nextEligible 3 (lined t TermLine.cold) = some 15 ∧
        (lined t TermLine.cold).term (termNo 3 15) = t ∧ t.outBlock = none) ∧
      (floor.entry 12).status ≠ .free ∧ (ask .quoteAsk).symbol = some (floor.entry 12).symbol ∧
      (floor.entry 13).stale floor.dayNumber = true := by decide +kernel

/-- A PAGE and a ROWS block of terminal 3/15 that read a stale entry, which row 1 shows. -/
theorem witness_TerminalJobComposesABlock_stale :
    ∀ t ∈ [({ desk with watchList := [12, 13], fullPage := true } : Terminal), { desk with watchList := [12, 13], rows := [1] }],
      let s := (lined t TermLine.cold).setEntry 13 { floor.entry 13 with watchers := 1 }
      nextEligible 3 s = some 15 ∧ s.term (termNo 3 15) = t ∧ t.watchList[12 * t.page + 1]? = some 13 ∧
        (s.entry 13).stale s.dayNumber = true ∧ (s.entry 13).watchers ≠ 0 ∧ t.state ≠ .vacant ∧
        t.watchList.idxOf? 13 = some 1 ∧ 1 / 12 = t.page ∧ 1 = 1 % 12 := by decide +kernel

/-- Figures at the ends of their ranges. -/
theorem witness_TerminalJobComposesABlock_row :
    ({ xrb with symbol := ['A', 'B', 'C', 'D', 'E', '.', 'B'], last := some 639999, prevClose := some 1, dayVolume := 99999999
                bid := some { price := 639999, size := 1 } } : Entry).figuresInRange := by
  refine ⟨by decide, ?_, ?_, ?_, ?_, by decide⟩ <;> simp [xrb, Entry.cold]

theorem witness_TerminalJobDelivers :
    (working (.terminal 3 15 .idle .kept)).fu.job = some (.terminal 3 15 .idle .kept) ∧
      (working (.terminal 3 15 .idle .silenced)).fu.job = some (.terminal 3 15 .idle .silenced) ∧
      (working (.terminal 3 15 .idle .retired)).fu.job = some (.terminal 3 15 .idle .retired) ∧
      ((floor.setTerm 63 desk).tline 3).poll = .quiet ∧ ((floor.setTerm 63 desk).tline 3).round = none ∧
      ((floor.setTerm 63 desk).term (termNo 3 15)).state ≠ .vacant := by decide +kernel

/-- A BELL block of alert 3 for a terminal made SILENT since. -/
theorem witness_TerminalJobDelivers_bell :
    let b : Block := .bell { slot := 3, symbol := [], price := [], size := [], hours := 0, minutes := 0, seconds := 0
                             conditions := { above := none, below := none, minSize := none } }
    (working (.terminal 3 15 b .silenced)).fu.job = some (.terminal 3 15 b .silenced) ∧
      (working (.terminal 3 15 b .silenced)).resetAsserted = false := ⟨rfl, rfl⟩

/-! ### Witnesses: cells -/

/-- Day volumes at which each form of the board volume text is the first that fits. -/
theorem witness_BoardVolumeText :
    (digits 99999999).length ≤ 8 ∧
      (3 < (digits 1000).length ∧ (digits (1000 / 1000) ++ ['K']).length ≤ 3) ∧
      (4 < (digits 99999999).length ∧ 5 < (digits (99999999 / 1000) ++ ['K']).length) ∧
      (2 < (digits 999).length ∧ 999 < 1000) := by decide +kernel

/-- The body of a BIND of cell 7/63 to index 1,023, field CLOSE, W 10. -/
def bindBody : List Byte := [7, 63, 3, 0xFF, 7, 10]

/-- The body of a HOLD of cell 4/12 with six arrows, RED and flashing. -/
def holdBody : List Byte := [4, 12, 2, 1, 6, 0x80, 0x80, 0x80, 0x80, 0x80, 0x81]

theorem witness_CellRequestsActOnTheirCell_bind :
    (readied floor .bind bindBody).ready .bind (req .bind bindBody) [] ∧
      readBind bindBody = some { line := 7, slot := 63, index := 1023, field := 7, width := 10 } ∧
      fieldOf 7 = some .close ∧ (floor.cell 511).hold = none ∧ (floor.cell 511).binding ≠ some 1023 ∧
      (floor.entry 1023).cells.length < 4 ∧ (floor.cell 268).binding = some 12 ∧
      4 ≤ ((floor.setEntry 517 { xrb with cells := [201, 202, 360, 450] }).entry 517).cells.length ∧
      ((floor.setCell 511 { Cell.cold with hold := some { text := [.upArrow, .upArrow], hue := .white, flash := false } }).cell
        511).hold = some { text := [.upArrow, .upArrow], hue := .white, flash := false } ∧
      1 < [BoardChar.upArrow, .upArrow].length :=
  ⟨readied_ready _ _ _, by decide, by decide, by decide +kernel, by decide +kernel, by decide +kernel, by decide +kernel,
    by decide +kernel, by decide +kernel, by decide⟩

/-- BIND with W 11, UNBIND of line 8, RELEASE of slot 64, HOLD with HUE 3 and with a byte that is no board character. -/
theorem witness_CellRequestsActOnTheirCell_range :
    (readied floor .bind [7, 63, 3, 0xFF, 7, 11]).ready .bind (req .bind [7, 63, 3, 0xFF, 7, 11]) [] ∧
      (readBind [7, 63, 3, 0xFF, 7, 11]).map BindBody.width = some 11 ∧
      (readied floor .unbind [8, 0]).ready .unbind (req .unbind [8, 0]) [] ∧ read2 [8, 0] = some (8, 0) ∧
      (readied floor .release [0, 64]).ready .release (req .release [0, 64]) [] ∧ read2 [0, 64] = some (0, 64) ∧
      (readied floor .hold [4, 12, 3, 1, 1, 0x80]).ready .hold (req .hold [4, 12, 3, 1, 1, 0x80]) [] ∧
      (readHold [4, 12, 3, 1, 1, 0x80]).map HoldBody.hue = some 3 ∧
      (readHold [4, 12, 2, 1, 1, 0x91]).map HoldBody.text = some [0x91] ∧ boardCharOf 0x91 = none :=
  ⟨readied_ready _ _ _, by decide, readied_ready _ _ _, by decide, readied_ready _ _ _, by decide, readied_ready _ _ _,
    by decide, by decide, by decide⟩

theorem witness_CellRequestsActOnTheirCell_others :
    (readied floor .unbind [4, 12]).ready .unbind (req .unbind [4, 12]) [] ∧ (floor.cell 268).binding = some 12 ∧
      (floor.cell 511).binding = none ∧
      ((readied floor .hold holdBody).ready .hold (req .hold holdBody) [] ∧
        (readHold holdBody).map HoldBody.text = some [0x80, 0x80, 0x80, 0x80, 0x80, 0x81] ∧
        (holdText [0x80, 0x80, 0x80, 0x80, 0x80, 0x81]).map List.length = some 6 ∧ hueOfCode 2 = some .red ∧
        6 ≤ (floor.cell 268).width) ∧
      ((holdText []).map List.length = some 0 ∧ (floor.cell 269).width < 6) ∧
      (readied floor .release [7, 63]).ready .release (req .release [7, 63]) [] ∧ (floor.cell 511).hold = none ∧
      ((floor.setCell 511 { Cell.cold with hold := some { text := [.upArrow], hue := .red, flash := true } }).cell
        511).hold ≠ none :=
  ⟨readied_ready _ _ _, by decide +kernel, by decide +kernel,
    ⟨readied_ready _ _ _, by decide, by decide, by decide, by decide +kernel⟩, by decide +kernel, readied_ready _ _ _,
    by decide +kernel, by decide +kernel⟩

/-! ### Witnesses: board lines -/

/-- The body of a LINE-SET of line 7: S 64, O 15, slots 0 and 63, 20 frames, a dark delay of 255. -/
def lineBody (target : Byte) : List Byte := [7, 64, 15, 0x80, 0, 0, 0, 0, 0, 0, 1, 20, 255, target]

theorem witness_LineSetAndLineWake :
    (readied floor .lineSet (lineBody 1)).ready .lineSet (req .lineSet (lineBody 1)) [] ∧
      (readLineSet (lineBody 1)).map (fun b => (b.line, b.size, b.offset, b.enabled, b.rate, b.darkDelay)) =
        some (7, 64, 15, [0, 63], 20, 255) ∧
      lineTargetOf 1 = some .lit ∧ (floor.line 7).state = .off ∧ (floor.line 7).frame = none ∧
      ((floor.setLine 7 { BoardLine.cold with state := .dark }).line 7).state = .dark ∧
      lineTargetOf 3 = some .unchanged ∧
      (readied floor .lineWake [7]).ready .lineWake (req .lineWake [7]) [] ∧ read1 [8] = some 8 ∧ 7 < 8 ∧
      ((floor.setLine 7 { BoardLine.cold with state := .lit }).line 7).state = .lit :=
  ⟨readied_ready _ _ _, by decide +kernel, by decide, by decide +kernel, by decide +kernel, by decide +kernel, by decide,
    readied_ready _ _ _, by decide, by decide, by decide +kernel⟩

/-- A frame of one item for slot 63, sent or not. -/
def frameOf (sent : Nat) (c : ItemCommand) : Frame :=
  { items := [{ slot := 63, command := c }], offset := 15, rate := 20, sent := sent, applies := [63], settles := false }

/-- Line 7 with that frame in flight. -/
def framing (sent : Nat) (c : ItemCommand) (x : LineState) : State :=
  floor.setLine 7 { BoardLine.cold with offset := 15, state := x, frame := some (frameOf sent c) }

/-- LINE-SET of a line with a frame in flight: to OFF with a dark delay of 255, under a new O, with slot 15 and the scrub
pointer's slot removed and the pointer's slot kept, with no scrub pointer, and of an OFF line whose frame has not ended. -/
theorem witness_LineSetAndLineWake_frame :
    let s := framing 0 .sense .lit
    let b := (readLineSet (lineBody 0)).map (fun b => (b.offset, b.enabled, b.darkDelay))
    b = some (15, [0, 63], 255) ∧ lineTargetOf 0 = some .off ∧ (s.line 7).state ≠ .off ∧
      (s.line 7).frame = some (frameOf 0 .sense) ∧ (s.line 7).offset = 15 ∧ (floor.line 7).offset ≠ 15 ∧
      15 ∈ (s.line 7).enabled ∧ 15 ∉ [0, 63] ∧ (s.line 7).scrub = some 0 ∧ 0 ∈ [0, 63] ∧
      ({ BoardLine.cold with scrub := some 15 } : BoardLine).scrub = some 15 ∧
      ({ BoardLine.cold with enabled := [], scrub := none } : BoardLine).scrub = none ∧
      ((framing 0 .sense .off).line 7).state = .off ∧ ((framing 0 .sense .off).line 7).frame ≠ none := by decide +kernel

/-- R104: a lost module's cell on a line that enters OFF has its flag clear when the module comes up again. -/
theorem test_settled_cell_has_flag_clear :
    let s := (framing 0 .sense .lit).setSlot 511 { SlotState.cold with presence := .absent }
    let lost := (s.setLine 7 { s.line 7 with frame := none }).setCell 511 { Cell.cold with needsFull := true }
    ((lineOff 7 lost).slotState 511).presence = .unknown ∧ ((lineOff 7 lost).cell 511).needsFull = false := by
  decide +kernel

/-- LINE-SET with S 63 and slot 63 enabled, and with S 65. -/
theorem witness_LineSetAndLineWake_range :
    let body (size : Byte) : List Byte := [7, size, 15, 0x80, 0, 0, 0, 0, 0, 0, 1, 20, 255, 1]
    (readied floor .lineSet (body 63)).ready .lineSet (req .lineSet (body 63)) [] ∧
      (readLineSet (body 63)).map (fun b => (b.size, b.enabled)) = some (63, [0, 63]) ∧
      (readLineSet (body 65)).map LineBody.size = some 65 :=
  ⟨readied_ready _ _ _, by decide +kernel, by decide +kernel⟩

theorem witness_FrameSendsItsItems :
    ((framing 0 .sense .lit).line 7).frame = some (frameOf 0 .sense) ∧
      (frameOf 0 .sense).items[(frameOf 0 .sense).sent]? = some { slot := 63, command := .sense } ∧
      ((framing 0 .sense .dark).line 7).state = .dark ∧
      ((floor.setSlot 511 { SlotState.cold with staging := some (blankText 1) }).slotState (cellNo 7 63)).staging =
        some (blankText 1) ∧
      (let s := (floor.setSlot 511 { SlotState.cold with shown := some (blankText 1) }).setLine 7
         { BoardLine.cold with scrub := some 63 }
       (s.line 7).scrub = some 63 ∧ (s.slotState 511).shown = some (blankText 1) ∧ (s.slotState 511).staging = none) ∧
      (floor.line 7).scrub ≠ some 63 ∧
      (let l := { BoardLine.cold with state := .lit, enabled := [0, 63], scrub := some 0 }
       l.state = .lit ∧ 63 ∈ l.enabled ∧ 0 < 63 ∧ l.enabled.Pairwise (· < ·) ∧ ∀ k ∈ l.enabled, k ≤ 63) := by
  decide +kernel

/-- Slot 63's module comes, absent before. -/
theorem witness_FrameEndAppliesAnswers_forced :
    let s := (framing 1 .blank .dark).setSlot 511 { SlotState.cold with presence := .absent }
    ((frameOf 1 .blank).items.filter (fun it => decide (it.slot ∈ (frameOf 1 .blank).applies) &&
      !decide ((s.slotState (cellNo 7 it.slot)).presence = .present))).map (fun it => cellNo 7 it.slot) = [511] := by
  decide +kernel

/-- Slot 63's module is lost, present before: its notice is raised. -/
theorem witness_FrameEndAppliesAnswers_lost :
    let s := (framing 1 .blank .dark).setSlot 511 { SlotState.cold with presence := .present }
    ((frameOf 1 .blank).items.filter (fun it => decide (it.slot ∈ (frameOf 1 .blank).applies) &&
      (false != decide ((s.slotState (cellNo 7 it.slot)).presence = .present)))).map
        (fun it => NoticeItem.boardModule 7 it.slot) = [.boardModule 7 63] := by decide +kernel

/-- A frame not yet sent out, one at its end with an answer for slot 63 and one without, one whose slot was settled since, and
one of a line that entered OFF. -/
theorem witness_FrameEndAppliesAnswers :
    let f := frameOf 1 .blank
    let s := framing 1 .blank .dark
    (s.line 7).frame = some f ∧ f.sent = f.items.length ∧ (frameOf 0 .blank).sent ≠ (frameOf 0 .blank).items.length ∧
      (f.items.map FrameItem.slot).Nodup ∧ (∀ it ∈ f.items, it.slot < 64 ∧ it.slot ∈ f.applies) ∧
      (s.line 7).state ≠ .off ∧ f.settles = false ∧
      [({ window := some 63, address := 78, checkHolds := true } : ModuleAnswer)].any
        (fun a => decide (a.window = some 63 ∧ a.address = f.offset + 63 ∧ a.checkHolds = true)) = true ∧
      63 ∉ ({ f with applies := [] } : Frame).applies ∧
      (let g := { f with settles := true }
       let u := floor.setLine 7 { BoardLine.cold with offset := 15, frame := some g }
       (u.line 7).frame = some g ∧ g.settles = true ∧ (u.line 7).state = .off) := by decide +kernel

/-! ### Witnesses: ribbons -/

/-- The body of a RIBBON-SET of ribbon B at the edges of its ranges. -/
def ribbonBody (enable : Byte) : List Byte := [1, 0, 30, 3, 0x82, 3, 0x83, 3, 0x84, 99, enable]

theorem witness_RibbonSetConfigures :
    (readied floor .ribbonSet (ribbonBody 1)).ready .ribbonSet (req .ribbonSet (ribbonBody 1)) [] ∧
      readRibbonSet (ribbonBody 1) =
        some { ribbon := 1, mask := 0, rate := 30, up1 := 898, up2 := 899, up3 := 900, trim := 99, enable := 1 } ∧
      ribbonOf 1 = some .b ∧ ribbonEnableOf 0 = some .on ∧ ribbonEnableOf 1 = some .off ∧
      ribbonEnableOf 2 = some .unchanged ∧ floor.ribbonB.state ≠ .off ∧
      ({ floor with ribbonB := { Ribbon.cold with state := .off } } : State).ribbonB.state = .off ∧
      closedOrAfter floor.session.state = false ∧ closedOrAfter .after = true :=
  ⟨readied_ready _ _ _, by decide, by decide, by decide, by decide, by decide, by decide +kernel, by decide +kernel,
    by decide +kernel, by decide⟩

/-- RIBBON-SET with a rate of 31, and with an enable of 3. -/
theorem witness_RibbonSetConfigures_range :
    let body (rate enable : Byte) : List Byte := [1, 0, rate, 3, 0x82, 3, 0x83, 3, 0x84, 99, enable]
    (readied floor .ribbonSet (body 31 0)).ready .ribbonSet (req .ribbonSet (body 31 0)) [] ∧
      (readRibbonSet (body 31 0)).map RibbonBody.rate = some 31 ∧ (readRibbonSet (body 30 3)).map RibbonBody.enable = some 3 :=
  ⟨readied_ready _ _ _, by decide, by decide⟩

/-- A ribbon in a mode with so many characters of backlog at 12 a second. -/
def lagging (m : Mode) (dwell chars : Nat) : Ribbon :=
  { Ribbon.cold with state := .running, mode := m, dwell := dwell, fifo := List.replicate chars ' ' }

theorem witness_CharacterPeriodSends :
    Ribbon.cold.state ≠ .running ∧ (lagging .normal 0 1).fifo = ' ' :: [] ∧ (lagging .normal 0 0).fifo = [] ∧
      (lagging .normal 0 0).state = .running := by decide

/-- The lags at the edges of each rise and fall: 30, 90, 240 and 15, 45, 120 seconds. -/
theorem witness_ModeEvaluation :
    (∀ p ∈ [(Mode.normal, 360, 30), (.trim, 1080, 90), (.digits, 2880, 240)],
      p.2.2 ≤ (((lagging p.1 0 p.2.1).queue.map PrintRecord.fullLength).sum + (lagging p.1 0 p.2.1).fifo.length) / 12) ∧
      (∀ p ∈ [(Mode.trim, 179, 15), (.digits, 539, 45), (.sample, 1439, 120)],
        (((lagging p.1 30 p.2.1).queue.map PrintRecord.fullLength).sum + (lagging p.1 30 p.2.1).fifo.length) / 12 < p.2.2) ∧
      (lagging .sample 30 0).dwell = 30 ∧ (lagging .sample 29 0).dwell ≠ 30 := by decide +kernel

/-- A full queue: a trade of index 12 at its head and banners behind it. -/
def fullQueue (first : PrintBody) : Ribbon :=
  { Ribbon.cold with
    queue := { body := first, arrival := 0, fullLength := 14 } ::
      List.replicate 511 { body := .banner .marketOpen, arrival := 0, fullLength := 13 } }

theorem witness_FullQueuePolicy :
    512 ≤ (fullQueue (xrbPrint 2904 500)).queue.length ∧ (fullQueue (xrbPrint 2904 500)).state ≠ .off ∧
      (∃ t, xrbPrint 2904 500 = .trade t ∧ t.index = 12) ∧
      (∀ p ∈ (fullQueue (xrbPrint 2904 500)).queue, ¬∃ t, p.body = .trade t ∧ t.index = 13) ∧
      ∀ p ∈ (fullQueue (.banner .marketClosed)).queue, ¬∃ t, p.body = .trade t := by
  refine ⟨by decide +kernel, by decide +kernel, ⟨_, rfl, rfl⟩, fun p hp => ?_, fun p hp => ?_⟩ <;>
  · simp only [fullQueue, List.mem_cons, List.mem_replicate] at hp
    rcases hp with rfl | ⟨-, rfl⟩ <;> simp [xrbPrint]

/-! ### Witnesses: terminal lines -/

theorem witness_TermAdmitMakesATerminalJoin :
    (readied floor .termAdmit [3, 15, 1]).ready .termAdmit (req .termAdmit [3, 15, 1]) [] ∧
      readTermAdmit [3, 15, 1] = some (3, 15, true) ∧ readTermAdmit [3, 16, 1] = some (3, 16, true) ∧
      (floor.term 63).state = .vacant ∧ ((floor.setTerm 63 desk).term (termNo 3 15)).state ≠ .vacant ∧
      (∀ a, a < 16 → (floor.term (termNo 3 a)).state = .vacant) ∧ (floor.tline 3).round = none :=
  ⟨readied_ready _ _ _, by decide, by decide, by decide +kernel, by decide +kernel, by decide +kernel, by decide +kernel⟩

/-- Terminal 3/15 with a REFERRED request held in window 3, its slot in progress and its job in flight. -/
def leaving : State :=
  { ((floor.setTerm 63 { desk with record := { state := .referred, request := some (ask .quoteAsk), result := none } }).setWindow
      3 { wide with slot := some heldQuote }).setTLine 3
        { TermLine.cold with slot := some { address := 15, tx := .poll false, limit := 50, ignored := false } } with
    fu := { FormatUnit.cold with job := some (.terminal 3 15 .idle .kept) } }

theorem witness_TermRetireEmptiesTheTerminal :
    (readied leaving .termRetire [3, 15]).ready .termRetire (req .termRetire [3, 15]) [] ∧
      read2 [3, 15] = some (3, 15) ∧ (floor.term 63).state = .vacant ∧ (leaving.term 63).state ≠ .vacant ∧
      (leaving.term 63).record.state = .referred ∧ (leaving.window 3).slot = some heldQuote ∧
      heldQuote.line = 3 ∧ heldQuote.addr = 15 ∧ (∀ v, v < 3 → (leaving.window v).slot = none) ∧
      (leaving.tline 3).slot.map TermSlot.address = some 15 ∧ leaving.fu.job = some (.terminal 3 15 .idle .kept) :=
  ⟨readied_ready _ _ _, by decide, by decide +kernel, by decide +kernel, by decide +kernel, by decide +kernel, rfl, rfl,
    by decide +kernel, by decide +kernel, rfl⟩

/-- TERM-RETIRE of line 4 and of address 16; a slot and a job of another terminal of the line. -/
theorem witness_TermRetireEmptiesTheTerminal_range :
    (readied leaving .termRetire [4, 15]).ready .termRetire (req .termRetire [4, 15]) [] ∧
      read2 [4, 15] = some (4, 15) ∧ read2 [3, 16] = some (3, 16) ∧
      (leaving.tline 3).slot.map TermSlot.address ≠ some 14 ∧ leaving.fu.job ≠ some (.terminal 3 14 .idle .kept) :=
  ⟨readied_ready _ _ _, by decide, by decide, by decide +kernel, by decide⟩

theorem witness_RoundsBeginAndEnd :
    (let s := lined desk { TermLine.cold with poll := .continuous }
     (s.tline 3).round = none ∧ (s.term (termNo 3 15)).state ≠ .vacant ∧ (s.tline 3).poll = .continuous) ∧
      ((lined { desk with outBlock := some .idle } TermLine.cold).term (termNo 3 15)).outBlock ≠ none ∧
      ((lined desk { TermLine.cold with attention := true }).tline 3).attention = true ∧
      ((lined desk TermLine.cold).tline 3).poll = .quiet ∧
      ({ TermLine.cold with round := some { last := none, wide := false } } : TermLine).round ≠ none ∧
      (slotted desk (.poll true)).resetAsserted = false ∧ ((slotted desk (.poll true)).tline 3).slot ≠ none := by
  decide +kernel

/-- A round that visits address 15 next, its block waiting, and one that finds only a SILENT terminal and is not wide. -/
theorem witness_RoundsBeginAndEnd_slots :
    (let s := lined { desk with outBlock := some .idle } { TermLine.cold with round := some { last := some 14, wide := false } }
     (s.tline 3).round = some { last := some 14, wide := false } ∧ (s.tline 3).slot = none ∧ 15 < 16 ∧ 14 < 15 ∧
       (s.term (termNo 3 15)).state = .active ∧ (s.term 63).outBlock = some .idle ∧ (s.term 63).served = true) ∧
      (let s := lined { desk with state := .silent } { TermLine.cold with round := some { last := none, wide := false } }
       (s.tline 3).round = some { last := none, wide := false } ∧
         ∀ a, a < 16 → (s.term (termNo 3 a)).state = .vacant ∨ (s.term (termNo 3 a)).state = .silent) := by decide +kernel

theorem witness_SlotOutcomes :
    (slotted desk (.poll true)).answersSlot 3 (slot15 (.poll true)) (said true none) ∧
      ((slotted { desk with retry := 7 } (.output false .idle)).term 63).served = true ∧
      (said false none).ack = false ∧ (said true none).request = none ∧
      (let s := slotted { desk with retry := 7 } (.output false .idle)
       ¬(s.term 63).retry + 1 < 2 * (s.tline 3).retryLimit) ∧
      (let s := slotted { desk with retry := 6 } (.poll true)
       (s.term 63).retry + 1 < 2 * (s.tline 3).retryLimit) ∧
      ((slotted { desk with state := .silent } (.poll true)).term 63).state = .silent ∧
      ((slotted { desk with state := .joining } (.poll true)).term 63).state = .joining ∧
      (floor.tline 3).slot = none ∧ (said true none).address ≠ 14 ∧
      ({ slot15 (.poll true) with ignored := true } : TermSlot).ignored = true :=
  ⟨slotted_answersSlot _ _ _ _, by decide +kernel, rfl, rfl, by decide +kernel, by decide +kernel, by decide +kernel,
    by decide +kernel, by decide +kernel, by decide, rfl⟩

/-- An ACK that delivers a REPLY block, and one that delivers the BELL of alert 3; a terminal about to be silenced with each of
these as its out-block, while a job of its own is in flight. -/
theorem witness_SlotOutcomes_blocks :
    let reply : Block := .reply { kind := some .page, symbol := none, slot := none, page := some 1, code := .accepted
                                  detail := .none }
    let bell : Block := .bell { slot := 3, symbol := ['X', 'R', 'B'], price := [], size := [], hours := 0, minutes := 0
                                seconds := 0, conditions := Alert.cold.conditions }
    let t : Terminal := ({ desk with
      retry := 7, outBlock := some bell, record := { RequestRecord.cold with state := .sent } } : Terminal).setAlert 3
        { Alert.cold with state := .fired, marked := true }
    (∀ b ∈ [reply, bell], (slotted { t with outBlock := some b } (.output false b)).answersSlot 3 (slot15 (.output false b))
        (said true none)) ∧
      t.served = true ∧ (t.alert 3).marked = true ∧ t.record.state = .sent ∧
      ¬t.retry + 1 < 2 * ((slotted t (.poll false)).tline 3).retryLimit ∧
      (working (.terminal 3 15 .idle .kept)).fu.job = some (.terminal 3 15 .idle .kept) :=
  ⟨fun _ _ => slotted_answersSlot _ _ _ _, by decide +kernel⟩

/-- A request that is taken and one that is not; a request of no kind, a page above 1, a position above 23, an unknown symbol,
an alert slot above 3. -/
theorem witness_DealerRequestIsTaken :
    let t : Terminal := { desk with readySent := false }
    (slotted desk (.poll true)).answersSlot 3 (slot15 (.poll true)) (said true (some (ask .page))) ∧
      ((slotted desk (.poll true)).term (termNo 3 15)).readySent = true ∧
      ((slotted t (.poll false)).term (termNo 3 15)).readySent = false ∧
      ({ ask .page with kind := none }).kind = none ∧ ({ ask .page with page := some 2 }).page = some 2 ∧
      ({ ask .watchAdd with position := some 24 }).position = some 24 ∧
      (∀ i, i < 1024 → (['K', 'L', 'M'], i) ∉ floor.directory) ∧ ({ ask .alertClear with slot := some 4 }).slot = some 4 ∧
      (ask .page).kind ≠ some .resync :=
  ⟨slotted_answersSlot _ _ _ _, by decide +kernel, by decide +kernel, rfl, rfl, rfl, 
    fun i _ h => by
      have : floor.directory = [(['X', 'R', 'B'], 12)] := rfl
      simp [this] at h, rfl, by decide⟩

/-! ### Witnesses: dealer requests and referral windows -/

theorem witness_AlertClearEmptiesTheEntry :
    (slotted desk (.poll true)).handsOver 3 (slot15 (.poll true)) (said true (some (ask .alertClear))) (ask .alertClear) ∧
      (ask .alertClear).kind = some .alertClear ∧ (ask .alertClear).slot = some 3 :=
  ⟨slotted_handsOver _ _ _ _ rfl, rfl, rfl⟩

theorem witness_PageResyncAndDrop :
    (∀ k, (slotted desk (.poll true)).handsOver 3 (slot15 (.poll true)) (said true (some (ask k))) (ask k)) ∧
      (ask .page).page = some 1 ∧ (ask .resync).kind = some .resync ∧ (ask .watchDrop).symbol = some ['X', 'R', 'B'] ∧
      lookup ['X', 'R', 'B'] (slotted desk (.poll true)).directory = some 12 ∧
      ((slotted desk (.poll true)).entry 12).stale (slotted desk (.poll true)).dayNumber = false ∧
      desk.watchList[0]? = some 12 ∧ 12 ∉ Terminal.cold.watchList :=
  ⟨fun _ => slotted_handsOver _ _ _ _ rfl, rfl, rfl, rfl, by decide +kernel, by decide +kernel, rfl, by decide⟩

/-- The terminal's request finds XRB stale: for every dealer request that looks a symbol up. -/
theorem witness_dealer_stale :
    let s := (slotted desk (.poll true)).setEntry 12 (floor.entry 13)
    (∀ k, s.handsOver 3 (slot15 (.poll true)) (said true (some (ask k))) (ask k)) ∧
      lookup ['X', 'R', 'B'] s.directory = some 12 ∧ (s.entry 12).stale s.dayNumber = true :=
  ⟨fun _ => ⟨⟨rfl, rfl, rfl, by decide, rfl, rfl⟩, rfl, by decide +kernel⟩, by decide +kernel⟩

theorem witness_DealerRequestsAreCarriedOut :
    (let t : Terminal := { desk with exempt := true, watchList := List.range' 100 23 }
     let s := slotted t (.poll true)
     s.handsOver 3 (slot15 (.poll true)) (said true (some (ask .watchAdd))) (ask .watchAdd) ∧
       (s.term (termNo 3 15)).exempt = true ∧ (ask .watchAdd).symbol = some ['X', 'R', 'B'] ∧
       lookup ['X', 'R', 'B'] s.directory = some 12 ∧ (s.entry 12).stale s.dayNumber = false ∧
       (ask .watchAdd).position = some 23 ∧ 12 ∉ (s.term (termNo 3 15)).watchList ∧
       (s.term (termNo 3 15)).watchList.length < 24) ∧
      24 ≤ (List.range' 100 24).length ∧ 12 ∈ desk.watchList ∧
      (∀ w, w < 4 → (floor.window w).restricts .quote 12 = false) ∧
      ((ask .alertSet).slot = some 3 ∧ checkConditions (floor.entry 12).denom (ask .alertSet) =
          some { above := some 2904, below := none, minSize := some 9999999 }) ∧
      checkConditions (floor.entry 12).denom { ask .alertSet with minSize := some { enabled := true, value := 0 } } =
        none ∧ (floor.entry 12).denom ∈ [8, 16, 32, 64] :=
  ⟨⟨slotted_handsOver _ _ _ _ rfl, by decide +kernel⟩, by decide +kernel⟩

theorem witness_ReferralHoldsOrWaits :
    (let s := (slotted { desk with watchList := [] } (.poll true)).setWindow 3 wide
     s.handsOver 3 (slot15 (.poll true)) (said true (some (ask .watchAdd))) (ask .watchAdd) ∧
       (s.term (termNo 3 15)).exempt = false ∧ (s.window 3).restricts .watch 12 = true ∧
       (∀ v, v < 3 → (s.window v).restricts .watch 12 = false) ∧ (s.window 3).slot = none ∧
       12 ∉ (s.term (termNo 3 15)).watchList ∧ (s.term (termNo 3 15)).watchList.length < 24) ∧
      (((slotted desk (.poll true)).setWindow 3 { wide with slot := some heldQuote }).window 3).slot ≠ none :=
  ⟨⟨⟨⟨rfl, rfl, rfl, by decide, rfl, rfl⟩, rfl, by decide +kernel⟩, by decide +kernel⟩, by decide +kernel⟩

theorem witness_GrantCarriesOut :
    (readied leaving .referAnswer [3, 0]).ready .referAnswer (req .referAnswer [3, 0]) [] ∧
      read2 [3, 0] = some (3, 0) ∧ (leaving.window 3).slot = some heldQuote ∧
      (leaving.term (termNo 3 15)).record.request = some (ask .quoteAsk) ∧ heldQuote.kind = .quote ∧
      read2 [4, 1] = some (4, 1) ∧ (floor.window 3).slot = none ∧
      (heldQuote.index ∈ (leaving.term 63).watchList ∧ heldQuote.index ∉ Terminal.cold.watchList ∧
        ({ heldQuote with kind := .watch }).kind = .watch) ∧
      (({ heldQuote with kind := .alert }).kind = .alert ∧
        (checkConditions (floor.entry 12).denom (ask .alertSet)).isSome = true ∧
        checkConditions (floor.entry 12).denom { ask .alertSet with above := none } = none) :=
  ⟨readied_ready _ _ _, by decide, by decide +kernel, by decide +kernel, rfl, by decide, by decide +kernel,
    by decide +kernel, by decide +kernel⟩

theorem witness_DenyGivesDenied :
    (readied leaving .referAnswer [3, 1]).ready .referAnswer (req .referAnswer [3, 1]) [] ∧
      read2 [3, 1] = some (3, 1) ∧ (leaving.window 3).slot = some heldQuote :=
  ⟨readied_ready _ _ _, by decide, by decide +kernel⟩

/-! ### Witnesses: queries, restart, start-up -/

theorem witness_QueriesReport :
    readIndex [4, 0] = some 1024 ∧ (readied floor .askStatus [5]).ready .askStatus (req .askStatus [5]) [] ∧ read1 [6] = some 6 ∧
      (readied floor .askInstrument [3, 0xFF]).ready .askInstrument (req .askInstrument [3, 0xFF]) [] ∧
      readIndex [3, 0xFF] = some 1023 ∧ (floor.entry 1023).stale floor.dayNumber = false ∧
      readIndex [0, 13] = some 13 ∧ (floor.entry 13).stale floor.dayNumber = true ∧
      (readied floor .askRibbon [1]).ready .askRibbon (req .askRibbon [1]) [] ∧ 1 < 2 ∧
      (readied floor .askCell [7, 63]).ready .askCell (req .askCell [7, 63]) [] ∧ read2 [7, 63] = some (7, 63) ∧
      (readied floor .askTerminal [3, 16]).ready .askTerminal (req .askTerminal [3, 16]) [] ∧
      (readied floor .askCounters []).ready .askCounters (req .askCounters []) [] ∧
      (readied floor .clearCounters []).ready .clearCounters (req .clearCounters []) [] :=
  ⟨by decide, readied_ready _ _ _, by decide, readied_ready _ _ _, by decide, by decide +kernel, by decide,
    by decide +kernel, readied_ready _ _ _, by decide, readied_ready _ _ _, by decide, readied_ready _ _ _,
    readied_ready _ _ _, readied_ready _ _ _⟩

/-- A request of every kind whose items fit their fields, a held one, and the reply to an entry that is free. -/
theorem witness_QueriesReport_items :
    (∀ k, (ask k).kind = some k ∧ (ask k).page = some 1 ∧ (ask k).symbol = some ['X', 'R', 'B'] ∧ (ask k).slot = some 3) ∧
      (∀ c ∈ ['X', 'R', 'B'], c.toNat < 256) ∧ (2905 < 2 ^ 24 ∧ 9999999 < 2 ^ 24) ∧
      (leaving.term (termNo 3 15)).record.request = some (ask .quoteAsk) ∧ (leaving.window 3).slot = some heldQuote ∧
      Entry.cold.status = .free ∧ xrb.status ≠ .free :=
  ⟨fun _ => ⟨rfl, rfl, rfl, rfl⟩, by simp, by norm_num, by decide +kernel, by decide +kernel, rfl, by decide⟩

/-- TABLE 11-2, 1.11.1: the board text 45 3/8, WHITE, flashing, byte by byte. -/
theorem test_board_text_bytes :
    boardTextBytes (some (withAttributes .white true [.plain '4', .plain '5', .glyph 6])) =
      [3, 0x34, 4, 0x35, 4, 0x86, 4] := by decide +kernel

theorem witness_RestartBringsEveryBlockBack :
    (readied leaving .restart []).ready .restart (req .restart []) [] ∧ (req .restart []).body = [] ∧
      (leaving.term (termNo 3 15)).state ≠ .vacant ∧ (leaving.term (termNo 0 0)).state = .vacant ∧
      (∀ x ∈ [LineState.off, .lit, .dark], ((framing 0 .sense x).line 7).state = x) ∧
      ((framing 0 .sense .lit).line 7).enabled.head? = some 0 ∧
      ((framing 0 .sense .lit).line 7).enabled.Pairwise (· < ·) :=
  ⟨readied_ready _ _ _, rfl, by decide +kernel, by decide +kernel, by decide +kernel, by decide +kernel, by decide +kernel⟩

/-- A SLOT record for cell 4/12 that names the index it is bound to. -/
theorem witness_LayoutRecordsAreTaken_same :
    (floor.cell (cellNo 4 12)).binding = some (256 * (0 : Byte).toNat + (12 : Byte).toNat) ∧ (0 : Byte) ≠ 0xFF := by
  decide +kernel

theorem witness_LayoutRecordsAreTaken :
    State.reset.loader.result = .inProgress ∧ State.reset.loader.pos = 0 ∧
      ({ Loader.cold with pos := 510 } : Loader).pos ≠ 511 ∧ ({ Loader.cold with pos := 511 } : Loader).pos = 511 ∧
      ((0x01 : Byte).toNat + (7 : Byte).toNat + (64 : Byte).toNat + (15 : Byte).toNat + (20 : Byte).toNat + 0 + 0) % 256 =
        (0x6B : Byte).toNat ∧
      ((0x02 : Byte).toNat + (7 : Byte).toNat + (63 : Byte).toNat + (10 : Byte).toNat + (7 : Byte).toNat +
        (3 : Byte).toNat + (0xFF : Byte).toNat) % 256 = (0x5B : Byte).toNat ∧
      fieldOf (7 : Byte).toNat = some .close ∧ (3 : Byte).toNat ≤ 3 ∧
      (0x04 : Byte) ≠ 0x01 ∧ (0x04 : Byte) ≠ 0x02 ∧ (0x04 : Byte) ≠ 0x03 ∧ (0x04 : Byte).toNat % 256 = (4 : Byte).toNat ∧
      (¬(64 : Byte).toNat ≤ 63 ∧ (0x02 : Byte).toNat + 0 + (64 : Byte).toNat = (0x42 : Byte).toNat) ∧
      (¬8 ≤ (7 : Byte).toNat ∧ (0x01 : Byte).toNat + 0 + (7 : Byte).toNat + 0 + (5 : Byte).toNat = (0x0D : Byte).toNat) ∧
      (0x03 : Byte).toNat % 256 = (3 : Byte).toNat ∧ ¬(0x03 : Byte).toNat % 256 = (4 : Byte).toNat := by decide

end Sys2Proof.Tests
end

section
/-! Proofs: prices, sizes and digits (chapter 1). -/

namespace Sys2Proof.Machine

/-! ### The grid (R1, R3) -/

/-- R1: a price from the lowest grid price on is stored as the nearest grid price below it. -/
theorem checkPrice_accepted {d p : Nat} (hg : 0 < gridStep d) (h1 : gridStep d ≤ p) (h2 : p ≤ 639999) :
    checkPrice d p = some (snap d p, decide (snap d p ≠ p)) := by
  have hs : snap d p ≠ 0 := (Nat.mul_pos (Nat.div_pos h1 hg) hg).ne'
  unfold checkPrice
  rw [if_neg (by simp only [Config.maxPrice]; omega), if_neg hs]

/-- R1: 0, a price above the highest, and one below the lowest grid price are refused. -/
theorem checkPrice_refused {d p : Nat} (h : p = 0 ∨ 639999 < p ∨ p < gridStep d) : checkPrice d p = none := by
  unfold checkPrice
  split_ifs with h1 h2
  · rfl
  · rfl
  · have hp : p < gridStep d := by simp only [Config.maxPrice] at h1; omega
    exact absurd (show snap d p = 0 by simp [snap, Nat.div_eq_of_lt hp]) h2

theorem gridStep_pos {d : Nat} (hd : d = 8 ∨ d = 16 ∨ d = 32 ∨ d = 64) : 0 < gridStep d := by
  rcases hd with rfl | rfl | rfl | rfl <;> decide

theorem snap_le (d p : Nat) : snap d p ≤ p := Nat.div_mul_le_self ..

theorem lt_snap_add {d : Nat} (hg : 0 < gridStep d) (p : Nat) : p < snap d p + gridStep d := by
  have := Nat.lt_div_mul_add (a := p) hg
  simpa [snap] using this

theorem snap_mod (d p : Nat) : snap d p % gridStep d = 0 := Nat.mul_mod_left ..

/-- Settles O15: a price is refused, or stored as its grid price (`snap`); a size is refused, kept or clamped. -/
theorem pricesAndSizesAreChecked : Obligations.PricesAndSizesAreChecked := by
  refine ⟨fun d hd p => ⟨checkPrice_refused, fun h1 h2 => ?_⟩, fun z => ⟨?_, fun h1 h2 => ?_, fun h => ?_⟩⟩
  · have hg := gridStep_pos hd
    exact ⟨snap d p, _, checkPrice_accepted hg h1 h2, snap_le d p, lt_snap_add hg p, snap_mod d p, decide_eq_true_iff⟩
  · rintro rfl; rfl
  · rw [checkSize, if_neg (by omega), if_neg (by simp only [Config.maxSize]; omega)]
  · rw [checkSize, if_neg (by omega), if_pos (show Config.maxSize < z from h)]; rfl

/-! ### Digits -/

/-- The digits of a number are the library's, highest first. -/
theorem digitsOnto_eq (fuel n : Nat) (acc : List Char) (hn : n ≠ 0) (h : n < 10 ^ fuel) :
    digitsOnto fuel n acc = (Nat.digits 10 n).reverse.map digitChar ++ acc := by
  induction fuel generalizing n acc with
  | zero => simp at h; omega
  | succ fuel ih =>
    rw [digitsOnto, Nat.digits_def' (by norm_num) (Nat.pos_of_ne_zero hn)]
    split_ifs with h0
    · simp [h0]
    · rw [ih _ _ h0 (by rw [pow_succ] at h; omega)]
      simp

theorem digits_eq {n : Nat} (hn : n ≠ 0) (h : n < 10 ^ 20) : digits n = (Nat.digits 10 n).reverse.map digitChar := by
  rw [digits, digitsOnto_eq 20 n [] hn h, List.append_nil]

theorem digits_zero : digits 0 = ['0'] := by decide

theorem digitChar_toNat {d : Nat} (h : d < 10) : (digitChar d).toNat = 48 + d := by
  interval_cases d <;> rfl

theorem digitChar_range {d : Nat} (h : d < 10) : '0' ≤ digitChar d ∧ digitChar d ≤ '9' := by
  interval_cases d <;> decide

/-- The number that decimal characters stand for. -/
theorem foldl_digitChar (l : List Nat) (h : ∀ d ∈ l, d < 10) :
    (l.reverse.map digitChar).foldl (fun n c => n * 10 + (c.toNat - 48)) 0 = Nat.ofDigits 10 l := by
  induction l with
  | nil => rfl
  | cons d l ih =>
    obtain ⟨hd, hl⟩ := List.forall_mem_cons.1 h
    rw [List.reverse_cons, List.map_append, List.foldl_append, ih hl]
    simp only [List.map_cons, List.map_nil, List.foldl_cons, List.foldl_nil, digitChar_toNat hd, Nat.ofDigits_cons]
    omega

/-- The digits of a number other than 0 are its decimal numeral, without a leading 0. -/
theorem digits_numeral {n : Nat} (hn : n ≠ 0) (h : n < 10 ^ 20) :
    (digits n).foldl (fun n c => n * 10 + (c.toNat - 48)) 0 = n ∧ (∀ c ∈ digits n, '0' ≤ c ∧ c ≤ '9') ∧
      (digits n).head? ≠ some '0' := by
  have lt : ∀ d ∈ Nat.digits 10 n, d < 10 := fun d => Nat.digits_lt_base (by norm_num)
  rw [digits_eq hn h]
  refine ⟨by rw [foldl_digitChar _ lt, Nat.ofDigits_digits], fun c hc => ?_, ?_⟩
  · obtain ⟨d, hd, rfl⟩ := List.mem_map.1 hc
    exact digitChar_range (lt d (List.mem_reverse.1 hd))
  · have hne : Nat.digits 10 n ≠ [] := Nat.digits_ne_nil_iff_ne_zero.2 hn
    rw [List.head?_map, List.head?_reverse, List.getLast?_eq_some_getLast hne]
    intro e
    have e' : (digitChar ((Nat.digits 10 n).getLast hne)).toNat = 48 := by
      rw [Option.some.inj e]; rfl
    rw [digitChar_toNat (lt _ (List.getLast_mem hne))] at e'
    exact Nat.getLast_digit_ne_zero 10 hn (by omega)

/-- A number below `10 ^ k` has at most `k` digits. -/
theorem digits_length_le {n k : Nat} (hk : 0 < k) (h : n < 10 ^ k) (hk' : k ≤ 20) : (digits n).length ≤ k := by
  rcases eq_or_ne n 0 with rfl | hn
  · rw [digits_zero]; exact hk
  · rw [digits_eq hn (h.trans_le (Nat.pow_le_pow_right (by norm_num) hk')), List.length_map, List.length_reverse,
      Nat.digits_length_le_iff (by norm_num)]
    exact h

theorem digits_length_pos (n : Nat) : 1 ≤ (digits n).length := by
  have onto : ∀ fuel m (acc : List Char), 1 ≤ acc.length → 1 ≤ (digitsOnto fuel m acc).length := by
    intro fuel
    induction fuel with
    | zero => intro m acc h; exact h
    | succ fuel ih =>
      intro m acc h
      rw [digitsOnto]
      split_ifs
      · simp
      · exact ih _ _ (by simp)
  rw [digits, digitsOnto]
  split_ifs
  · simp
  · exact onto _ _ _ (by simp)

/-! ### Board volume text (R13) -/

/-- R13: the first form that fits, of the digits, the K form and the M form. -/
theorem boardVolume_cases (w v : Nat) :
    let k := digits (v / 1000) ++ ['K']
    ((digits v).length ≤ w → boardVolume w v = Formed.plain (rightJustify (.plain ' ') w (boardChars (digits v)))) ∧
    (w < (digits v).length → 1000 ≤ v → k.length ≤ w →
      boardVolume w v = Formed.plain (rightJustify (.plain ' ') w (boardChars k))) ∧
    (w < (digits v).length → (v < 1000 ∨ w < k.length) → 100000 ≤ v → (millionsForm v).length ≤ w →
      boardVolume w v = Formed.plain (rightJustify (.plain ' ') w (boardChars (millionsForm v)))) ∧
    (w < (digits v).length → (v < 1000 ∨ w < k.length) → (v < 100000 ∨ w < (millionsForm v).length) →
      boardVolume w v = Formed.dashes w) := by
  intro k
  have hk : k.length = (digits (v / 1000)).length + 1 := by simp [k]
  rw [hk]
  refine ⟨fun h => ?_, fun h h1 h2 => ?_, fun h h1 h2 h3 => ?_, fun h h1 h2 => ?_⟩ <;> unfold boardVolume
  · rw [if_pos h]
  · rw [if_neg (by omega), if_pos ⟨h1, h2⟩]
  · rw [if_neg (by omega), if_neg (by omega), if_pos ⟨h2, h3⟩]
  · rw [if_neg (by omega), if_neg (by omega), if_neg (by omega)]

/-- Settles O38: the four cases are those of `boardVolume_cases`, the lengths those of the digits of the figures. -/
theorem boardVolumeText : Obligations.BoardVolumeText := by
  intro w e hv v f value full k m shows
  obtain ⟨c1, c2, c3, c4⟩ := boardVolume_cases w v
  have plain : ∀ t : Text, boardVolume w v = Formed.plain (rightJustify (.plain ' ') w (boardChars t)) → shows t := by
    intro t h
    simp only [shows, f, fieldForm]
    rw [h]
    exact ⟨by simp [Formed.plain, rightJustify, boardChars], rfl⟩
  have lengths : ∀ n j, n < 10 ^ j → 0 < j → j ≤ 20 → 1 ≤ (digits n).length ∧ (digits n).length ≤ j :=
    fun n j h1 h2 h3 => ⟨digits_length_pos n, digits_length_le h2 h1 h3⟩
  refine ⟨fun n hn => ?_, lengths v 8 (by omega) (by omega) (by omega), fun h => ?_, fun h => ?_, fun h => plain _ (c1 h),
    fun h h1 h2 => plain _ (c2 h h1 h2), fun h h1 h2 h3 => plain _ (c3 h h1 h2 h3), fun h h1 h2 => ?_⟩
  · rcases eq_or_ne n 0 with rfl | h0
    · exact .inr ⟨rfl, digits_zero⟩
    · exact .inl (digits_numeral h0 (by omega))
  · have := lengths (v / 1000) 5 (by omega) (by omega) (by omega)
    simp only [k, List.length_append, List.length_singleton]; omega
  · have whole := lengths (v / 100000 / 10) 2 (by omega) (by omega) (by omega)
    have tenth := lengths (v / 100000 % 10) 1 (by omega) (by omega) (by omega)
    simp only [m, List.length_append, List.length_cons, List.length_nil]; omega
  · simp only [f, fieldForm]
    rw [c4 h h1 h2]
    exact ⟨rfl, rfl⟩

end Sys2Proof.Machine
end

section
/-! Proofs: requests of the wrong shape (R197, TABLE 11-3). -/

namespace Sys2Proof.Machine

/-! ### What the readers of bodies do not read -/

theorem readNone_unread {l : List Byte} (h : l.length ≠ 0) : readNone l = none := by
  unfold readNone; split <;> simp_all

theorem read1_unread {l : List Byte} (h : l.length ≠ 1) : read1 l = none := by
  unfold read1; split <;> simp_all

theorem read2_unread {l : List Byte} (h : l.length ≠ 2) : read2 l = none := by
  unfold read2; split <;> simp_all

theorem readIndex_unread {l : List Byte} (h : l.length ≠ 2) : readIndex l = none := by
  unfold readIndex; split <;> simp_all

theorem readList_unread {l : List Byte} (h : l.length ≠ 12) : readList l = none := by
  unfold readList; split <;> simp_all

theorem readTrade_unread {l : List Byte} (h : l.length ≠ 8) : readTrade l = none := by
  unfold readTrade; split <;> simp_all

theorem readQuote_unread {l : List Byte} (h : l.length ≠ 14) : readQuote l = none := by
  unfold readQuote; split <;> simp_all

theorem readCloseSet_unread {l : List Byte} (h : l.length ≠ 5) : readCloseSet l = none := by
  unfold readCloseSet; split <;> simp_all

theorem readTimeSet_unread {l : List Byte} (h : l.length ≠ 7) : readTimeSet l = none := by
  unfold readTimeSet; split <;> simp_all

theorem readSchedSet_unread {l : List Byte} (h : l.length ≠ 10) : readSchedSet l = none := by
  unfold readSchedSet; split <;> simp_all

theorem readBind_unread {l : List Byte} (h : l.length ≠ 6) : readBind l = none := by
  unfold readBind; split <;> simp_all

theorem readLineSet_unread {l : List Byte} (h : l.length ≠ 14) : readLineSet l = none := by
  unfold readLineSet; split <;> simp_all

theorem readRibbonSet_unread {l : List Byte} (h : l.length ≠ 11) : readRibbonSet l = none := by
  unfold readRibbonSet; split <;> simp_all

theorem readTermAdmit_unread {l : List Byte} (h : l.length ≠ 3) : readTermAdmit l = none := by
  unfold readTermAdmit; split <;> simp_all

theorem readTLineSet_unread {l : List Byte} (h : l.length ≠ 6) : readTLineSet l = none := by
  unfold readTLineSet; split <;> simp_all

theorem readWindowSet_unread {l : List Byte} (h : l.length ≠ 7) : readWindowSet l = none := by
  unfold readWindowSet; split <;> simp_all

/-- R197: a HOLD shorter than its five items, or longer or shorter than its text count says. -/
theorem readHold_unread {l : List Byte} (h : l.length < 5 ∨ l.length ≠ 5 + (l.getD 4 0).toNat) : readHold l = none := by
  unfold readHold
  split
  · next a b c d n text =>
    refine if_neg fun e => ?_
    simp only [List.length_cons, List.getD_cons_succ, List.getD_cons_zero] at h
    omega
  · rfl

/-- TABLE 11-2: three bytes are the absent marker when each is 0xFF. -/
theorem markedOf_eq_none_iff {l : List Byte} (h : l.length = 3) : markedOf l = none ↔ l = [0xFF, 0xFF, 0xFF] := by
  obtain ⟨a, b, c, rfl⟩ := List.length_eq_three.1 h
  have number : markedOf [a, b, c] = none ↔ (a.toNat * 256 + b.toNat) * 256 + c.toNat = 0xFFFFFF := by
    simp [markedOf, numberOf]
  have ha := a.isLt
  have hb := b.isLt
  have hc := c.isLt
  rw [number]
  have full : (0xFF : Byte).toNat = 255 := rfl
  simp only [List.cons.injEq, and_true, ← BitVec.toNat_inj, full]
  omega

/-- R3: a TRADE whose price or size is the absent marker. -/
theorem readTrade_absent {index price size : List Byte} (hi : index.length = 2) (hp : price.length = 3)
    (hz : size.length = 3) (h : markedOf price = none ∨ markedOf size = none) :
    readTrade (index ++ price ++ size) = none := by
  obtain ⟨i1, i0, rfl⟩ := List.length_eq_two.1 hi
  obtain ⟨p2, p1, p0, rfl⟩ := List.length_eq_three.1 hp
  obtain ⟨z2, z1, z0, rfl⟩ := List.length_eq_three.1 hz
  simp only [List.cons_append, List.nil_append, readTrade]
  rcases h with h | h <;> rw [h]
  cases markedOf [p2, p1, p0] <;> rfl

/-- R3: a side with its price or its size alone is half-present. -/
theorem sideOf_eq_none_iff (price size : Option Nat) : sideOf price size = none ↔ ¬(price = none ↔ size = none) := by
  cases price <;> cases size <;> simp [sideOf]

/-- R3: a QUOTE with a side half-present. -/
theorem readQuote_half {index bid bidSize ask askSize : List Byte} (hi : index.length = 2) (hb : bid.length = 3)
    (hbz : bidSize.length = 3) (ha : ask.length = 3) (haz : askSize.length = 3)
    (h : sideOf (markedOf bid) (markedOf bidSize) = none ∨ sideOf (markedOf ask) (markedOf askSize) = none) :
    readQuote (index ++ bid ++ bidSize ++ ask ++ askSize) = none := by
  obtain ⟨i1, i0, rfl⟩ := List.length_eq_two.1 hi
  obtain ⟨p2, p1, p0, rfl⟩ := List.length_eq_three.1 hb
  obtain ⟨z2, z1, z0, rfl⟩ := List.length_eq_three.1 hbz
  obtain ⟨q2, q1, q0, rfl⟩ := List.length_eq_three.1 ha
  obtain ⟨y2, y1, y0, rfl⟩ := List.length_eq_three.1 haz
  simp only [List.cons_append, List.nil_append, readQuote]
  rcases h with h | h <;> rw [h]
  cases sideOf (markedOf [p2, p1, p0]) (markedOf [z2, z1, z0]) <;> rfl

/-! ### The refusal (R197, R198) -/

section
variable {s : State} {r : LinkFrame} {rest : List LinkFrame}

/-- R197: a head request whose body its reader does not read is refused MALFORMED. -/
theorem serve_unread {α : Type} {k : HostKind} (h : s.ready k r rest) {read : List Byte → Option α}
    (hr : read r.body = none) (rule : α → State → Served) :
    serve k read rule s = s.refusedHead r rest .malformed := by
  rw [serve_of_ready h, shaped_of_unread hr, endService_refuse]

/-- The same, for a command followed by the arbiter's decision. -/
theorem act_unread {α : Type} {k : HostKind} (h : s.ready k r rest) {read : List Byte → Option α}
    (hr : read r.body = none) (rule : α → State → Served) :
    act (serve k read rule) s = .next (finish s (s.refusedHead r rest .malformed)) := by
  rw [act_of_released h.1, serve_unread h hr]

/-- The same, for a command that no decision follows. -/
theorem actUndecided_unread {α : Type} {k : HostKind} (h : s.ready k r rest) {read : List Byte → Option α}
    (hr : read r.body = none) (rule : α → State → Served) :
    actUndecided (serve k read rule) s = .next (noteTogether s (s.refusedHead r rest .malformed)) := by
  rw [actUndecided_of_released h.1, serve_unread h hr]

/-- TABLE 11-3: a body of another length than its kind's. -/
theorem exec_of_wrongLength {k : HostKind} {n : Nat} (h : s.ready k r rest) (hk : k.bodyLength = some n)
    (hl : r.body.length ≠ n) : exec k.command s = .next (k.ends s (s.refusedHead r rest .malformed)) := by
  cases k <;> cases hk
  case list => exact act_unread h (readList_unread hl) _
  case delist => exact act_unread h (readIndex_unread hl) _
  case trade => exact act_unread h (readTrade_unread hl) _
  case quote => exact act_unread h (readQuote_unread hl) _
  case closeSet => exact act_unread h (readCloseSet_unread hl) _
  case halt => exact act_unread h (readIndex_unread hl) _
  case resume => exact act_unread h (readIndex_unread hl) _
  case sessionSet => exact act_unread h (read1_unread hl) _
  case timeSet => exact act_unread h (readTimeSet_unread hl) _
  case schedSet => exact act_unread h (readSchedSet_unread hl) _
  case bind => exact act_unread h (readBind_unread hl) _
  case unbind => exact act_unread h (read2_unread hl) _
  case release => exact act_unread h (read2_unread hl) _
  case lineSet => exact act_unread h (readLineSet_unread hl) _
  case lineWake => exact act_unread h (read1_unread hl) _
  case boardSet => exact act_unread h (read1_unread hl) _
  case ribbonSet => exact act_unread h (readRibbonSet_unread hl) _
  case formatSet => exact act_unread h (read1_unread hl) _
  case termAdmit => exact act_unread h (readTermAdmit_unread hl) _
  case termRetire => exact act_unread h (read2_unread hl) _
  case tlineSet => exact act_unread h (readTLineSet_unread hl) _
  case windowSet => exact act_unread h (readWindowSet_unread hl) _
  case referAnswer => exact act_unread h (read2_unread hl) _
  case askInstrument => exact act_unread h (readIndex_unread hl) _
  case clearCounters => exact act_unread h (readNone_unread hl) _
  case askStatus => exact actUndecided_unread h (read1_unread hl) _
  case askCell => exact actUndecided_unread h (read2_unread hl) _
  case askTerminal => exact actUndecided_unread h (read2_unread hl) _
  case askRibbon => exact actUndecided_unread h (read1_unread hl) _
  case askCounters => exact actUndecided_unread h (readNone_unread hl) _
  case restart => exact actUndecided_unread h (readNone_unread hl) _

theorem knownKind_eq_false {b : Byte} (h : ∀ k : HostKind, b ≠ k.code) : knownKind b = false := by
  unfold knownKind
  simpa using fun k _ => Ne.symm (h k)

/-- R197: a head request of a kind not of TABLE 11-3. -/
theorem serveUnknown_of_unknown (h2 : s.loader.result ≠ .inProgress) (h3 : s.link.inService = none)
    (h4 : s.link.replies.length < 4) (h5 : s.link.requests = r :: rest) (hk : ∀ k : HostKind, r.kind ≠ k.code) :
    serveUnknown s = s.refusedHead r rest .malformed := by
  have h4' : s.link.replies.length < Config.replyPlaces := h4
  simp [serveUnknown, serveHead, h5, mayServe, h2, h3, h4', knownKind_eq_false hk, endService_refuse]

end

/-- Settles O13: each wrong shape is one that its kind's reader does not read (`serve_unread`). -/
theorem wrongShapeIsMalformed : Obligations.WrongShapeIsMalformed := by
  refine ⟨⟨fun k n r rest s h hk hl => exec_of_wrongLength h hk hl,
    fun r rest s h hl => act_unread h (readHold_unread hl) _, fun r rest s h1 h2 h3 h4 h5 hk => ?_⟩, ?_⟩
  · rw [← serveUnknown_of_unknown h2 h3 h4 h5 hk]
    exact act_of_released h1 serveUnknown
  · intro r rest s index price size bid bidSize ask askSize absent hi hp hz hb hbz ha haz
    refine ⟨fun h hbody habs => act_unread h ?_ _, fun h hbody hhalf => act_unread h ?_ _⟩
    · rw [hbody]
      exact readTrade_absent hi hp hz (habs.imp (markedOf_eq_none_iff hp).2 (markedOf_eq_none_iff hz).2)
    · rw [hbody]
      refine readQuote_half hi hb hbz ha haz ?_
      simpa only [sideOf_eq_none_iff, markedOf_eq_none_iff hb, markedOf_eq_none_iff hbz, markedOf_eq_none_iff ha,
        markedOf_eq_none_iff haz] using hhalf

end Sys2Proof.Machine
end

section
/-! Proofs: the evaluation of a ribbon's mode (R122, R124). -/

namespace Sys2Proof.Machine

@[simp] theorem State.raise_counter (s : State) (n : NoticeItem) (c : Counter) : (s.raise n).counter c = s.counter c := by
  simp [State.counter]

/-- R122: a ribbon rises exactly when its projected lag has reached the next threshold. -/
theorem risen_eq_some_iff (r : Ribbon) (m : Mode) :
    risen r = some m ↔ ∃ up, riseTo r = some (m, up) ∧ up ≤ projectedLag r := by
  unfold risen
  cases riseTo r with
  | none => simp
  | some p => obtain ⟨k, up⟩ := p; simp [and_assoc, and_comm]

/-- R122: it does not when there is no next mode or its threshold is not reached. -/
theorem risen_eq_none_iff (r : Ribbon) :
    risen r = none ↔ ∀ m up, riseTo r = some (m, up) → projectedLag r < up := by
  unfold risen
  cases riseTo r with
  | none => simp
  | some p => obtain ⟨k, up⟩ := p; simp

/-- R122: a ribbon that does not rise falls exactly when its projected lag is below half the threshold after a dwell of 30. -/
theorem fallen_eq_some_iff (r : Ribbon) (m : Mode) :
    fallen r = some m ↔ ∃ half, fallTo r = some (m, half) ∧ projectedLag r < half ∧ r.dwell = 30 := by
  unfold fallen
  cases fallTo r with
  | none => simp
  | some p => obtain ⟨k, half⟩ := p; simp [and_assoc, and_comm]

theorem fallen_eq_none_iff (r : Ribbon) :
    fallen r = none ↔ ∀ m half, fallTo r = some (m, half) → projectedLag r < half → r.dwell ≠ 30 := by
  unfold fallen
  cases fallTo r with
  | none => simp
  | some p => obtain ⟨k, half⟩ := p; simp

/-- R122: an evaluation advances no counter but that of the rises. -/
theorem counter_evalMode (id : RibbonId) (s : State) {c : Counter} (h : c ≠ .rbModeRises) :
    (evalMode id s).counter c = s.counter c := by
  rcases evalMode_cases id s with ⟨-, -, e⟩ | ⟨m, -, e⟩ | ⟨m, -, -, e⟩ <;> rw [e]
  · simp [State.counter_count_other _ h]
  · simp

section
variable {id : RibbonId} {s : State}

/-- R122, R124: an evaluation that rises. -/
theorem evalMode_of_risen {m : Mode} (h : risen (s.ribbon id) = some m) :
    (evalMode id s).ribbon id = (s.ribbon id).rise m ∧
      (evalMode id s).counter .rbModeRises = min 4294967295 (s.counter .rbModeRises + 1) ∧
      Noticed [.ribbon id] s (evalMode id s) := by
  have e : evalMode id s = ((s.setRibbon id ((s.ribbon id).rise m)).count .rbModeRises).raise (.ribbon id) := by
    simp [evalMode, h]
  rw [e]
  exact ⟨by simp, by simp [Config.maxCounter], (noticed_raise _ _).of_notices (by simp) rfl⟩

/-- R122, R124: an evaluation that falls. -/
theorem evalMode_of_fallen {m : Mode} (h0 : risen (s.ribbon id) = none) (h : fallen (s.ribbon id) = some m) :
    (evalMode id s).ribbon id = (s.ribbon id).fall m ∧ (evalMode id s).counters = s.counters ∧
      Noticed [.ribbon id] s (evalMode id s) := by
  have e : evalMode id s = (s.setRibbon id ((s.ribbon id).fall m)).raise (.ribbon id) := by simp [evalMode, h0, h]
  rw [e]
  exact ⟨by simp, by simp, (noticed_raise _ _).of_notices (by simp) rfl⟩

/-- R122: an evaluation that keeps the mode changes nothing. -/
theorem evalMode_of_kept (h0 : risen (s.ribbon id) = none) (h : fallen (s.ribbon id) = none) : evalMode id s = s := by
  simp [evalMode, h0, h]

end

/-- Settles O45: the three outcomes of an evaluation, with the thresholds of the mode the ribbon is in. -/
theorem modeEvaluation : Obligations.ModeEvaluation := by
  intro id other s hne x lag u
  have off := evalMode_offered id s
  have kept : (∀ m up, riseTo x = some (m, up) → lag < up) → (∀ m half, fallTo x = some (m, half) → half ≤ lag) →
      u = s := fun h1 h2 => evalMode_of_kept ((risen_eq_none_iff x).2 h1)
        ((fallen_eq_none_iff x).2 fun m half h g => absurd (h2 m half h) (Nat.not_le.2 g))
  refine ⟨off.frame, off.other other hne, fun k hk => counter_evalMode id s (by simpa using hk),
    fun m next up hm hx hup => ?_, fun m before up hm hx hl ht hd => ?_, fun hx h => ?_, fun hx h g => ?_,
    fun hx h g => ?_, fun hx g => ?_⟩
  · have hr : riseTo x = some (next, up) := by
      simp only [List.mem_cons, List.not_mem_nil, or_false, Prod.mk.injEq] at hm
      rcases hm with ⟨rfl, rfl, rfl⟩ | ⟨rfl, rfl, rfl⟩ | ⟨rfl, rfl, rfl⟩ <;> simp [riseTo, hx]
    exact evalMode_of_risen ((risen_eq_some_iff x next).2 ⟨up, hr, hup⟩)
  · have hf : fallTo x = some (before, up / 2) ∧ ∀ k v, riseTo x = some (k, v) → lag < v := by
      simp only [List.mem_cons, List.not_mem_nil, or_false, Prod.mk.injEq] at hm
      rcases hm with ⟨rfl, rfl, rfl⟩ | ⟨rfl, rfl, rfl⟩ | ⟨rfl, rfl, rfl⟩
      · exact ⟨by simp [fallTo, hx], by simpa [riseTo, hx] using ht⟩
      · exact ⟨by simp [fallTo, hx], by simpa [riseTo, hx] using hd⟩
      · exact ⟨by simp [fallTo, hx], by simp [riseTo, hx]⟩
    obtain ⟨hf, hr⟩ := hf
    have h0 : risen x = none := (risen_eq_none_iff x).2 hr
    refine ⟨fun hdw => evalMode_of_fallen h0 ((fallen_eq_some_iff x before).2 ⟨_, hf, hl, hdw⟩), fun hdw => ?_⟩
    exact evalMode_of_kept h0 ((fallen_eq_none_iff x).2 fun _ _ _ _ => hdw)
  · exact kept (by simpa [riseTo, hx] using h) (by simp [fallTo, hx])
  · exact kept (by simpa [riseTo, hx] using h) (by simpa [fallTo, hx] using g)
  · exact kept (by simpa [riseTo, hx] using h) (by simpa [fallTo, hx] using g)
  · exact kept (by simp [riseTo, hx]) (by simpa [fallTo, hx] using g)

end Sys2Proof.Machine
end

section
/-! Proofs: what the shared parts of the feed requests do: a served request that is DONE, and the fan-out of a change (2.5). -/

namespace Sys2Proof.Machine

/-! ### A request that is DONE (R197, R198) -/

/-- R197, R198: a request of its kind that its rule answers with a result. The rule changes the link by notices alone. -/
theorem act_of_done {α : Type} {s v : State} {k : HostKind} {r : LinkFrame} {rest : List LinkFrame} {bytes : List Byte}
    {x : α} {read : List Byte → Option α} {rule : α → State → Served} (h : s.ready k r rest) (hr : read r.body = some x)
    (hd : rule x (beginService r rest s) = Served.reply bytes v)
    (hl : v.link = { (beginService r rest s).link with notices := v.link.notices }) :
    act (serve k read rule) s =
      .next (finish s { v with link := { s.link.replied r rest bytes with notices := v.link.notices } }) := by
  rw [act_of_released h.1, serve_of_ready h, shaped_of_read hr, hd]
  simp only [endService, Served.reply, putReply, State.setLink]
  rw [hl]
  rfl

section
variable (r : LinkFrame) (rest : List LinkFrame) (s : State)

@[simp] theorem beginService_entry (i : Nat) : (beginService r rest s).entry i = s.entry i := rfl
@[simp] theorem beginService_current (i : Nat) : (beginService r rest s).current i = s.current i := rfl
@[simp] theorem beginService_dayNumber : (beginService r rest s).dayNumber = s.dayNumber := rfl
@[simp] theorem beginService_session : (beginService r rest s).session = s.session := rfl
@[simp] theorem beginService_walkActive : (beginService r rest s).walkActive = s.walkActive := rfl
@[simp] theorem beginService_clock : (beginService r rest s).clock = s.clock := rfl
@[simp] theorem beginService_fu : (beginService r rest s).fu = s.fu := rfl
@[simp] theorem beginService_queues : (beginService r rest s).queues = s.queues := rfl
@[simp] theorem beginService_cells : (beginService r rest s).cells = s.cells := rfl
@[simp] theorem beginService_cell (c : Nat) : (beginService r rest s).cell c = s.cell c := rfl
@[simp] theorem beginService_terms : (beginService r rest s).terms = s.terms := rfl
@[simp] theorem beginService_term (n : Nat) : (beginService r rest s).term n = s.term n := rfl
@[simp] theorem beginService_window (w : Nat) : (beginService r rest s).window w = s.window w := rfl
@[simp] theorem beginService_entries : (beginService r rest s).entries = s.entries := rfl
@[simp] theorem beginService_counter (c : Counter) : (beginService r rest s).counter c = s.counter c := rfl
@[simp] theorem beginService_ribbon (id : RibbonId) : (beginService r rest s).ribbon id = s.ribbon id := by cases id <;> rfl
@[simp] theorem beginService_showsRow (i n row : Nat) :
    (beginService r rest s).showsRow i n row ↔ s.showsRow i n row := Iff.rfl
@[simp] theorem beginService_notices : (beginService r rest s).link.notices = s.link.notices := rfl

end

/-! ### Named reads of states that agree on a table -/

theorem entry_of_entries {s u : State} (h : u.entries = s.entries) (j : Nat) : u.entry j = s.entry j := by
  simp only [State.entry, h]

theorem cell_of_cells {s u : State} (h : u.cells = s.cells) (c : Nat) : u.cell c = s.cell c := by
  simp only [State.cell, h]

theorem term_of_terms {s u : State} (h : u.terms = s.terms) (n : Nat) : u.term n = s.term n := by
  simp only [State.term, h]

theorem counter_of_counters {s u : State} (h : u.counters = s.counters) (c : Counter) : u.counter c = s.counter c := by
  simp only [State.counter, h]

theorem ribbon_of_ribbons {s u : State} (ha : u.ribbonA = s.ribbonA) (hb : u.ribbonB = s.ribbonB) (id : RibbonId) :
    u.ribbon id = s.ribbon id := by
  cases id
  · exact ha
  · exact hb

/-! ### The same change seen from states that agree on what it reads -/

/-- R80: an offer of cells reads their needs_full flags and the queues alone. -/
theorem Offered.of_flags {cells : List Nat} {s s' u u' : State} (h : Offered cells s u)
    (hf : ∀ c, (s'.cell c).needsFull = (s.cell c).needsFull) (hs : s'.queues = s.queues) (hu : u'.queues = u.queues) :
    Offered cells s' u' := by
  have es : ∀ n, s'.refreshQueue n = s.refreshQueue n := fun n => by simp only [State.refreshQueue, hs]
  have eu : ∀ n, u'.refreshQueue n = u.refreshQueue n := fun n => by simp only [State.refreshQueue, hu]
  exact ⟨by simpa only [hf, eu] using h.queued, by simpa only [es, eu] using h.kept,
    by simpa only [hf, es, eu] using h.others, by simpa only [es, eu] using h.once⟩

theorem Offered.of_eq {cells : List Nat} {s s' u u' : State} (h : Offered cells s u) (hc : s'.cells = s.cells)
    (hs : s'.queues = s.queues) (hu : u'.queues = u.queues) : Offered cells s' u' :=
  h.of_flags (fun n => by simp only [State.cell, hc]) hs hu

/-- Offers made one after another, between which no needs_full flag changes. -/
theorem Offered.append_of_flags {a b : List Nat} {s t u : State} (h1 : Offered a s t) (h2 : Offered b t u)
    (hf : ∀ c, (t.cell c).needsFull = (s.cell c).needsFull) : Offered (a ++ b) s u := by
  have h1' : Offered a s { s with queues := t.queues } := h1.of_flags (fun _ => rfl) rfl rfl
  have h2' : Offered b { s with queues := t.queues } u := h2.of_flags (fun c => (hf c).symm) rfl rfl
  exact h1'.append h2' rfl

theorem RowsMarked.to_eq {i : Nat} {s u u' : State} (h : RowsMarked i s u) (hu : u'.terms = u.terms) :
    RowsMarked i s u' := by
  have eu : ∀ n, u'.term n = u.term n := fun n => by simp only [State.term, hu]
  exact ⟨by simpa only [eu] using h.grown, by simpa only [eu] using h.rows⟩

theorem PrintOffered.of_eq {takes : RibbonId → Bool} {body : PrintBody} {s s' u u' : State}
    (h : PrintOffered takes body s u) (hr : ∀ id, s'.ribbon id = s.ribbon id) (hc : s'.clock = s.clock)
    (hd : s'.counter .rbDropped = s.counter .rbDropped) (hm : s'.counter .rbModeRises = s.counter .rbModeRises)
    (ur : ∀ id, u'.ribbon id = u.ribbon id) (ud : u'.counter .rbDropped = u.counter .rbDropped)
    (um : u'.counter .rbModeRises = u.counter .rbModeRises) : PrintOffered takes body s' u' where
  kept := by simpa only [hr, ur] using h.kept
  queued := by simpa only [hr, ur, hc] using h.queued
  evaluated := fun id h1 h2 h3 => by
    rw [hr] at h2 h3
    rw [ur, h.evaluated id h1 h2 h3, hr, hc]
    exact evalMode_local id (by simp)
  full := fun id h1 h2 h3 => by
    rw [hr] at h2 h3
    rw [ur, h.full id h1 h2 h3, hc]
    exact offerPrint_local id body _ (hr id).symm
  dropped := by simpa only [State.advancedBy, hr, ud, hd] using h.dropped
  risen := by simpa only [State.advancedBy, hr, ur, um, hm] using h.risen

theorem modeNotices_of_eq {s s' u u' : State} (hs : ∀ id, s'.ribbon id = s.ribbon id)
    (hu : ∀ id, u'.ribbon id = u.ribbon id) : modeNotices s' u' = modeNotices s u := by
  simp only [modeNotices, hs, hu]

section
variable {r : LinkFrame} {rest : List LinkFrame} {s v : State} {l : Link}

/-- What the rule of a request in service offers, seen from the states before and after the service. -/
theorem Offered.served {cells : List Nat} (h : Offered cells (beginService r rest s) v) :
    Offered cells s { v with link := l } :=
  h.of_eq (beginService_cells ..).symm (beginService_queues ..).symm rfl

theorem RowsMarked.served {i : Nat} (h : RowsMarked i (beginService r rest s) v) : RowsMarked i s { v with link := l } :=
  (h.of_eq (beginService_terms ..) (by rw [beginService_entry])).to_eq rfl

theorem PrintOffered.served {takes : RibbonId → Bool} {body : PrintBody}
    (h : PrintOffered takes body (beginService r rest s) v) : PrintOffered takes body s { v with link := l } :=
  h.of_eq (fun id => (beginService_ribbon r rest s id).symm) (beginService_clock ..).symm (beginService_counter ..).symm
    (beginService_counter ..).symm (fun id => by cases id <;> rfl) rfl rfl

theorem modeNotices_served : modeNotices s { v with link := l } = modeNotices (beginService r rest s) v :=
  modeNotices_of_eq (fun id => (beginService_ribbon r rest s id).symm) (fun id => by cases id <;> rfl)

end

/-! ### The parts of a change's fan-out (R39, TABLE 2-3) -/

/-- R39, R80: the cells of an entry offered. -/
theorem fanCells_spec (i : Nat) (s : State) : Offered (s.entry i).cells s (fanCells i s) ∧
    fanCells i s = { s with queues := (fanCells i s).queues } :=
  ⟨(offered_forEach ..).1, forEach_offerCell_frame ..⟩

/-- R39, R160: the cells of an entry offered, and the rows that show it marked. -/
theorem fanCellsAndRows_spec (i : Nat) (s : State) :
    Offered (s.entry i).cells s (fanCellsAndRows i s) ∧ RowsMarked i s (fanCellsAndRows i s) ∧
      fanCellsAndRows i s = { s with queues := (fanCellsAndRows i s).queues, terms := (fanCellsAndRows i s).terms } := by
  obtain ⟨ho, hf⟩ := fanCells_spec i s
  obtain ⟨hm, hr⟩ := fanRows_marked i (fanCells i s)
  have hu : fanCellsAndRows i s = fanRows i (fanCells i s) := rfl
  rw [hu]
  refine ⟨ho.of_eq rfl rfl (by rw [hr]), hm.of_eq (by rw [hf]) (by rw [hf]; rfl), ?_⟩
  rw [hr, hf]

/-- R39, R81: for a trade, each cell of a list is marked as it is offered. -/
theorem forEach_markOffer_spec (cells : List Nat) (s : State) :
    let u := forEach cells (fun c s => offerCell false c (markTrade c s)) s
    Offered cells s u ∧ (∀ c, u.cell c = if c ∈ cells then { s.cell c with tradeMark := true } else s.cell c) ∧
      u = { s with cells := u.cells, queues := u.queues } := by
  induction cells generalizing s with
  | nil => exact ⟨.refl s _ rfl, fun c => rfl, rfl⟩
  | cons d l ih =>
    obtain ⟨h1, h2, h3⟩ := ih (offerCell false d (markTrade d s))
    have hcell : ∀ c, (offerCell false d (markTrade d s)).cell c =
        if c = d then { s.cell c with tradeMark := true } else s.cell c := by
      intro c
      simp only [State.cell, cells_offerCell]
      by_cases e : c = d
      · subst e; simp [markTrade, State.cell]
      · simp [markTrade, e, Table.get_set_other]
    have flags : ∀ c, ((offerCell false d (markTrade d s)).cell c).needsFull = (s.cell c).needsFull := by
      intro c; rw [hcell]; split <;> rfl
    have one : Offered [d] s (offerCell false d (markTrade d s)) := by
      refine (offered_offerCell d (markTrade d s)).of_flags (fun c => ?_) rfl rfl
      rw [← flags, State.cell, State.cell, cells_offerCell]
    rw [forEach_cons]
    refine ⟨one.append_of_flags h1 flags, fun c => ?_, ?_⟩
    · rw [h2, hcell]
      by_cases e : c = d
      · simp [e]
      · simp [e]
    · rw [h3]
      rcases offerCell_cases false d (markTrade d s) with ⟨-, h⟩ | ⟨-, -, h⟩ | ⟨-, -, -, h⟩ <;> rw [h] <;> rfl

/-- R39, R118 to R124: the offers of a print to the ribbons whose mask has a class. -/
theorem offerToClass_spec (cls : Nat) (body : PrintBody) (s : State) :
    let u := offerToClass cls body s.clock.second s
    PrintOffered (fun id => (s.ribbon id).mask.getLsbD cls) body s u ∧ Noticed (modeNotices s u) s u ∧
      s.onlyCounted u [.rbDropped, .rbModeRises] ∧
      u = { s with
        ribbonA := u.ribbonA, ribbonB := u.ribbonB, counters := u.counters
        link := { s.link with notices := u.link.notices } } := by
  intro u
  have hb : (if (s.ribbon .a).takesClass cls then offerPrint .a body s.clock.second s else s).ribbon .b = s.ribbon .b := by
    split
    · exact (offerPrint_offered .a body s.clock.second s).1.other .b (by decide)
    · rfl
  have hu : u =
      let offer (id : RibbonId) (v : State) :=
        if (s.ribbon id).mask.getLsbD cls then offerPrint id body s.clock.second v else v
      offer .b (offer .a s) := by
    simp only [u, offerToClass, ribbonIds, forEach_cons, forEach_nil]
    rw [hb]
    rfl
  rw [hu]
  exact offers_spec _ body s

/-! ### A change that follows the reading of its entry (R30, R39) -/

section
variable {i : Nat} {s t t' u : State}

/-- An entry read leaves the cells' records, and the watchers and the cells of every entry. -/
theorem current_keeps (i : Nat) (s : State) : (s.current i).watchers = (s.entry i).watchers ∧
    (s.current i).cells = (s.entry i).cells ∧ (s.current i).cls = (s.entry i).cls ∧
    (s.current i).symbol = (s.entry i).symbol ∧ (s.current i).status = (s.entry i).status ∧
    (s.current i).denom = (s.entry i).denom := by
  unfold State.current
  split <;> exact ⟨rfl, rfl, rfl, rfl, rfl, rfl⟩

/-- A read of an entry changes rows alone of a terminal. -/
theorem EntryRead.grown (h : EntryRead i s t) (n : Nat) : RowsGrown (s.term n) (t.term n) := by
  cases hs : (s.entry i).stale s.dayNumber with
  | false => rw [h.fresh hs]; exact ⟨rfl, fun _ h => h⟩
  | true => exact (h.rows hs).grown n

/-- The rows that the roll of a read marks are those that a change of the entry marks. -/
theorem EntryRead.rows_or (h : EntryRead i s t) (n row : Nat) :
    row ∈ (t.term n).rows ∨ t.showsRow i n row ↔ row ∈ (s.term n).rows ∨ s.showsRow i n row := by
  rw [h.keeps.2.2.2.2 i row n]
  cases hs : (s.entry i).stale s.dayNumber with
  | false => rw [h.fresh hs]
  | true => rw [(h.rows hs).rows, or_assoc, or_self]

/-- Rows marked by the roll of a read and again by the change are those that show the instrument. -/
theorem EntryRead.marked (h : EntryRead i s t) (hm : RowsMarked i t' u) (ht : t'.terms = t.terms)
    (hw : (t'.entry i).watchers = (t.entry i).watchers) : RowsMarked i s u := by
  have m : RowsMarked i t u := hm.of_eq ht hw
  refine ⟨fun n => ⟨?_, fun row hr => (m.grown n).kept row ((h.grown n).kept row hr)⟩, fun n row => ?_⟩
  · rw [(m.grown n).rest, (h.grown n).rest]
  · rw [m.rows, h.rows_or]

/-- Cells offered by the roll of a read and again by the change are offered. -/
theorem EntryRead.offered (h : EntryRead i s t) (ho : Offered (s.entry i).cells t' u) (hc : t'.cells = t.cells)
    (hq : t'.queues = t.queues) : Offered (s.entry i).cells s u := by
  have o : Offered (s.entry i).cells t u := ho.of_eq hc.symm hq.symm rfl
  cases hs : (s.entry i).stale s.dayNumber with
  | false => rwa [h.fresh hs] at o
  | true => exact ((h.cells hs).append o h.keeps.2.1).of_mem fun c => by simp

end

end Sys2Proof.Machine
end

section
/-! Proofs: the feed requests TRADE, QUOTE, CLOSE-SET, HALT and RESUME (R34 to R40). -/

namespace Sys2Proof.Machine

/-! ### QUOTE and CLOSE-SET (R35, R36) -/

/-- R35: the effect of an accepted QUOTE. -/
theorem quoteInstrument_spec (i : Nat) (x y : CheckedSide) (s : State) :
    let v := quoteInstrument i x y s
    v = { s with entries := v.entries, queues := v.queues, terms := v.terms, counters := v.counters } ∧
      v.entry i = { s.current i with bid := x.side, ask := y.side } ∧ (∀ j, j ≠ i → v.entry j = s.entry j) ∧
      ((s.entry i).stale s.dayNumber = false → v.queues = s.queues) ∧
      ((s.entry i).stale s.dayNumber = true → Offered (s.entry i).cells s v) ∧ RowsMarked i s v ∧
      s.onlyCounted v [.inOffgrid, .inSizeClamped] ∧
      v.counter .inOffgrid = min 4294967295 (s.counter .inOffgrid + (countOf x.moved + countOf y.moved)) ∧
      v.counter .inSizeClamped = min 4294967295 (s.counter .inSizeClamped + (countOf x.clamped + countOf y.clamped)) := by
  have hread := touch_read i s
  set t := touch i s
  set w := t.setEntry i { t.entry i with bid := x.side, ask := y.side }
  set a := (w.advance .inOffgrid (countOf x.moved + countOf y.moved)).advance .inSizeClamped
    (countOf x.clamped + countOf y.clamped)
  obtain ⟨hrows, hframe⟩ := fanRows_marked i a
  intro v
  have hv : v = { a with terms := v.terms } := hframe
  have ht : t = { s with entries := t.entries, queues := t.queues, terms := t.terms } := hread.frame
  have hc : ∀ c, t.counter c = s.counter c := counter_of_counters (by rw [ht])
  have hq : v.queues = t.queues := by rw [hv]; rfl
  have he : ∀ j, v.entry j = w.entry j := entry_of_entries (by rw [hv]; rfl)
  have hn : ∀ c, v.counter c = a.counter c := counter_of_counters (by rw [hv])
  refine ⟨?_, ?_, fun j hj => ?_, fun hs => ?_, fun hs => ?_, ?_, fun k hk => ?_, ?_, ?_⟩
  · rw [hv]; simp only [a, w, State.advance, State.setEntry]; rw [ht]
  · rw [he, State.entry_setEntry_same, hread.entry]
  · rw [he, State.entry_setEntry_other _ hj, hread.others j hj]
  · rw [hq, hread.fresh hs]
  · exact (hread.cells hs).of_eq rfl rfl hq
  · exact hread.marked hrows (by simp [a, w]) (by rw [show a.entry i = w.entry i from rfl, State.entry_setEntry_same])
  · simp only [List.mem_cons, List.not_mem_nil, or_false, not_or] at hk
    rw [hn, State.counter_advance_other _ hk.2, State.counter_advance_other _ hk.1, State.setEntry_counter, hc]
  · rw [hn, State.counter_advance_other _ (by decide), State.counter_advance_same, State.setEntry_counter, hc]; rfl
  · rw [hn, State.counter_advance_same, State.counter_advance_other _ (by decide), State.setEntry_counter, hc]; rfl

/-- R36: the effect of an accepted CLOSE-SET. -/
theorem setClose_spec (i : Nat) (close : Option Nat) (moved : Bool) (s : State) :
    let v := setClose i close moved s
    v = { s with entries := v.entries, queues := v.queues, terms := v.terms, counters := v.counters } ∧
      v.entry i = { s.current i with prevClose := close } ∧ (∀ j, j ≠ i → v.entry j = s.entry j) ∧
      Offered (s.entry i).cells s v ∧ RowsMarked i s v ∧ s.onlyCounted v [.inOffgrid] ∧
      v.counter .inOffgrid = min 4294967295 (s.counter .inOffgrid + countOf moved) := by
  have hread := touch_read i s
  set t := touch i s
  set w := t.setEntry i { t.entry i with prevClose := close }
  set a := w.advance .inOffgrid (countOf moved)
  obtain ⟨hcells, hrows, hframe⟩ := fanCellsAndRows_spec i a
  intro v
  have hv : v = { a with queues := v.queues, terms := v.terms } := hframe
  have ht : t = { s with entries := t.entries, queues := t.queues, terms := t.terms } := hread.frame
  have hc : ∀ c, t.counter c = s.counter c := counter_of_counters (by rw [ht])
  have he : ∀ j, v.entry j = w.entry j := entry_of_entries (by rw [hv]; rfl)
  have hn : ∀ c, v.counter c = a.counter c := counter_of_counters (by rw [hv])
  have ha : a.entry i = { s.current i with prevClose := close } := by
    rw [show a.entry i = w.entry i from rfl, State.entry_setEntry_same, hread.entry]
  obtain ⟨cw, cc, -⟩ := current_keeps i s
  refine ⟨?_, (he i).trans ha, fun j hj => ?_, ?_, ?_, fun k hk => ?_, ?_⟩
  · rw [hv]; simp only [a, w, State.advance, State.setEntry]; rw [ht]
  · rw [he, State.entry_setEntry_other _ hj, hread.others j hj]
  · refine hread.offered (t' := a) ?_ (by simp [a, w]) (by simp [a, w])
    rwa [ha, cc] at hcells
  · exact hread.marked hrows (by simp [a, w]) (by rw [ha, hread.entry])
  · rw [hn, State.counter_advance_other _ (by simpa using hk), State.setEntry_counter, hc]
  · rw [hn, State.counter_advance_same, State.setEntry_counter, hc]; rfl

theorem countOf_eq (b : Bool) : countOf b = if b then 1 else 0 := rfl

/-- R35: an accepted QUOTE. -/
theorem quoteRule_accepted {b : QuoteBody} {x y : CheckedSide} {s : State} (hi : b.index ≤ 1023)
    (hs : (s.entry b.index).status ≠ .free) (hx : checkSide (s.entry b.index).denom b.bid = some x)
    (hy : checkSide (s.entry b.index).denom b.ask = some y) :
    quoteRule b s = Served.reply [] (quoteInstrument b.index x y s) := by
  unfold quoteRule
  rw [if_neg (by omega), if_neg hs, hx, hy]
  rfl

/-- R36: an accepted CLOSE-SET. -/
theorem closeSetRule_accepted {i : Nat} {close stored : Option Nat} {moved : Bool} {s : State} (hi : i ≤ 1023)
    (hs : (s.entry i).status ≠ .free) (hx : checkClose (s.entry i).denom close = some (stored, moved)) :
    closeSetRule (i, close) s = Served.reply [] (setClose i stored moved s) := by
  unfold closeSetRule
  dsimp only
  rw [if_neg (by omega), if_neg hs, hx]
  rfl

/-- Settles O21: the effects (`quoteInstrument_spec`, `setClose_spec`) in the frame of a request that is DONE. -/
theorem quoteAndCloseSet : Obligations.QuoteAndCloseSet := by
  refine ⟨fun r rest s b x y h hr hi hs hx hy => ?_, fun r rest s i close stored moved h hr hi hs hx => ?_⟩
  · have rule := quoteRule_accepted (s := beginService r rest s) hi hs hx hy
    have spec := quoteInstrument_spec b.index x y (beginService r rest s)
    generalize quoteInstrument b.index x y (beginService r rest s) = v at rule spec
    simp only [beginService_entry, beginService_current, beginService_dayNumber, beginService_queues,
      beginService_counter, State.onlyCounted] at spec
    obtain ⟨hf, he, ho, hq, hc, hm, hk, n1, n2⟩ := spec
    have hl : v.link = (beginService r rest s).link := by rw [hf]
    refine ⟨_, act_of_done h hr rule (by rw [hl]), ?_, he, ho, hq, fun g => (hc g).served, hm.served, hk, n1, n2⟩
    rw [hl, hf]; rfl
  · have rule := closeSetRule_accepted (s := beginService r rest s) hi hs hx
    have spec := setClose_spec i stored moved (beginService r rest s)
    generalize setClose i stored moved (beginService r rest s) = v at rule spec
    simp only [beginService_entry, beginService_current, beginService_counter, State.onlyCounted] at spec
    obtain ⟨hf, he, ho, hc, hm, hk, n1⟩ := spec
    have hl : v.link = (beginService r rest s).link := by rw [hf]
    refine ⟨_, act_of_done h hr rule (by rw [hl]), ?_, he, ho, hc.served, hm.served, hk, n1⟩
    rw [hl, hf]; rfl

end Sys2Proof.Machine
end

section
/-! Proofs: the feed requests HALT and RESUME (R37, R38) and TRADE (R34, R39, R40). -/

namespace Sys2Proof.Machine

/-! ### HALT and RESUME -/

/-- R37, R38: the effect of an accepted HALT or RESUME. -/
theorem changeStatus_spec (i : Nat) (x : EntryStatus) (print : Text → PrintBody) (s : State) :
    let v := changeStatus i x print s
    v = { s with
        entries := v.entries, queues := v.queues, ribbonA := v.ribbonA, ribbonB := v.ribbonB, terms := v.terms
        counters := v.counters, link := { s.link with notices := v.link.notices } } ∧
      v.entry i = { s.current i with status := x } ∧ (∀ j, j ≠ i → v.entry j = s.entry j) ∧
      Offered (s.entry i).cells s v ∧ RowsMarked i s v ∧
      PrintOffered (fun id => (s.ribbon id).mask.getLsbD (s.entry i).cls) (print (s.entry i).symbol) s v ∧
      Noticed (modeNotices s v) s v ∧ s.onlyCounted v [.rbDropped, .rbModeRises] := by
  have hread := touch_read i s
  obtain ⟨cw, cc, ck, cs, -⟩ := current_keeps i s
  obtain ⟨t, et⟩ : ∃ t, t = touch i s := ⟨_, rfl⟩
  rw [← et] at hread
  have ht : t = { s with entries := t.entries, queues := t.queues, terms := t.terms } := hread.frame
  obtain ⟨a, ha⟩ : ∃ a, a = t.setEntry i { t.entry i with status := x } := ⟨_, rfl⟩
  have ea : a.entry i = { s.current i with status := x } := by rw [ha, State.entry_setEntry_same, hread.entry]
  have eo : ∀ j, j ≠ i → a.entry j = s.entry j := fun j hj => by
    rw [ha, State.entry_setEntry_other _ hj, hread.others j hj]
  have fa : a = { s with entries := a.entries, queues := t.queues, terms := t.terms } := by
    rw [ha, State.setEntry, ht]
  obtain ⟨w, ew⟩ : ∃ w, w = fanCellsAndRows i a := ⟨_, rfl⟩
  obtain ⟨hcells, hrows, hw⟩ := fanCellsAndRows_spec i a
  rw [← ew] at hcells hrows hw
  have fw : w = { s with entries := a.entries, queues := w.queues, terms := w.terms } := by rw [hw, fa]
  have hv : changeStatus i x print s = offerToClass (s.entry i).cls (print (s.entry i).symbol) w.clock.second w := by
    have clock : w.clock = t.clock := by rw [fw, ht]
    rw [clock, ew, ha]
    simp only [changeStatus, ← et, hread.entry, ck, cs]
  rw [hv]
  obtain ⟨hprint, hnote, hcount, hu⟩ := offerToClass_spec (s.entry i).cls (print (s.entry i).symbol) w
  generalize offerToClass (s.entry i).cls (print (s.entry i).symbol) w.clock.second w = v at hprint hnote hcount hu
  have ribbons : ∀ id, s.ribbon id = w.ribbon id := ribbon_of_ribbons (by rw [fw]) (by rw [fw])
  have counters : ∀ c, s.counter c = w.counter c := counter_of_counters (by rw [fw])
  have he : ∀ j, v.entry j = a.entry j := entry_of_entries (by rw [hu, fw])
  refine ⟨by rw [hu, fw], (he i).trans ea, fun j hj => (he j).trans (eo j hj), ?_, ?_, ?_, ?_, fun k hk => ?_⟩
  · rw [ea, cc] at hcells
    exact (hread.offered hcells (by rw [fa, ht]) (by rw [fa])).of_eq rfl rfl (by rw [hu])
  · exact (hread.marked hrows (by rw [fa]) (by rw [ea, hread.entry])).to_eq (by rw [hu])
  · simp only [ribbons]
    exact hprint.of_eq ribbons (by rw [fw]) (counters _) (counters _) (fun _ => rfl) rfl rfl
  · rw [modeNotices_of_eq ribbons fun _ => rfl]
    exact hnote.of_notices (by rw [fw]) rfl
  · rw [hcount k hk, counters]

/-- Settles O22: the effect (`changeStatus_spec`) in the frame of a request that is DONE. -/
theorem haltAndResume : Obligations.HaltAndResume := by
  intro r rest s i k before after print hk h hr hi hs
  have spec := changeStatus_spec i after print (beginService r rest s)
  have rule : ∃ rule, exec k.command s = act (serve k readIndex rule) s ∧
      rule i (beginService r rest s) = Served.reply [] (changeStatus i after print (beginService r rest s)) := by
    rcases hk with ⟨rfl, rfl, rfl, rfl⟩ | ⟨rfl, rfl, rfl, rfl⟩
    · exact ⟨haltRule, rfl, by rw [haltRule, if_neg (by omega), beginService_entry, if_neg (by simp [hs])]; rfl⟩
    · exact ⟨resumeRule, rfl, by rw [resumeRule, if_neg (by omega), beginService_entry, if_neg (by simp [hs])]; rfl⟩
  obtain ⟨rule, hexec, hrule⟩ := rule
  generalize changeStatus i after print (beginService r rest s) = v at spec hrule
  simp only [beginService_entry, beginService_current, beginService_ribbon, beginService_counter,
    State.onlyCounted] at spec
  obtain ⟨hf, he, ho, hc, hm, hp, hn, hcount⟩ := spec
  rw [hexec]
  refine ⟨_, act_of_done h hr hrule (by rw [hf]), ?_, he, ho, hc.served, hm.served, hp.served, ?_, hcount⟩
  · rw [hf]; rfl
  · rw [modeNotices_served]
    exact hn.of_notices rfl rfl

end Sys2Proof.Machine
end

section
/-! Proofs: the feed request TRADE (R34, R39, R40, R175). -/

namespace Sys2Proof.Machine

/-- R39, R40: what a trade's fan-out leaves, for the entry at an index as it stands in `s`. -/
structure TradeFanned (i p z : Nat) (s u : State) : Prop where
  frame : u = { s with
    cells := u.cells, queues := u.queues, ribbonA := u.ribbonA, ribbonB := u.ribbonB, terms := u.terms
    counters := u.counters, link := { s.link with notices := u.link.notices } }
  marked : ∀ c, u.cell c = if c ∈ (s.entry i).cells then { s.cell c with tradeMark := true } else s.cell c
  offered : Offered (s.entry i).cells s u
  printed : PrintOffered (fun id => (s.ribbon id).mask.getLsbD (s.entry i).cls) (tradePrint i p z (s.entry i)) s u
  noticed : Noticed (modeNotices s u) s u
  counted : s.onlyCounted u [.rbDropped, .rbModeRises]
  terms : ∀ n, u.term n = { s.term n with rows := (u.term n).rows, alerts := (u.term n).alerts }
  rows : ∀ n row, row ∈ (u.term n).rows ↔ row ∈ (s.term n).rows ∨ s.showsRow i n row
  alerts : ∀ n k, (u.term n).alert k =
    if n < 64 ∧ k < 4 then ((s.term n).alert k).onTrade i p z s.clock.second else (s.term n).alert k

/-- R39, R175: the alert part of a trade changes alerts alone. -/
theorem fanAlerts_frame (i p z : Nat) (s : State) : fanAlerts i p z s = { s with terms := (fanAlerts i p z s).terms } :=
  forEach_rel (R := fun s t => t = { s with terms := t.terms }) (fun _ => rfl)
    (fun _ _ _ h1 h2 => by rw [h2, h1]) termNos (fun _ _ => rfl) s

/-- R39, R40: the fan-out of a trade, its four parts together. -/
theorem fanTrade_spec (i p z : Nat) (s : State) : TradeFanned i p z s (fanTrade i p z s) := by
  obtain ⟨c, ec⟩ : ∃ c, c = fanTradeCells i s := ⟨_, rfl⟩
  obtain ⟨hoff, hmark, hc⟩ := forEach_markOffer_spec (s.entry i).cells s
  rw [show forEach _ _ s = c from ec.symm] at hoff hmark hc
  obtain ⟨o, eo⟩ : ∃ o, o = offerToClass (s.entry i).cls (tradePrint i p z (s.entry i)) c.clock.second c := ⟨_, rfl⟩
  obtain ⟨hprint, hnote, hcount, ho⟩ := offerToClass_spec (s.entry i).cls (tradePrint i p z (s.entry i)) c
  rw [← eo] at hprint hnote hcount ho
  obtain ⟨w, ew⟩ : ∃ w, w = fanRows i o := ⟨_, rfl⟩
  obtain ⟨hrows, hw⟩ := fanRows_marked i o
  rw [← ew] at hrows hw
  obtain ⟨u, eu⟩ : ∃ u, u = fanAlerts i p z w := ⟨_, rfl⟩
  have hu := fanAlerts_frame i p z w
  have hterm := term_fanAlerts i p z w
  rw [← eu] at hu hterm
  have clock : c.clock = s.clock := by rw [hc]
  have wclock : w.clock = s.clock := by rw [hw, ho, hc]
  have hv : fanTrade i p z s = u := by rw [eu, ew, eo, clock, ec]; rfl
  rw [hv]
  have ribbons : ∀ id, s.ribbon id = c.ribbon id := ribbon_of_ribbons (by rw [hc]) (by rw [hc])
  have uribbons : ∀ id, u.ribbon id = o.ribbon id := ribbon_of_ribbons (by rw [hu, hw]) (by rw [hu, hw])
  have counters : ∀ k, s.counter k = c.counter k := counter_of_counters (by rw [hc])
  have ucounters : ∀ k, u.counter k = o.counter k := counter_of_counters (by rw [hu, hw])
  have wrows := hrows.of_eq (s := s) (by rw [ho, hc]) (by rw [entry_of_entries (s := s) (u := o) (by rw [ho, hc])])
  have uterm : ∀ n, u.term n = { w.term n with alerts := (u.term n).alerts } := fun n => by
    rw [hterm]; split
    · exact Terminal.onTrade_frame ..
    · rfl
  refine ⟨by rw [hu, hw, ho, hc], fun n => ?_, ?_, ?_, ?_, fun k hk => ?_, fun n => ?_, fun n row => ?_, fun n k => ?_⟩
  · rw [← hmark]; exact cell_of_cells (by rw [hu, hw, ho]) n
  · exact hoff.of_eq rfl rfl (by rw [hu, hw, ho])
  · simp only [ribbons]
    exact hprint.of_eq ribbons clock.symm (counters _) (counters _) uribbons (ucounters _) (ucounters _)
  · rw [modeNotices_of_eq ribbons uribbons]
    exact hnote.of_notices (by rw [hc]) (by rw [hu, hw])
  · rw [ucounters, hcount k hk, counters]
  · rw [uterm, (wrows.grown n).rest]
  · rw [uterm]; exact wrows.rows n row
  · have halert : (w.term n).alert k = (s.term n).alert k := by rw [(wrows.grown n).rest]; rfl
    rw [hterm, wclock]
    by_cases hn : n < 64
    · rw [if_pos hn, Terminal.alert_onTrade, halert]; simp [hn]
    · rw [if_neg hn, halert]; simp [hn]

/-- R34: the entry an accepted trade leaves. -/
theorem Entry.traded_eq (p z : Nat) (e : Entry) : { e.traded p z with firstPending := false } = { e with
    tick := match e.last, e.prevClose with
      | some l, _ => if l < p then .up else if p < l then .down else e.tick
      | none, some c => if c < p then .up else if p < c then .down else .level
      | none, none => .level
    last := some p
    opening := some (e.opening.getD p)
    high := if e.opening = none then some p else e.high.map (fun h => max h p)
    low := if e.opening = none then some p else e.low.map (fun l => min l p)
    dayVolume := min 99999999 (e.dayVolume + z), lastSize := z, firstPending := false } := by
  have htick : tickAfter e p = match e.last, e.prevClose with
      | some l, _ => if l < p then .up else if p < l then .down else e.tick
      | none, some c => if c < p then .up else if p < c then .down else .level
      | none, none => .level := by
    unfold tickAfter
    cases e.last <;> cases e.prevClose <;> rfl
  unfold Entry.traded
  rw [htick]
  cases ho : e.opening with
  | none => simp [Config.maxVolume]
  | some o => cases e.high <;> cases e.low <;> simp [Config.maxVolume]

/-- R34, R39, R40: an accepted TRADE, the entry's own change and the fan-out. -/
theorem tradeInstrument_spec (i p z : Nat) (moved clamped : Bool) (s : State) :
    ∃ t a u, EntryRead i s t ∧ a.entry i = (s.current i).traded p z ∧ (∀ j, j ≠ i → a.entry j = s.entry j) ∧
      a = { t with entries := a.entries, counters := a.counters } ∧
      (∀ k, k ∉ [Counter.inTrades, .inOffgrid, .inSizeClamped] → a.counter k = s.counter k) ∧
      a.counter .inTrades = min 4294967295 (s.counter .inTrades + 1) ∧
      a.counter .inOffgrid = min 4294967295 (s.counter .inOffgrid + countOf moved) ∧
      a.counter .inSizeClamped = min 4294967295 (s.counter .inSizeClamped + countOf clamped) ∧
      TradeFanned i p z a u ∧ tradeInstrument i p z moved clamped s = clearFirst i u := by
  have hread := touch_read i s
  obtain ⟨t, et⟩ : ∃ t, t = touch i s := ⟨_, rfl⟩
  rw [← et] at hread
  obtain ⟨w, ew⟩ : ∃ w, w = t.setEntry i ((t.entry i).traded p z) := ⟨_, rfl⟩
  obtain ⟨a, ea⟩ : ∃ a, a = ((w.count .inTrades).advance .inOffgrid (countOf moved)).advance .inSizeClamped
    (countOf clamped) := ⟨_, rfl⟩
  have ae : ∀ j, a.entry j = w.entry j := entry_of_entries (by rw [ea]; rfl)
  have wc : ∀ k, w.counter k = s.counter k := counter_of_counters (by rw [ew, State.setEntry_counters, hread.frame])
  refine ⟨t, a, _, hread, ?_, fun j hj => ?_, by rw [ea, ew]; rfl, fun k hk => ?_, ?_, ?_, ?_, fanTrade_spec i p z a, ?_⟩
  · rw [ae, ew, State.entry_setEntry_same, hread.entry]
  · rw [ae, ew, State.entry_setEntry_other _ hj, hread.others j hj]
  · simp only [List.mem_cons, List.not_mem_nil, or_false, not_or] at hk
    rw [ea, State.counter_advance_other _ hk.2.2, State.counter_advance_other _ hk.2.1, State.counter_count_other _ hk.1, wc]
  · rw [ea, State.counter_advance_other _ (by decide), State.counter_advance_other _ (by decide),
      State.counter_count_same, wc]; rfl
  · rw [ea, State.counter_advance_other _ (by decide), State.counter_advance_same,
      State.counter_count_other _ (by decide), wc]; rfl
  · rw [ea, State.counter_advance_same, State.counter_advance_other _ (by decide),
      State.counter_count_other _ (by decide), wc]; rfl
  · rw [tradeInstrument, ea, ew, et]

theorem tradeRule_accepted {b : TradeBody} {p z : Nat} {moved clamped : Bool} {s : State} (hi : b.index ≤ 1023)
    (hs : (s.entry b.index).status = .listed) (ho : s.session.state = .opened)
    (hp : checkPrice (s.entry b.index).denom b.price = some (p, moved)) (hz : checkSize b.size = some (z, clamped)) :
    tradeRule b s = Served.reply [] (tradeInstrument b.index p z moved clamped s) := by
  unfold tradeRule
  rw [if_neg (by omega), if_neg (by simp [hs]), if_neg (by simp [hs]), if_neg (by simp [ho]), hp, hz]
  rfl

/-- An accepted TRADE: the command's own effect, from the effect of the rule on the request in service. -/
theorem exec_trade {r : LinkFrame} {rest : List LinkFrame} {s : State} {b : TradeBody} {p z : Nat} {moved clamped : Bool}
    (h : s.ready .trade r rest) (hr : readTrade r.body = some b) (hi : b.index ≤ 1023)
    (hs : (s.entry b.index).status = .listed) (ho : s.session.state = .opened)
    (hp : checkPrice (s.entry b.index).denom b.price = some (p, moved)) (hz : checkSize b.size = some (z, clamped)) :
    ∃ t a v, EntryRead b.index (beginService r rest s) t ∧ a.entry b.index = (s.current b.index).traded p z ∧
      (∀ j, j ≠ b.index → a.entry j = s.entry j) ∧ a = { t with entries := a.entries, counters := a.counters } ∧
      (∀ k, k ∉ [Counter.inTrades, .inOffgrid, .inSizeClamped] → a.counter k = s.counter k) ∧
      a.counter .inTrades = min 4294967295 (s.counter .inTrades + 1) ∧
      a.counter .inOffgrid = min 4294967295 (s.counter .inOffgrid + countOf moved) ∧
      a.counter .inSizeClamped = min 4294967295 (s.counter .inSizeClamped + countOf clamped) ∧
      TradeFanned b.index p z a v ∧
      exec .trade s = .next (finish s { clearFirst b.index v with
        link := { s.link.replied r rest [] with notices := v.link.notices } }) := by
  obtain ⟨t, a, v, hread, he, hj, ha, hk, n1, n2, n3, hfan, hv⟩ :=
    tradeInstrument_spec b.index p z moved clamped (beginService r rest s)
  have rule := tradeRule_accepted (s := beginService r rest s) hi hs ho hp hz
  rw [hv] at rule
  have hl : (clearFirst b.index v).link = { (beginService r rest s).link with notices := v.link.notices } := by
    rw [clearFirst, State.setEntry_link, hfan.frame, ha, hread.frame]
  exact ⟨t, a, v, hread, he, hj, ha, hk, n1, n2, n3, hfan, act_of_done h hr rule hl⟩

/-- Settles O19: the entry is the traded one with its first print taken (`Entry.traded_eq`), and each other part is of the
fan-out. -/
theorem tradeUpdatesTheEntry : Obligations.TradeUpdatesTheEntry := by
  intro r rest s b p z moved clamped h hr hi hs ho hp hz e
  obtain ⟨t, a, v, hread, he, hj, ha, hk, n1, n2, n3, hfan, hexec⟩ := exec_trade h hr hi hs ho hp hz
  have hentry : ∀ j, v.entry j = a.entry j := entry_of_entries (by rw [hfan.frame])
  have counted : ∀ k, k ≠ Counter.rbDropped → k ≠ Counter.rbModeRises → v.counter k = a.counter k :=
    fun k g1 g2 => hfan.counted k (by simp [g1, g2])
  refine ⟨_, hexec, ?_, ?_, fun j g => ?_, fun k g => ?_, ?_, ?_, ?_⟩
  · rw [clearFirst, State.setEntry, hfan.frame, ha, hread.frame]; rfl
  · refine (State.entry_setEntry_same v b.index _).trans (Eq.trans ?_ (Entry.traded_eq p z e))
    rw [hentry, he]
  · refine (State.entry_setEntry_other v g _).trans ?_
    rw [hentry, hj j g]
  · simp only [List.mem_cons, List.not_mem_nil, or_false, not_or] at g
    obtain ⟨g1, g2, g3, g4, g5⟩ := g
    exact (counted k g4 g5).trans (hk k (by simp [g1, g2, g3]))
  · exact (counted _ (by decide) (by decide)).trans n1
  · exact (counted _ (by decide) (by decide)).trans n2
  · exact (counted _ (by decide) (by decide)).trans n3

/-- R175: an alert fires exactly when it is ARMED, of the instrument, and each enabled condition holds. -/
theorem Alert.onTrade_cases (i p z second : Nat) (a : Alert) :
    (a.state = .armed ∧ a.instrument = some i ∧ a.conditions.met p z → a.onTrade i p z second =
        { a with state := .fired, fired := some { price := p, size := z, second := second } }) ∧
      (¬(a.state = .armed ∧ a.instrument = some i ∧ a.conditions.met p z) → a.onTrade i p z second = a) := by
  rw [← Conditions.hold_iff]
  unfold Alert.onTrade
  exact ⟨fun h => if_pos h, fun h => if_neg h⟩

/-- Settles O20: the fan-out (`fanTrade_spec`) of the traded entry, which follows the read of that entry. -/
theorem tradeFansOut : Obligations.TradeFansOut := by
  intro r rest s b p z moved clamped h hr hi hs ho hp hz e
  obtain ⟨t, a, v, hread, he, hj, ha, hk, n1, n2, n3, hfan, hexec⟩ := exec_trade h hr hi hs ho hp hz
  obtain ⟨cw, cc, -⟩ := current_keeps b.index s
  have at' : t = { beginService r rest s with entries := t.entries, queues := t.queues, terms := t.terms } := hread.frame
  have acells : ∀ c, a.cell c = s.cell c := cell_of_cells (by rw [ha, at', beginService_cells])
  have aterm : ∀ n, a.term n = t.term n := term_of_terms (by rw [ha])
  have aribbon : ∀ id, s.ribbon id = a.ribbon id := ribbon_of_ribbons (by rw [ha, at']; rfl) (by rw [ha, at']; rfl)
  have aclock : s.clock = a.clock := by rw [ha, at', beginService_clock]
  have ecells : (a.entry b.index).cells = e.cells := by rw [he]; rfl
  have shows : ∀ n row, a.showsRow b.index n row ↔ t.showsRow b.index n row := fun n row => by
    have : (a.entry b.index).watchers = (t.entry b.index).watchers := by rw [he, hread.entry]; rfl
    simp only [State.showsRow, this, aterm]
  refine ⟨_, hexec, fun c => ?_, ?_, ?_, ?_, fun n => ?_, fun n row => ?_, fun n k => ?_⟩
  · exact (hfan.marked c).trans (by rw [ecells, acells])
  · have off : Offered (s.entry b.index).cells a v := by
      have := hfan.offered
      rwa [ecells, cc] at this
    have off' : Offered (s.entry b.index).cells (beginService r rest s) v := hread.offered off (by rw [ha]) (by rw [ha])
    rw [show e.cells = (s.entry b.index).cells from cc]
    exact off'.of_eq (beginService_cells ..).symm (beginService_queues ..).symm rfl
  · have := hfan.printed
    rw [he] at this
    simp only [aribbon]
    exact this.of_eq aribbon aclock (hk _ (by decide)).symm (hk _ (by decide)).symm (fun id => by cases id <;> rfl) rfl rfl
  · rw [modeNotices_of_eq (s := a) (u := v) aribbon fun id => by cases id <;> rfl]
    exact hfan.noticed.of_notices (by rw [ha, at', beginService_notices]) rfl
  · have : v.term n = { s.term n with rows := (v.term n).rows, alerts := (v.term n).alerts } := by
      rw [hfan.terms, aterm, (hread.grown n).rest]; rfl
    exact this
  · have := hfan.rows n row
    rw [aterm, shows, hread.rows_or] at this
    exact this
  · have halert : (a.term n).alert k = (s.term n).alert k := by rw [aterm, (hread.grown n).rest]; rfl
    have := hfan.alerts n k
    rw [halert, ← aclock] at this
    obtain ⟨fires, stands⟩ := Alert.onTrade_cases b.index p z s.clock.second ((s.term n).alert k)
    refine ⟨fun ⟨hn, hk4, g⟩ => ?_, fun g => ?_⟩
    · rw [if_pos ⟨hn, hk4⟩, fires g] at this
      exact this
    · by_cases hnk : n < 64 ∧ k < 4
      · rw [if_pos hnk, stands fun g' => g ⟨hnk.1, hnk.2, g'⟩] at this
        exact this
      · rw [if_neg hnk] at this
        exact this

end Sys2Proof.Machine
end

section
/-! Proofs: what a session transition does to the ribbons (R57, R115, R116, R120). -/

namespace Sys2Proof.Machine

/-! ### The parts of a transition that reach no ribbon -/

theorem startDarkTimers_frame (s : State) : startDarkTimers s = { s with lines := (startDarkTimers s).lines } :=
  forEach_rel (R := fun s t => t = { s with lines := t.lines }) (fun _ => rfl) (fun _ _ _ h1 h2 => by rw [h2, h1]) lineNos
    (fun n s => by split <;> rfl) s

theorem wakeLines_frame (s : State) :
    wakeLines s = { s with lines := (wakeLines s).lines, queues := (wakeLines s).queues } := by
  refine forEach_rel (R := fun s t => t = { s with lines := t.lines, queues := t.queues }) (fun _ => rfl)
    (fun _ _ _ h1 h2 => by rw [h2, h1]) lineNos (fun n s => ?_) s
  dsimp only
  split
  · rw [wakeLine, forEach_offerCell_frame]; rfl
  · rfl
  · rfl

theorem boardsOnSession_frame (entered : SessionState) (s : State) : boardsOnSession entered s =
    { s with lines := (boardsOnSession entered s).lines, queues := (boardsOnSession entered s).queues } := by
  cases entered
  case after => rw [boardsOnSession, startDarkTimers_frame]
  case preOpen => exact wakeLines_frame s
  all_goals rfl

theorem oweStatus_frame (s : State) : oweStatus s = { s with terms := (oweStatus s).terms } :=
  forEach_rel (R := fun s t => t = { s with terms := t.terms }) (fun _ => rfl) (fun _ _ _ h1 h2 => by rw [h2, h1]) termNos
    (fun n s => by dsimp only; split <;> rfl) s

/-! ### The banner (R120) -/

theorem ribbon_joinQueue (id : RibbonId) (q : List PrintRecord) (rec : PrintRecord) (s : State) :
    ((joinQueue id q rec s).ribbon id).queue = q ++ [rec] := by
  rw [joinQueue]
  rcases evalMode_cases id (s.setRibbon id { s.ribbon id with queue := q ++ [rec] }) with
    ⟨-, -, h⟩ | ⟨m, -, h⟩ | ⟨m, -, -, h⟩ <;> rw [h] <;> simp [Ribbon.rise, Ribbon.fall]

/-- R118 to R121: a ribbon that is not OFF has a record queued once it has been offered one. -/
theorem offerPrint_queue_ne_nil (id : RibbonId) (body : PrintBody) (at' : Nat) {s : State}
    (h : (s.ribbon id).state ≠ .off) : ((offerPrint id body at' s).ribbon id).queue ≠ [] := by
  rcases offerPrint_cases id body at' s with ⟨ho, e⟩ | ⟨-, -, e⟩ | ⟨q, -, -, -, e⟩ | ⟨-, hq, -, e⟩
  · exact absurd ho h
  · rw [e, ribbon_joinQueue]; simp
  · rw [e, ribbon_joinQueue]; simp
  · rw [e, State.count_ribbon]
    rintro hn
    simp [hn, Config.printPlaces] at hq

/-- R120: a banner offered to both ribbons, whatever their class masks. -/
theorem offerBanner_spec {left entered : SessionState} {b : Banner} (h : bannerFor left entered = some b) (s : State) :
    let u := offerBanner left entered s
    PrintOffered (fun _ => true) (.banner b) s u ∧
      u = { s with
        ribbonA := u.ribbonA, ribbonB := u.ribbonB, counters := u.counters
        link := { s.link with notices := u.link.notices } } ∧
      ∀ id, (u.ribbon id).state = .off ∨ (u.ribbon id).queue ≠ [] := by
  intro u
  have clock : (offerPrint .a (.banner b) s.clock.second s).clock = s.clock := by
    rw [(offerPrint_offered .a (.banner b) s.clock.second s).1.frame]
  have hu : u = offerPrint .b (.banner b) s.clock.second (offerPrint .a (.banner b) s.clock.second s) := by
    simp only [u, offerBanner, h, ribbonIds, forEach_cons, forEach_nil]
    rw [clock]
  obtain ⟨hp, -, -, hf⟩ := offers_spec (fun _ => true) (.banner b) s
  simp only [if_true, ← hu] at hp hf
  refine ⟨hp, hf, fun id => ?_⟩
  by_cases ho : (s.ribbon id).state = .off
  · exact .inl (by rw [hp.kept id (.inr ho), ho])
  · right
    by_cases hq : (s.ribbon id).queue.length < 512
    · rw [hp.queued id rfl ho hq]; simp
    · rw [hp.full id rfl ho (by omega)]
      exact offerPrint_queue_ne_nil id _ _ ho

/-! ### Starting and stopping (R115, R116) -/

/-- R115, R132: a ribbon that starts sends its first character, or a space. -/
theorem startRibbon_spec (id : RibbonId) (s : State) : (startRibbon id s).ribbon id = { s.ribbon id with
      state := .running, fifo := (s.ribbon id).fifo.tail, period := some (s.ribbon id).rate
      output := some ((s.ribbon id).fifo.head?.getD ' ') } := by
  unfold startRibbon periodStart
  simp only [State.ribbon_setRibbon_same]
  cases hf : (s.ribbon id).fifo with
  | cons c rest => simp
  | nil => dsimp only; split <;> simp

/-- What a start or a stop of a ribbon changes: that ribbon and Rb_underrun alone. -/
structure OwnRibbonChanged (id : RibbonId) (s u : State) : Prop where
  frame : u = { s with ribbonA := u.ribbonA, ribbonB := u.ribbonB, counters := u.counters }
  other : ∀ k, k ≠ id → u.ribbon k = s.ribbon k
  counted : s.onlyCounted u [.rbUnderrun]

theorem OwnRibbonChanged.refl (id : RibbonId) (s : State) : OwnRibbonChanged id s s :=
  ⟨rfl, fun _ _ => rfl, fun _ _ => rfl⟩

theorem OwnRibbonChanged.trans {id : RibbonId} {s t u : State} (h1 : OwnRibbonChanged id s t)
    (h2 : OwnRibbonChanged id t u) : OwnRibbonChanged id s u :=
  ⟨by rw [h2.frame, h1.frame], fun k hk => (h2.other k hk).trans (h1.other k hk),
    fun k hk => (h2.counted k hk).trans (h1.counted k hk)⟩

theorem ownRibbonChanged_setRibbon (id : RibbonId) (s : State) (r : Ribbon) : OwnRibbonChanged id s (s.setRibbon id r) :=
  ⟨by cases id <;> rfl, fun _ hk => State.ribbon_setRibbon_other s hk r, fun _ _ => by simp⟩

theorem ownRibbonChanged_count (id : RibbonId) (s : State) : OwnRibbonChanged id s (s.count .rbUnderrun) :=
  ⟨rfl, fun _ _ => by simp, fun _ hk => State.counter_count_other s (by simpa using hk)⟩

theorem ownRibbonChanged_periodStart (id : RibbonId) (s : State) : OwnRibbonChanged id s (periodStart id s) := by
  unfold periodStart
  dsimp only
  split
  · exact ownRibbonChanged_setRibbon ..
  · refine (ownRibbonChanged_setRibbon id s { s.ribbon id with period := some (s.ribbon id).rate, output := some ' ' }).trans ?_
    split
    · exact .refl ..
    · exact ownRibbonChanged_count ..

theorem ownRibbonChanged_startRibbon (id : RibbonId) (s : State) : OwnRibbonChanged id s (startRibbon id s) :=
  (ownRibbonChanged_setRibbon id s { s.ribbon id with state := .running }).trans (ownRibbonChanged_periodStart ..)

theorem ownRibbonChanged_stopTest (id : RibbonId) (s : State) : OwnRibbonChanged id s (stopTest id s) := by
  unfold stopTest
  split
  · exact ownRibbonChanged_setRibbon ..
  · exact .refl ..

theorem ownRibbonChanged_ribbonOnSession (entered : SessionState) (id : RibbonId) (s : State) :
    OwnRibbonChanged id s (ribbonOnSession entered id s) := by
  unfold ribbonOnSession
  split_ifs
  · exact ownRibbonChanged_startRibbon id s
  · exact ownRibbonChanged_stopTest id s
  · exact .refl id s

/-- R116: the stop condition. -/
theorem mayStop_iff (id : RibbonId) (s : State) : mayStop id s = true ↔ (s.ribbon id).state = .running ∧
    closedOrAfter s.session.state = true ∧ (s.ribbon id).queue = [] ∧ (s.ribbon id).fifo = [] ∧
    ribbonJobInFlight id s = false := by
  simp [mayStop, and_assoc]

/-- R115, R116: what the entry into a session state leaves of a ribbon. -/
theorem ribbonOnSession_spec (entered : SessionState) (id : RibbonId) (s : State) (hs : s.session.state = entered) :
    let r := s.ribbon id
    let u := ribbonOnSession entered id s
    let stops := closedOrAfter entered = true ∧ r.state = .running ∧ r.queue = [] ∧ r.fifo = [] ∧
      ribbonJobInFlight id s = false
    (entered = .preOpen → r.state = .stopped → u.ribbon id = { r with
      state := .running, fifo := r.fifo.tail, period := some r.rate, output := some (r.fifo.head?.getD ' ') }) ∧
    (entered = .preOpen → r.state ≠ .stopped → u.ribbon id = r) ∧
    (stops → u.ribbon id = { r with state := .stopped, period := none }) ∧
    (entered ≠ .preOpen → ¬stops → u.ribbon id = r) := by
  intro r u stops
  have hstop := mayStop_iff id s
  rw [hs] at hstop
  have hne : closedOrAfter entered = true → entered ≠ .preOpen := by rintro h rfl; simp [closedOrAfter] at h
  refine ⟨fun h g => ?_, fun h g => ?_, fun h => ?_, fun h g => ?_⟩ <;> simp only [u, ribbonOnSession]
  · rw [if_pos ⟨h, g⟩, startRibbon_spec]
  · rw [if_neg fun e => g e.2, if_neg (by simp [h, closedOrAfter])]
  · rw [if_neg fun e => hne h.1 e.1, if_pos h.1, stopTest, if_pos (hstop.2 ⟨h.2.1, h.1, h.2.2⟩), State.ribbon_setRibbon_same]
  · rw [if_neg fun e => h e.1]
    split
    · next hc => rw [stopTest, if_neg fun m => g ⟨hc, (hstop.1 m).1, (hstop.1 m).2.2⟩]
    · rfl

/-- R115, R116: the hand-off to both ribbons, ribbon A first. -/
theorem ribbonsOnSession_own (entered : SessionState) (s : State) :
    let u := forEach ribbonIds (ribbonOnSession entered) s
    u = { s with ribbonA := u.ribbonA, ribbonB := u.ribbonB, counters := u.counters } ∧ s.onlyCounted u [.rbUnderrun] ∧
      ∀ id, ∃ v, v.ribbon id = s.ribbon id ∧ v.session = s.session ∧ v.fu = s.fu ∧
        u.ribbon id = (ribbonOnSession entered id v).ribbon id := by
  have a := ownRibbonChanged_ribbonOnSession entered .a s
  have b := ownRibbonChanged_ribbonOnSession entered .b (ribbonOnSession entered .a s)
  refine ⟨by simp only [ribbonIds, forEach_cons, forEach_nil]; rw [b.frame, a.frame], fun k hk => ?_, fun id => ?_⟩
  · exact (b.counted k hk).trans (a.counted k hk)
  · cases id with
    | a => exact ⟨s, rfl, rfl, rfl, b.other .a (by decide)⟩
    | b => exact ⟨ribbonOnSession entered .a s, a.other .b (by decide), by rw [a.frame], by rw [a.frame], rfl⟩

/-! ### The whole transition (R57) -/

/-- R57: a transition as the ribbons find it: what stands before the banner (`t`), after it (`o`) and after the starts and
stops (`v`). -/
theorem makeTransition_parts (tgt : SessionState) (s : State) :
    ∃ t o v, t = { s with
        session := t.session, dayNumber := t.dayNumber, walkActive := t.walkActive, walkPos := t.walkPos
        lines := t.lines, queues := t.queues, link := { s.link with notices := t.link.notices } } ∧
      t.session.state = tgt ∧ o = offerBanner s.session.state tgt t ∧
      v = forEach ribbonIds (ribbonOnSession tgt) o ∧ makeTransition tgt s = oweStatus v := by
  obtain ⟨a, ea⟩ : ∃ a, a = (s.setSession
    { state := tgt, left := s.session.state, entered := tgt, second := s.clock.second }).raise .session := ⟨_, rfl⟩
  have ha : a = { s with session := a.session, link := { s.link with notices := a.link.notices } } ∧
      a.session.state = tgt := by
    rcases State.raise_cases (s.setSession
      { state := tgt, left := s.session.state, entered := tgt, second := s.clock.second }) .session with
      ⟨-, h⟩ | ⟨-, h⟩ <;> rw [ea, h] <;> exact ⟨rfl, rfl⟩
  obtain ⟨fa, sa⟩ := ha
  obtain ⟨d, ed⟩ : ∃ d, d = if tgt = .preOpen then beginDay a else a := ⟨_, rfl⟩
  have fd : d = { a with dayNumber := d.dayNumber, walkActive := d.walkActive, walkPos := d.walkPos } := by
    rw [ed]; split <;> rfl
  have fb := boardsOnSession_frame tgt d
  refine ⟨boardsOnSession tgt d, _, _, ?_, ?_, rfl, rfl, by rw [ed, ea]; rfl⟩
  · rw [fb, fd, fa]
  · rw [fb, fd, sa]

/-- R58: a SESSION-SET to a legal target. -/
theorem sessionSetRule_legal {n : Nat} {tgt : SessionState} {s : State} (hn : sessionStateOf n = some tgt)
    (hl : legalTransition s.session.state tgt = true) (hw : ¬(tgt = .preOpen ∧ s.walkActive = true)) :
    ∃ bytes, sessionSetRule n s = Served.reply bytes (makeTransition tgt s) := by
  have hne : tgt ≠ s.session.state := by
    rintro rfl
    cases h : s.session.state <;> simp [h, legalTransition] at hl
  unfold sessionSetRule
  rw [hn]
  dsimp only
  rw [if_neg hne, if_neg (by simp [hl]), if_neg hw]
  exact ⟨_, rfl⟩

/-- TABLE 7-4: no banner at the entry into PRE_OPEN. -/
theorem bannerFor_preOpen (x : SessionState) : bannerFor x .preOpen = none := by cases x <;> rfl

/-- Settles O25: the banner is offered before the starts and the stops, and a ribbon that holds it does not stop. -/
theorem sessionReachesTheRibbons : Obligations.SessionReachesTheRibbons := by
  refine ⟨fun x y b => ?_, fun r rest s n tgt id h hr hn hl hw => ?_⟩
  · cases x <;> cases y <;> simp [bannerFor, eq_comm]
  obtain ⟨bytes, rule⟩ := sessionSetRule_legal (s := beginService r rest s) hn hl hw
  obtain ⟨t, o, v, ft, st, eo, ev, em⟩ := makeTransition_parts tgt (beginService r rest s)
  rw [beginService_session] at eo
  rw [em] at rule
  have fo := oweStatus_frame v
  generalize oweStatus v = w at rule fo
  have tr : ∀ id, s.ribbon id = t.ribbon id := ribbon_of_ribbons (by rw [ft]; rfl) (by rw [ft]; rfl)
  have tc : ∀ c, s.counter c = t.counter c := counter_of_counters (by rw [ft]; rfl)
  have hof : o = { t with
      ribbonA := o.ribbonA, ribbonB := o.ribbonB, counters := o.counters
      link := { t.link with notices := o.link.notices } } := by
    cases hb : bannerFor s.session.state tgt with
    | none => rw [eo, offerBanner, hb]
    | some b => rw [eo]; exact (offerBanner_spec hb t).2.1
  have oj : o.fu = s.fu := by rw [hof, ft, beginService_fu]
  obtain ⟨fv, cv, own⟩ := ribbonsOnSession_own tgt o
  rw [← ev] at fv cv own
  have wr : ∀ k, w.ribbon k = v.ribbon k := ribbon_of_ribbons (by rw [fo]) (by rw [fo])
  have wc : ∀ k, k ≠ .rbUnderrun → w.counter k = o.counter k := fun k hk =>
    (counter_of_counters (by rw [fo]) k).trans (cv k (by simpa using hk))
  -- what the hand-off to ribbon `k` leaves, from the ribbon as the banner left it
  have spec : ∀ k, ∃ y, y.ribbon k = o.ribbon k ∧ y.session.state = tgt ∧
      ribbonJobInFlight k y = ribbonJobInFlight k s ∧ w.ribbon k = (ribbonOnSession tgt k y).ribbon k := by
    intro k
    obtain ⟨y, y1, y2, y3, y4⟩ := own k
    exact ⟨y, y1, by rw [y2, hof, st], by simp only [ribbonJobInFlight, y3, oj], (wr k).trans y4⟩
  have final : ∀ k, ({ w with link := { s.link.replied r rest bytes with notices := w.link.notices } } : State).ribbon k =
      w.ribbon k := fun k => by cases k <;> rfl
  refine ⟨_, act_of_done h hr rule (by rw [fo, fv, hof, ft]), ?_⟩
  simp only [final]
  cases hb : bannerFor s.session.state tgt with
  | some b =>
    obtain ⟨hp, -, hq⟩ := offerBanner_spec hb t
    rw [← eo] at hp hq
    have hne : tgt ≠ .preOpen := by rintro rfl; rw [bannerFor_preOpen] at hb; cases hb
    have kept : ∀ k, w.ribbon k = o.ribbon k := by
      intro k
      obtain ⟨y, y1, y2, y3, y4⟩ := spec k
      rw [y4, (ribbonOnSession_spec tgt k y y2).2.2.2 hne, y1]
      rintro ⟨-, g1, g2, -⟩
      rw [y1] at g1 g2
      rcases hq k with g | g
      · rw [g] at g1; cases g1
      · exact g g2
    refine ⟨fun b' hb' => ?_, fun g => (Option.some_ne_none b g).elim, fun ho => ?_, fun g => absurd g hne, fun g => absurd g hne,
      fun _ g => (Option.some_ne_none b g).elim, fun _ g => (Option.some_ne_none b g).elim⟩
    · cases hb'
      exact hp.of_eq tr (by rw [ft]; rfl) (tc _) (tc _) (fun k => (final k).trans (kept k)) (wc _ (by decide)) (wc _ (by decide))
    · rw [kept, hp.kept id (.inr (by rw [← tr, ho])), tr]
  | none =>
    have ot : o = t := by rw [eo, offerBanner, hb]
    obtain ⟨y, y1, y2, y3, y4⟩ := spec id
    obtain ⟨starts, stands, stops, keeps⟩ := ribbonOnSession_spec tgt id y y2
    rw [y1, ot, ← tr] at starts stands stops keeps
    rw [y3] at stops keeps
    rw [y4]
    have same : (s.ribbon id).state = .off → (ribbonOnSession tgt id y).ribbon id = s.ribbon id := fun g => by
      by_cases hpre : tgt = .preOpen
      · exact stands hpre (by simp [g])
      · exact keeps hpre (by simp [g])
    refine ⟨by simp, fun _ => ⟨?_, ?_⟩, same, stands, starts, fun g1 _ g2 g3 g4 g5 => stops ⟨g1, g2, g3, g4, g5⟩,
      fun g1 _ g => keeps (by rintro rfl; simp [closedOrAfter] at g1) ?_⟩
    · exact (wc .rbDropped (by decide)).trans (by rw [ot, tc])
    · exact (wc .rbModeRises (by decide)).trans (by rw [ot, tc])
    · rintro ⟨-, e1, e2, e3, e4⟩
      rcases g with g | g | g | g
      · exact g e1
      · exact g e2
      · exact g e3
      · rw [e4] at g; cases g

end Sys2Proof.Machine
end

section
/-! Proofs: the start of a RIBBON job (R68, R126 to R128). -/

namespace Sys2Proof.Machine

/-! ### The head-skip (R126) -/

theorem isTradeOf_iff (i : Nat) (p : PrintRecord) : p.isTradeOf i = true ↔ ∃ u, p.body = .trade u ∧ u.index = i := by
  unfold PrintRecord.isTradeOf
  split <;> simp_all

/-- R126: a head record that is skipped is counted, and the skip goes on behind it. -/
theorem headSkip_of_skipped {p : PrintRecord} {q : List PrintRecord} (h : skipped p q) :
    headSkip (p :: q) = ((headSkip q).1 + 1, (headSkip q).2) := by
  obtain ⟨t, hp, hf, x, hx, u, hu⟩ := h
  have : q.any (PrintRecord.isTradeOf t.index) = true := List.any_eq_true.2 ⟨x, hx, (isTradeOf_iff _ _).2 ⟨u, hu⟩⟩
  rw [headSkip, hp]
  simp [hf, this]

theorem headSkip_of_not_skipped {p : PrintRecord} {q : List PrintRecord} (h : ¬skipped p q) :
    headSkip (p :: q) = (0, p :: q) := by
  rw [headSkip]
  cases hp : p.body with
  | trade t =>
    refine if_neg fun g => h ?_
    rw [Bool.and_eq_true, List.any_eq_true] at g
    obtain ⟨gf, x, hx, hu⟩ := g
    exact ⟨t, hp, by simpa using gf, x, hx, (isTradeOf_iff _ _).1 hu⟩
  | halt _ _ => rfl
  | resume _ _ => rfl
  | banner _ => rfl

/-- R126: the records skipped, and the one that is taken. -/
theorem headSkip_eq {rec : PrintRecord} {rest : List PrintRecord} (hr : ¬skipped rec rest) (before : List PrintRecord)
    (hb : ∀ a p b, before = a ++ p :: b → skipped p (b ++ rec :: rest)) :
    headSkip (before ++ rec :: rest) = (before.length, rec :: rest) := by
  induction before with
  | nil => exact headSkip_of_not_skipped hr
  | cons p l ih =>
    rw [List.cons_append, headSkip_of_skipped (hb [] p l rfl), ih fun a q b h => hb (p :: a) q b (by rw [h]; rfl)]
    rfl

/-- R126: the record a job takes, with how many are skipped before it. -/
theorem takeRecord_eq {r : Ribbon} {before rest : List PrintRecord} {rec : PrintRecord}
    (hq : r.queue = before ++ rec :: rest) (hn : r.mode ≠ .sample → before = [])
    (hs : r.mode = .sample → ¬skipped rec rest ∧ ∀ a p b, before = a ++ p :: b → skipped p (b ++ rec :: rest)) :
    takeRecord r = (before.length, rec :: rest) := by
  unfold takeRecord
  split
  · next h => rw [hq, headSkip_eq (hs h).1 before (hs h).2]
  · next h => rw [hq, hn h]; rfl

/-! ### The text of a print (R14 to R18) -/

theorem cutPrice_eq (p : Nat) : modePrice.cutPrice p = priceText true p := by
  by_cases h : p % 64 = 0
  · simp [modePrice.cutPrice, priceText, fractionText, wholePart, fracPart, h]
  · simp [modePrice.cutPrice, priceText, fractionText, wholePart, fracPart, plainFraction, fracNum, fracDen, h]

theorem modePrice_eq (m : Mode) (anchored : Bool) (p : Nat) : modePrice m anchored p =
    priceText ((decide (m = .digits) || decide (m = .sample)) && anchored && decide (10 ≤ p / 64)) p := by
  have cut : (if (anchored && decide (10 ≤ wholePart p)) = true then modePrice.cutPrice p else plainPrice p) =
      priceText (anchored && decide (10 ≤ p / 64)) p := by
    rw [cutPrice_eq, plainPrice_eq, wholePart]
    cases anchored && decide (10 ≤ p / 64) <;> rfl
  cases m
  case normal => exact plainPrice_eq p
  case trim => exact plainPrice_eq p
  case digits => exact cut
  case sample => exact cut

theorem dropsSymbol_eq (r : Ribbon) (late : Bool) (i : Nat) :
    dropsSymbol r.mode (if late then none else r.preceding) i =
      (decide (r.mode ≠ .normal) && !late && decide (r.preceding = some i)) := by
  cases late <;> simp [dropsSymbol]

theorem modeVolume_eq (m : Mode) (t : Nat) (p : TradePrint) : modeVolume m t p =
    if decide (m = .sample) || decide (m ≠ .normal) && decide (p.size < t * p.lot) then [] else lotsText p.size p.lot := by
  cases m <;> simp [modeVolume, show ∀ a b, volumePart a b = lotsText a b from fun _ _ => rfl]

/-- R14 to R18: the text of a print as a ribbon stands; no symbol is dropped after a LATE text. -/
theorem printText_eq (r : Ribbon) (late : Bool) (b : PrintBody) :
    printText r.mode r.trim (if late then none else r.preceding) (anchoredFor r b) b = printShown r late b := by
  cases b with
  | trade t =>
    change tradeText r.mode r.trim _ _ t = _
    rw [tradeText, dropsSymbol_eq, modeVolume_eq, modePrice_eq]
    rfl
  | halt sym i => exact List.append_assoc ..
  | resume sym i => exact List.append_assoc ..
  | banner b => cases b <;> rfl

theorem lateText_eq (n : Nat) : lateText n = ['L', 'A', 'T', 'E', ' '] ++ digits n ++ [' ', ' '] := rfl

theorem lateToWrite_eq (r : Ribbon) (lag : Nat) : lateToWrite r lag =
    if lag < 60 then none else if r.lateFigure ≠ some (lag / 60) ∨ r.lateAge = 120 then some (lag / 60) else none := rfl

theorem tradeIndex_eq (b : PrintBody) : b.tradeIndex = match b with | .trade p => some p.index | _ => none := by
  cases b <;> rfl

theorem anchorOf_eq (r : Ribbon) (b : PrintBody) : anchorOf r b =
    if (r.mode = .digits ∨ r.mode = .sample) ∧ (∀ i, b.tradeIndex = some i → i ∉ r.anchors) then b.tradeIndex
    else none := by
  unfold anchorOf
  cases b.tradeIndex with
  | none => simp
  | some i => simp

/-- An evaluation changes a ribbon's mode, dwell and anchor bits alone. -/
theorem ribbon_evalMode (id : RibbonId) (s : State) : (evalMode id s).ribbon id = { s.ribbon id with
    mode := ((evalMode id s).ribbon id).mode, dwell := ((evalMode id s).ribbon id).dwell
    anchors := ((evalMode id s).ribbon id).anchors } := by
  rcases evalMode_cases id s with ⟨-, -, h⟩ | ⟨m, -, h⟩ | ⟨m, -, -, h⟩ <;> rw [h] <;> simp [Ribbon.rise, Ribbon.fall]

@[simp] theorem setJob_ribbon (s : State) (j : Job) (id : RibbonId) : (s.setJob j).ribbon id = s.ribbon id := by
  cases id <;> rfl

/-- Settles O34: the record taken (`takeRecord_eq`), and the job formed on the ribbon as the evaluation leaves it. -/
theorem ribbonJobTakesARecord : Obligations.RibbonJobTakesARecord := by
  intro id other s before rest rec hne x hq hn hs taken v y lag late lateText' index anchor u
  have htake : takeRecord x = (before.length, rec :: rest) := takeRecord_eq hq hn hs
  have off : OfferedTo id taken v := evalMode_offered id taken
  have hclock : v.clock = s.clock := by rw [off.frame]; simp [taken]
  have hfu : v.fu = s.fu := by rw [off.frame]; simp [taken]
  have hy : y.lateFigure = x.lateFigure ∧ y.lateAge = x.lateAge := by
    have : y = _ := ribbon_evalMode id taken
    rw [this]
    simp [taken]
  obtain ⟨hy1, hy2⟩ := hy
  have hlate : lateToWrite y lag = late := by rw [lateToWrite_eq, hy1, hy2]
  have hindex : rec.body.tradeIndex = index := tradeIndex_eq rec.body
  have hjob : ribbonJob id y lag rec.body = .ribbon id late lateText' (printShown y late.isSome rec.body) anchor index false := by
    unfold ribbonJob
    dsimp only
    rw [hlate, printText_eq, anchorOf_eq, hindex]
    rfl
  have hu : u = (if lag < 60 then v.setRibbon id { y with lateFigure := none } else v).setJob (ribbonJob id y lag rec.body) := by
    simp only [u, startRibbonJob]
    rw [show takeRecord (s.ribbon id) = _ from htake]
    dsimp only
    rw [show evalMode id _ = v from rfl, hclock]
    rfl
  have hother : v.ribbon other = s.ribbon other := by
    rw [off.other other hne]; simp [taken, State.ribbon_setRibbon_other s hne]
  rw [hu, hjob]
  by_cases hlag : lag < 60
  · rw [if_pos hlag, if_pos hlag]
    refine ⟨by cases id <;> rfl, by simp, ?_, by rw [← hfu]; simp [State.setJob]⟩
    rw [setJob_ribbon, State.ribbon_setRibbon_other v hne, hother]
  · rw [if_neg hlag, if_neg hlag, ← hy1, ← hfu]
    exact ⟨rfl, setJob_ribbon .., by rw [setJob_ribbon, hother], rfl⟩

end Sys2Proof.Machine
end

section
/-! Proofs: the start of a BOARD job (R67, R83 to R87). -/

namespace Sys2Proof.Machine

/-! ### Board texts of fields (R6, R7, R9, R12, R84, R85) -/

/-- R6, R7: the board text of a price. -/
theorem boardPrice_shown (w p : Nat) : PriceShown w p (boardPrice w p) := by
  unfold PriceShown
  intro whole frac g front glyphs exact coarse coarsens
  have he : exactForm p = exact := by
    unfold exactForm
    dsimp only [exact]
    by_cases h0 : fracPart p = 0
    · rw [if_pos h0, if_pos (show frac = 0 from h0)]; rfl
    · rw [if_neg h0, if_neg (show ¬frac = 0 from h0)]
      by_cases h16 : fracDen (fracPart p) ≤ 16
      · rw [if_pos h16, if_pos (show 64 / g ≤ 16 from h16)]; rfl
      · rw [if_neg h16, if_neg (show ¬64 / g ≤ 16 from h16), plainParts, if_neg h0]
        by_cases h1 : wholePart p = 0
        · rw [if_pos h1, if_pos (show whole = 0 from h1)]; rfl
        · rw [if_neg h1, if_neg (show ¬whole = 0 from h1), List.append_assoc, List.append_assoc]; rfl
  have hc : coarseForm p = coarse := rfl
  have hs : (fracPart p ≠ 0 ∧ 16 < fracDen (fracPart p)) = coarsens := rfl
  unfold boardPrice
  rw [he, hc]
  simp only [hs]
  refine ⟨fun h => ?_, fun h1 h2 h3 => ?_, fun h1 h2 h3 => ?_, fun h1 h2 => ?_⟩
  · rw [if_pos h]; rfl
  · rw [if_neg (by omega), if_pos h2, if_pos h3]; rfl
  · rw [if_neg (by omega), if_pos h2, if_neg (by omega)]; rfl
  · rw [if_neg (by omega), if_neg h2]; rfl

theorem boardPriceField_shown (w : Nat) (p : Option Nat) : OptPriceShown w p (boardPriceField w p) := by
  refine ⟨?_, ?_⟩
  · rintro rfl; rfl
  · rintro v rfl; exact boardPrice_shown w v

/-- R9: the board text of a net change. -/
theorem boardChange_shown (w : Nat) (last close : Option Nat) :
    ChangeShown w last close (boardChange w (netChange last close)) := by
  refine ⟨?_, ?_⟩
  · rintro (rfl | rfl)
    · rfl
    · cases last <;> rfl
  · rintro l c rfl rfl
    have hn : netChange (some l) (some c) = some ((l : Int) - c) := rfl
    rw [hn]
    refine ⟨fun h h3 => ?_, fun h h3 => ?_, fun h => ?_⟩
    · rw [boardChange, if_pos (by omega), if_pos h3]; rfl
    · rw [boardChange, if_pos (by omega), if_neg (by omega)]; rfl
    · have habs : ((l : Int) - c).natAbs = if c < l then l - c else c - l := by split <;> omega
      have hsign : signChar ((l : Int) - c) = if c < l then '+' else '-' := by
        unfold signChar; split_ifs <;> first | rfl | omega
      refine ⟨boardPrice (w - 1) (if c < l then l - c else c - l), boardPrice_shown .., ?_⟩
      rw [boardChange, if_neg (by omega), habs, hsign]
      dsimp only
      split_ifs with hm <;> simp_all [boardDashes]

theorem fieldForm_shown (field : Field) (w : Nat) (e : Entry) : FieldShown field w e (fieldForm field w e) := by
  cases field with
  | symbol =>
    refine ⟨fun h => ?_, fun h => ?_⟩ <;> simp only [fieldForm]
    · rw [if_pos h]; simp [Formed.plain, leftJustify, boardChars]
    · rw [if_neg (by omega)]; rfl
  | last =>
    refine ⟨fun h => ?_, fun h => ?_⟩ <;> simp only [fieldForm, h, decide_true, decide_false, if_true]
    · rfl
    · exact boardPriceField_shown ..
  | change =>
    refine ⟨fun h => ?_, fun h => ?_⟩ <;> simp only [fieldForm, h, decide_true, decide_false, if_true]
    · rfl
    · exact boardChange_shown ..
  | volume => rfl
  | tick => cases ht : e.tick <;> simp [FieldShown, fieldForm, ht, Formed.plain, atRight, rightJustify, tickBoardChar]
  | high => exact boardPriceField_shown ..
  | low => exact boardPriceField_shown ..
  | close => exact boardPriceField_shown ..

/-- R12, R86: the HUE of a field: that of the tick for the three fields that show it, unless a HALTED entry shows none. -/
theorem fieldHue_eq (field : Field) (e : Entry) : fieldHue field e = hueShown field e := by
  have tick : field = .tick ∨ (field = .last ∨ field = .change) ∧ e.status ≠ .halted → hueShown field e = hueOf e.tick := by
    intro h
    rw [hueShown, if_pos h]
    cases e.tick <;> rfl
  have white : ¬(field = .tick ∨ (field = .last ∨ field = .change) ∧ e.status ≠ .halted) → hueShown field e = .white :=
    fun h => if_neg h
  have halts : (field = .last ∨ field = .change) →
      (if e.status = .halted then .white else hueOf e.tick) = hueShown field e := by
    intro h
    split
    · next hh => exact (white (by rcases h with rfl | rfl <;> simp [hh])).symm
    · next hh => exact (tick (.inr ⟨h, hh⟩)).symm
  cases field with
  | last => exact halts (.inl rfl)
  | change => exact halts (.inr rfl)
  | tick => exact (tick (.inl rfl)).symm
  | symbol => exact (white (by simp)).symm
  | volume => exact (white (by simp)).symm
  | high => exact (white (by simp)).symm
  | low => exact (white (by simp)).symm
  | close => exact (white (by simp)).symm

/-! ### The text of a cell (R83 to R87) -/

theorem withAttributes_chars (hue : Hue) (flash : Bool) (cs : List BoardChar) :
    (withAttributes hue flash cs).map BoardPos.char = cs := by
  simp [withAttributes, Function.comp_def]

theorem mem_withAttributes {hue : Hue} {flash : Bool} {cs : List BoardChar} {p : BoardPos}
    (h : p ∈ withAttributes hue flash cs) : p.hue = hue ∧ p.flash = flash := by
  simp only [withAttributes, List.mem_map] at h
  obtain ⟨c, -, rfl⟩ := h
  exact ⟨rfl, rfl⟩

/-- The characters of a cell's text are the formed ones. -/
theorem formCell_chars (period : Nat) (r : Cell) (e : Option Entry) :
    (formCell period r e).text.map BoardPos.char = (formCell period r e).formed.chars := by
  unfold formCell
  split <;> exact withAttributes_chars ..

/-- R87: when a flash starts. -/
theorem flashStarts_iff (period : Nat) (r : Cell) (chars : List BoardChar) : flashStarts period r chars = true ↔
    (r.field = .last ∨ r.field = .change) ∧ r.tradeMark = true ∧ 0 < period ∧ ∃ p, r.prevChars = some p ∧ p ≠ chars := by
  unfold flashStarts
  have hf : r.field.flashes = true ↔ r.field = .last ∨ r.field = .change := by cases r.field <;> simp [Field.flashes]
  cases hp : r.prevChars <;> simp [hf, and_assoc]

theorem shownEntry_unbound (s : State) {r : Cell} (h : r.binding = none) : shownEntry s r = none := by
  rw [shownEntry, h]

theorem shownEntry_bound (s : State) {r : Cell} {i : Nat} (h : r.binding = some i) :
    shownEntry s r = if (s.entry i).status = .free then none else some (s.entry i) := by
  rw [shownEntry, h]

/-- R83: a held cell shows its hold. -/
theorem formCell_hold (period : Nat) {r : Cell} {h : Hold} (hh : r.hold = some h) (e : Option Entry) :
    formCell period r e =
      { formed := Formed.plain (leftJustify (.plain ' ') r.width h.text)
        text := withAttributes h.hue h.flash (leftJustify (.plain ' ') r.width h.text), flashCount := r.flashCount } := by
  unfold formCell
  rw [hh]

/-- R83: a cell that is neither held nor bound to a listed entry shows spaces. -/
theorem formCell_blank (period : Nat) {r : Cell} (hh : r.hold = none) : formCell period r none =
    { formed := Formed.plain (boardSpaces r.width), text := blankText r.width, flashCount := r.flashCount } := by
  unfold formCell
  rw [hh]

/-- R84 to R87: the cell of an entry that is not FREE. -/
theorem formCell_field {period : Nat} {r : Cell} (hh : r.hold = none) (e : Entry) :
    let t := formCell period r (some e)
    let flashes := r.field = .last ∨ r.field = .change
    let starts := flashes ∧ r.tradeMark = true ∧ 0 < period ∧ ∃ p, r.prevChars = some p ∧ p ≠ t.formed.chars
    FieldShown r.field r.width e t.formed ∧ (starts → t.flashCount = period) ∧ (¬starts → t.flashCount = r.flashCount) ∧
      ∀ p ∈ t.text, p.hue = hueShown r.field e ∧ (p.flash = true ↔ flashes ∧ 0 < t.flashCount) := by
  intro t flashes starts
  have ht : t = { formed := fieldForm r.field r.width e
                  text := withAttributes (fieldHue r.field e) (r.field.flashes && decide (0 < t.flashCount))
                    (fieldForm r.field r.width e).chars
                  flashCount := if flashStarts period r (fieldForm r.field r.width e).chars then period else r.flashCount } := by
    simp only [t, formCell, hh]
  have hf : r.field.flashes = true ↔ flashes := by simp only [flashes]; cases r.field <;> simp [Field.flashes]
  have hform : t.formed = fieldForm r.field r.width e := by rw [ht]
  have hcount : t.flashCount = if flashStarts period r t.formed.chars then period else r.flashCount := by rw [ht]
  have hstarts : flashStarts period r t.formed.chars = true ↔ starts := flashStarts_iff ..
  refine ⟨by rw [hform]; exact fieldForm_shown .., fun h => ?_, fun h => ?_, fun p hp => ?_⟩
  · rw [hcount, if_pos (hstarts.2 h)]
  · rw [hcount, if_neg fun g => h (hstarts.1 g)]
  · rw [ht] at hp
    obtain ⟨h1, h2⟩ := mem_withAttributes hp
    exact ⟨by rw [h1, fieldHue_eq], by rw [h2, Bool.and_eq_true, hf, decide_eq_true_eq]⟩

/-! ### The start of the job (R67) -/

/-- R67, R30: the entry a cell is bound to is read. -/
theorem touchBinding_read (r : Cell) (s : State) : (r.binding = none → touchBinding r s = s) ∧
    (∀ i, r.binding = some i → EntryRead i s (touchBinding r s)) ∧
    touchBinding r s = { s with
      entries := (touchBinding r s).entries, queues := (touchBinding r s).queues, terms := (touchBinding r s).terms } := by
  unfold touchBinding
  cases r.binding with
  | none => exact ⟨fun _ => rfl, fun _ h => absurd h (by simp), rfl⟩
  | some i =>
    refine ⟨fun h => absurd h (by simp), fun j h => ?_, (touch_read i s).frame⟩
    cases h
    exact touch_read i s

/-- R67: the parts of the start of a BOARD job: the cell taken, its entry read, its text formed. -/
theorem startBoardJob_parts {line c : Nat} {rest : List Nat} {s : State} (hq : s.refreshQueue line = c :: rest) :
    let r := s.cell c
    let taken := (s.setQueue line rest).setCell c { r with needsFull := false }
    ∃ v t, v = touchBinding { r with needsFull := false } taken ∧
      t = formCell s.flashPeriod { r with needsFull := false } (shownEntry v { r with needsFull := false }) ∧
      startBoardJob line s = (((v.setCell c (Cell.afterJobStart { r with needsFull := false } t)).advance .bdCoarsened
        t.formed.coarsened).advance .bdOverflow t.formed.overflow).setJob (.board line (c % 64) t.text r.needsFull) := by
  intro r taken
  have hc : taken.cell c = { r with needsFull := false } := State.cell_setCell_same ..
  obtain ⟨v, ev⟩ : ∃ v, v = touchBinding { r with needsFull := false } taken := ⟨_, rfl⟩
  have fv := (touchBinding_read { r with needsFull := false } taken).2.2
  rw [← ev] at fv
  have vc : v.cell c = { r with needsFull := false } := by rw [cell_of_cells (s := taken) (by rw [fv]), hc]
  have vp : v.flashPeriod = s.flashPeriod := by rw [fv]; rfl
  refine ⟨v, _, ev, rfl, ?_⟩
  unfold startBoardJob
  rw [hq]
  dsimp only
  rw [show State.setCell _ c _ = taken from rfl, hc, ← ev, vc, vp]

/-- Settles O32: the cell is taken, its entry read (`touchBinding_read`), and its text formed (`formCell_field`). -/
theorem boardJobTakesTheHeadCell : Obligations.BoardJobTakesTheHeadCell := by
  intro line c rest s hq r taken u
  obtain ⟨v, t, ev, et, hu⟩ := startBoardJob_parts hq
  obtain ⟨unbound, bound, fv⟩ := touchBinding_read { r with needsFull := false } taken
  rw [show touchBinding _ taken = v from ev.symm] at unbound bound fv
  obtain ⟨w, ew⟩ : ∃ w, w = ((v.setCell c (Cell.afterJobStart { r with needsFull := false } t)).advance .bdCoarsened
    t.formed.coarsened).advance .bdOverflow t.formed.overflow := ⟨_, rfl⟩
  rw [show startBoardJob line s = u from rfl, ← ew] at hu
  have fw : w = { v with cells := w.cells, counters := w.counters } := by rw [ew]; rfl
  have fu : u = { w with fu := { w.fu with job := some (.board line (c % 64) t.text r.needsFull) } } := hu
  have uentries : u.entries = v.entries := by rw [fu, fw]
  have uqueues : u.queues = v.queues := by rw [fu, fw]
  have uterms : u.terms = v.terms := by rw [fu, fw]
  have vcell : ∀ d, v.cell d = taken.cell d := cell_of_cells (by rw [fv])
  have vcounter : ∀ k, v.counter k = s.counter k := counter_of_counters (by rw [fv]; rfl)
  have ucell : ∀ d, u.cell d = (v.setCell c (Cell.afterJobStart { r with needsFull := false } t)).cell d :=
    cell_of_cells (by rw [fu, ew]; rfl)
  have ucounter : ∀ k, u.counter k = w.counter k := counter_of_counters (by rw [fu])
  refine ⟨t.formed.chars, t.text, t.flashCount, t.formed.coarsened, t.formed.overflow, ?_, ?_, fun d hd => ?_, ?_,
    ⟨?_, ?_, fun k hk => ?_⟩, fun h => ?_, fun i hi hs => ?_, fun h hh => ?_, fun hh hb => ?_, fun i hh hi hs => ?_⟩
  · rw [fu, fw, fv]; rfl
  · rw [ucell, State.cell_setCell_same]; rfl
  · rw [ucell, State.cell_setCell_other _ hd, vcell]; exact State.cell_setCell_other _ hd _
  · rw [et]; exact formCell_chars ..
  · rw [ucounter, ew, State.counter_advance_other _ (by decide), State.counter_advance_same, State.setCell_counter, vcounter]; rfl
  · rw [ucounter, ew, State.counter_advance_same, State.counter_advance_other _ (by decide), State.setCell_counter, vcounter]; rfl
  · simp only [List.mem_cons, List.not_mem_nil, or_false, not_or] at hk
    rw [ucounter, ew, State.counter_advance_other _ hk.2, State.counter_advance_other _ hk.1, State.setCell_counter, vcounter]
  · have : v = taken := by
      cases hb : r.binding with
      | none => exact unbound hb
      | some i => exact (bound i hb).fresh (h i hb)
    rw [uqueues, uentries, uterms, this]
    exact ⟨rfl, rfl, rfl⟩
  · have hread := bound i hi
    refine ⟨?_, fun j hj => ?_, ?_, ?_⟩
    · rw [entry_of_entries uentries, hread.entry]; rfl
    · rw [entry_of_entries uentries, hread.others j hj]; rfl
    · exact (hread.cells hs).of_eq rfl rfl uqueues
    · exact ((hread.rows hs).of_eq (s := s) rfl rfl).to_eq uterms
  · rw [show t = _ from et.trans (formCell_hold _ (r := { r with needsFull := false }) hh _)]
    exact ⟨rfl, fun p hp => mem_withAttributes hp, rfl⟩
  · have hshown : shownEntry v { r with needsFull := false } = none := by
      rcases hb with hb | ⟨i, hb, hs⟩
      · exact shownEntry_unbound v (r := { r with needsFull := false }) hb
      · have : (v.entry i).status = .free := by rw [(bound i hb).entry, (current_keeps i taken).2.2.2.2.1]; exact hs
        exact (shownEntry_bound v (r := { r with needsFull := false }) hb).trans (if_pos this)
    rw [hshown] at et
    rw [show t = _ from et.trans (formCell_blank _ (r := { r with needsFull := false }) hh)]
    exact ⟨by simp [blankText, withAttributes, boardSpaces], rfl⟩
  · have hve : v.entry i = s.current i := by rw [(bound i hi).entry]; rfl
    have hst : (v.entry i).status ≠ .free := by rw [hve, (current_keeps i s).2.2.2.2.1]; exact hs
    have hshown : shownEntry v { r with needsFull := false } = some (s.current i) := by
      rw [← hve]
      exact (shownEntry_bound v (r := { r with needsFull := false }) hi).trans (if_neg hst)
    rw [hshown] at et
    rw [et]
    exact formCell_field (r := { r with needsFull := false }) hh (s.current i)

end Sys2Proof.Machine
end

section
/-! Proofs: the start of a TERMINAL job (R20, R63, R69, R152, R162, R173, R176). -/

namespace Sys2Proof.Machine

/-! ### The width of a row (R20) -/

/-- R5: a fraction has at most five characters. -/
theorem fractionText_length {p : Nat} {f : Text} (h : fractionText p = some f) : f.length ≤ 5 := by
  unfold fractionText at h
  dsimp only at h
  split_ifs at h
  cases h
  have hn : p % 64 / Nat.gcd (p % 64) 64 < 10 ^ 2 := (Nat.div_le_self _ _).trans_lt (by omega)
  have hd : 64 / Nat.gcd (p % 64) 64 < 10 ^ 2 := (Nat.div_le_self _ _).trans_lt (by omega)
  have := digits_length_le (by omega) hn (by omega)
  have := digits_length_le (by omega) hd (by omega)
  rw [List.length_append, List.length_cons]
  omega

/-- R5: a price in range has at most ten characters. -/
theorem priceText_length {p : Nat} (h : p ≤ 639999) : (priceText false p).length ≤ 10 := by
  have whole := digits_length_le (n := p / 64) (k := 4) (by omega) (by omega) (by omega)
  unfold priceText
  cases hf : fractionText p with
  | none => exact whole.trans (by omega)
  | some f =>
    have := fractionText_length hf
    simp only [Bool.false_eq_true, if_false]
    split_ifs
    · omega
    · rw [List.length_append, List.length_cons]; omega

theorem changeText_length {last close : Option Nat} (hl : ∀ p, last = some p → p ≤ 639999)
    (hc : ∀ p, close = some p → p ≤ 639999) : (changeText last close).length ≤ 11 := by
  rcases last with _ | l <;> rcases close with _ | c
  case some.some =>
    have h1 := hl l rfl
    have h2 := hc c rfl
    have hd : (if c < l then l - c else c - l) ≤ 639999 := by split <;> omega
    have := priceText_length hd
    rw [changeText]
    split_ifs at * <;> simp <;> omega
  all_goals simp [changeText]

/-- TABLE 1-7: columns that fit make a row of 63 characters. -/
theorem rowColumns_length {symbol last change bid ask volume : Text} (tick : Char) (h1 : symbol.length ≤ 7)
    (h2 : last.length ≤ 10) (h3 : change.length ≤ 11) (h4 : bid.length ≤ 10) (h5 : ask.length ≤ 10)
    (h6 : volume.length ≤ 8) :
    let column (w : Nat) (t : Text) : Text := List.replicate (w - t.length) ' ' ++ t
    (symbol ++ List.replicate (7 - symbol.length) ' ' ++ ' ' :: column 10 last ++ ' ' :: column 11 change ++
      ' ' :: column 10 bid ++ ' ' :: column 10 ask ++ ' ' :: column 8 volume ++ [' ', tick]).length = 63 := by
  simp only [List.length_append, List.length_cons, List.length_replicate, List.length_nil]
  omega

/-- R20: a row is 63 characters while its figures are in range. -/
theorem watchRow_length {e : Entry} (h : e.figuresInRange) : (watchRow e).length = 63 := by
  have price : ∀ p : Option Nat, (∀ v, p = some v → v ≤ 639999) →
      (match p with | some v => priceText false v | none => []).length ≤ 10 := by
    intro p hp
    cases p with
    | none => simp
    | some v => exact priceText_length (hp v rfl)
  have side : ∀ x : Option Side, (∀ y, x = some y → y.price ≤ 639999) → ∀ v, x.map Side.price = some v → v ≤ 639999 := by
    rintro x hx v hv
    obtain ⟨y, rfl, rfl⟩ := Option.map_eq_some_iff.1 hv
    exact hx y rfl
  have hlast : (if e.status = .halted then ['H', 'A', 'L', 'T'] else
      match e.last with | some v => priceText false v | none => []).length ≤ 10 := by
    split
    · simp
    · exact price e.last h.last
  have hvol := digits_length_le (n := e.dayVolume) (k := 8) (by omega) (by have := h.volume; omega) (by omega)
  exact rowColumns_length _ h.symbol hlast (changeText_length h.last h.close) (price _ (side e.bid h.bid))
    (price _ (side e.ask h.ask)) hvol

/-! ### The terminal that is served (R63, R152) -/

/-- R176: the lowest alert that is due. -/
theorem bellDue_eq_some_iff (t : Terminal) (k : Nat) : t.bellDue = some k ↔
    (k < 4 ∧ (t.alert k).state = .fired ∧ (t.alert k).marked = false) ∧
      ∀ j, j < k → ¬(j < 4 ∧ (t.alert j).state = .fired ∧ (t.alert j).marked = false) := by
  unfold Terminal.bellDue
  rw [List.find?_range_eq_some]
  simp only [List.mem_range, Bool.and_eq_true, decide_eq_true_eq, Bool.not_eq_true']
  constructor
  · rintro ⟨h, hk, hj⟩
    exact ⟨⟨hk, h⟩, fun j hjk g => by have := hj j hjk; simp [g.2.1, g.2.2] at this⟩
  · rintro ⟨⟨hk, h⟩, hj⟩
    exact ⟨h, hk, fun j hjk => by simpa using fun g => hj j hjk ⟨hjk.trans hk, g⟩⟩

theorem bellDue_eq_none_iff (t : Terminal) : t.bellDue = none ↔
    ∀ k, ¬(k < 4 ∧ (t.alert k).state = .fired ∧ (t.alert k).marked = false) := by
  unfold Terminal.bellDue
  simp [List.find?_eq_none]

/-- R152: the block composed is the first of the six that the terminal has; none when it owes nothing. -/
theorem Terminal.choice_cases (t : Terminal) :
    (t.record.state = .answered ∧ t.choice = some .reply) ∨
    (∃ k, t.record.state ≠ .answered ∧ t.bellDue = some k ∧ t.choice = some (.bell k)) ∨
    (t.record.state ≠ .answered ∧ t.bellDue = none ∧ (t.state = .active ∧ t.fullPage = true) ∧ t.choice = some .page) ∨
    (t.record.state ≠ .answered ∧ t.bellDue = none ∧ ¬(t.state = .active ∧ t.fullPage = true) ∧ t.statusOwed = true ∧
      t.choice = some .status) ∨
    (t.record.state ≠ .answered ∧ t.bellDue = none ∧ t.statusOwed = false ∧ (t.state = .lapsed ∧ t.idleOwed = true) ∧
      t.choice = some .idle) ∨
    (t.record.state ≠ .answered ∧ t.bellDue = none ∧ ¬(t.state = .active ∧ t.fullPage = true) ∧ t.statusOwed = false ∧
      (t.state = .active ∧ t.rows ≠ []) ∧ t.choice = some .rows) ∨
    (¬t.owes ∧ t.choice = none) := by
  unfold Terminal.choice
  by_cases h1 : t.record.state = .answered
  · exact .inl ⟨h1, if_pos h1⟩
  rw [if_neg h1]
  cases hb : t.bellDue with
  | some k => exact .inr (.inl ⟨k, h1, rfl, rfl⟩)
  | none =>
    dsimp only
    split_ifs with h2 h3 h4 h5
    · exact .inr (.inr (.inl ⟨h1, rfl, h2, rfl⟩))
    · exact .inr (.inr (.inr (.inl ⟨h1, rfl, h2, h3, rfl⟩)))
    · exact .inr (.inr (.inr (.inr (.inl ⟨h1, rfl, by simpa using h3, h4, rfl⟩))))
    · exact .inr (.inr (.inr (.inr (.inr (.inl ⟨h1, rfl, h2, by simpa using h3, h5, rfl⟩)))))
    · refine .inr (.inr (.inr (.inr (.inr (.inr ⟨?_, rfl⟩)))))
      rintro (h | ⟨k, h⟩ | h | h | h | h)
      · exact h1 h
      · exact (bellDue_eq_none_iff t).1 hb k h
      · exact h2 h
      · exact h3 h
      · exact h4 h
      · exact h5 h

/-- R152: a terminal owes something exactly when it has a block to compose. -/
theorem Terminal.choice_isSome_iff (t : Terminal) : t.choice.isSome = true ↔ t.owes := by
  unfold Terminal.owes
  rcases t.choice_cases with ⟨h, e⟩ | ⟨k, -, h, e⟩ | ⟨-, -, h, e⟩ | ⟨-, -, -, h, e⟩ | ⟨-, -, -, h, e⟩ | ⟨-, -, -, -, h, e⟩ |
    ⟨h, e⟩ <;> rw [e]
  · simp [h]
  · have := ((bellDue_eq_some_iff t k).1 h).1
    exact ⟨fun _ => .inr (.inl ⟨k, this⟩), fun _ => rfl⟩
  · simp [h]
  · simp [h]
  · simp [h]
  · simp [h]
  · exact ⟨fun g => by simp at g, fun g => absurd g h⟩

/-- R63: eligible terminals. -/
theorem Terminal.eligible_iff (t : Terminal) : t.eligible = true ↔ t.ready := by
  unfold Terminal.eligible Terminal.ready Terminal.served
  rw [Bool.and_eq_true, Bool.and_eq_true, t.choice_isSome_iff]
  simp [and_assoc]

/-- R63: the terminal served is the ready one with the least way to go after the compose pointer. -/
theorem nextEligible_eq {line a : Nat} {s : State} (ha : a < 16) (hp : (s.tline line).compose < 16)
    (hr : (s.term (termNo line a)).ready)
    (hmin : ∀ b, b < 16 → (s.term (termNo line b)).ready →
      (a + 15 - (s.tline line).compose) % 16 ≤ (b + 15 - (s.tline line).compose) % 16) :
    nextEligible line s = some a := by
  unfold nextEligible afterPointer
  generalize (s.tline line).compose = p at hp hmin
  rw [List.find?_map, Option.map_eq_some_iff]
  refine ⟨(a + 15 - p) % 16, List.find?_range_eq_some.2 ⟨?_, by simp; omega, fun j hj => ?_⟩, by omega⟩
  · have : (p + 1 + (a + 15 - p) % 16) % 16 = a := by omega
    simp only [Function.comp_apply, this]
    exact (Terminal.eligible_iff _).2 hr
  · simp only [Function.comp_apply, Bool.not_eq_true', ← Bool.not_eq_true, Terminal.eligible_iff]
    intro g
    have := hmin ((p + 1 + j) % 16) (by omega) g
    omega

/-! ### What a block shows of the entries it reads (R162, R173, R176) -/

/-- R162: a row of an instrument that a block has read, or an empty one. -/
theorem rowOf_read {is : List Nat} {s u : State} (h : EntriesRead is s u) {o : Option Nat} (ho : ∀ i, o = some i → i ∈ is) :
    rowOf u o = o.elim (List.replicate 63 ' ') fun i => watchRow (s.current i) := by
  cases o with
  | none => rfl
  | some i => rw [rowOf, rowText_eq, h.read i (ho i rfl), Option.elim_some]

/-- R173: an index is quoted when an ACCEPTED QUOTE-ASK has stored it. -/
theorem quotedIndex_eq_some_iff (q : DealerRequest) (r : DealerResult) (i : Nat) :
    quotedIndex q r = some i ↔ q.kind = some .quoteAsk ∧ r.code = .accepted ∧ r.index = some i := by
  unfold quotedIndex
  split_ifs with h
  · simp [h]
  · simp only [false_iff]
    exact fun g => h ⟨g.1, g.2.1⟩

/-- R173: the entry a REPLY block reads is that of the quote it carries. -/
theorem mem_quoted (t : Terminal) (i : Nat) :
    i ∈ [quotedIndex (t.record.request.getD DealerRequest.blank)
        (t.record.result.getD (DealerResult.ofCode .unknown))].filterMap id ↔
      ∃ q r, t.record.request = some q ∧ t.record.result = some r ∧ q.kind = some .quoteAsk ∧ r.code = .accepted ∧
        r.index = some i := by
  have mem : ∀ o : Option Nat, i ∈ [o].filterMap id ↔ o = some i := by intro o; simp [eq_comm]
  rw [mem, quotedIndex_eq_some_iff]
  cases hq : t.record.request with
  | none => simp [DealerRequest.blank]
  | some q =>
    cases hr : t.record.result with
    | none => simp [DealerResult.ofCode]
    | some r => simp

/-- R173: the code and the details of a REPLY block. -/
theorem replyContent_spec {is : List Nat} {s u : State} (h : EntriesRead is s u) (q : DealerRequest) (r : DealerResult)
    (hi : ∀ i, quotedIndex q r = some i → i ∈ is) :
    let quoted (i : Nat) := q.kind = some .quoteAsk ∧ r.code = .accepted ∧ r.index = some i
    let same (i : Nat) := (s.entry i).status ≠ .free ∧ q.symbol = some (s.entry i).symbol
    let x := replyContent u q r
    (∀ i, quoted i → same i → x.1 = .accepted ∧ x.2 = .row (watchRow (s.current i))) ∧
      (∀ i, quoted i → ¬same i → x.1 = .unknown ∧ x.2 = .none) ∧ ((∀ i, ¬quoted i) → x.1 = r.code) ∧
      (∀ p, q.kind = some .watchAdd → r.code = .accepted → r.position = some p → x.2 = .position p) ∧
      (∀ c, q.kind = some .alertSet → r.code = .accepted → r.conditions = some c → x.2 = .conditions c) ∧
      (r.code ≠ .accepted → x.2 = .none) := by
  intro quoted same x
  have hquoted : ∀ i, quotedIndex q r = some i ↔ quoted i := quotedIndex_eq_some_iff q r
  have row : ∀ i, quoted i → x = if same i then (.accepted, .row (watchRow (s.current i))) else (.unknown, .none) := by
    intro i hqi
    have hx := (hquoted i).2 hqi
    obtain ⟨-, -, -, hsym, hst, -⟩ := current_keeps i s
    simp only [x, replyContent, hx, h.read i (hi i hx), hst, hsym, rowText_eq]
    by_cases hs : same i
    · rw [if_pos hs, if_neg fun g => g.elim hs.1 fun g => g hs.2]
    · rw [if_neg hs, if_pos (by by_contra g; rw [not_or, not_not] at g; exact hs g)]
  have other : (∀ i, ¬quoted i) → x = (r.code, if r.code = .accepted then replyDetail q r else .none) := by
    intro hn
    have hx : quotedIndex q r = none := Option.eq_none_iff_forall_ne_some.2 fun i g => hn i ((hquoted i).1 g)
    simp only [x, replyContent, hx]
  refine ⟨fun i g1 g2 => ?_, fun i g1 g2 => ?_, fun hn => by rw [other hn], fun p g1 g2 g3 => ?_, fun c g1 g2 g3 => ?_,
    fun hn => ?_⟩
  · rw [row i g1, if_pos g2]; exact ⟨rfl, rfl⟩
  · rw [row i g1, if_neg g2]; exact ⟨rfl, rfl⟩
  · rw [other fun i g => by rw [g.1] at g1; cases g1]; simp [g2, replyDetail, g1, g3]
  · rw [other fun i g => by rw [g.1] at g1; cases g1]; simp [g2, replyDetail, g1, g3]
  · rw [other fun i g => hn g.2.1]; simp [hn]

theorem replySymbol_eq (q : DealerRequest) : replySymbol q =
    if q.kind = some .page ∨ q.kind = some .resync ∨ q.kind = some .alertClear then none else q.symbol := by
  unfold replySymbol
  rcases q.kind with _ | k
  · rfl
  · cases k <;> rfl

/-! ### The job (R69) -/

/-- R69: the start of a TERMINAL job: the compose pointer moves, and the block of the choice is composed. -/
theorem startTerminalJob_eq {line a : Nat} {s : State} {c : BlockChoice} (hn : nextEligible line s = some a)
    (hc : (s.term (termNo line a)).choice = some c) :
    let made := compose (termNo line a) c (s.setTLine line { s.tline line with compose := a })
    startTerminalJob line s = made.2.setJob (.terminal line a made.1 .kept) := by
  unfold startTerminalJob
  rw [hn]
  dsimp only
  rw [hc]

/-- R69: what stands around the block, whichever it is. -/
theorem terminalJob_frame {line a : Nat} {s v : State} {is : List Nat} {x : Terminal} {b : Block}
    (h : EntriesRead is ((s.setTLine line { s.tline line with compose := a }).setTerm (termNo line a) x) v) :
    let u := v.setJob (.terminal line a b .kept)
    u = { v with fu := { s.fu with job := some (.terminal line a b .kept) } } ∧
      u.tline line = { s.tline line with compose := a } ∧ s.otherLinesKept u line ∧ ∀ i ∈ is, u.entry i = s.current i := by
  intro u
  have hfu : v.fu = s.fu := by rw [h.frame]; rfl
  have htl : ∀ m, u.tline m = (s.setTLine line { s.tline line with compose := a }).tline m := fun m => by
    simp only [u, State.setJob, State.setFU_tline]
    simp only [State.tline]
    rw [h.frame]
    rfl
  refine ⟨by rw [← hfu]; rfl, ?_, fun m hm => ?_, fun i hi => h.read i hi⟩
  · rw [htl, State.tline_setTLine_same]
  · rw [htl, State.tline_setTLine_other _ hm]

/-- R152, R69: a TERMINAL job whose block is composed: what stands around it. -/
theorem terminalJob_made {line a : Nat} {s v : State} {c : BlockChoice} {is : List Nat} {x : Terminal} {b : Block}
    (hn : nextEligible line s = some a) (hc : (s.term (termNo line a)).choice = some c)
    (hm : compose (termNo line a) c (s.setTLine line { s.tline line with compose := a }) = (b, v))
    (h : EntriesRead is ((s.setTLine line { s.tline line with compose := a }).setTerm (termNo line a) x) v) :
    let u := startTerminalJob line s
    u = { v with fu := { s.fu with job := some (.terminal line a b .kept) } } ∧
      u.tline line = { s.tline line with compose := a } ∧ s.otherLinesKept u line ∧ ∀ i ∈ is, u.entry i = s.current i := by
  intro u
  have hu : u = v.setJob (.terminal line a b .kept) := by
    have := startTerminalJob_eq hn hc
    rwa [hm] at this
  rw [hu]
  exact terminalJob_frame h

/-- R162: the entries a list of rows shows. -/
theorem mem_rowIndices (t : Terminal) (rows : List Nat) (i : Nat) :
    i ∈ (rows.map t.rowIndex).filterMap id ↔ ∃ r ∈ rows, t.watchList[12 * t.page + r]? = some i := by
  simp [List.mem_filterMap, Terminal.rowIndex]

/-- R176: the BELL block of a fired alert, from the entry that was read. -/
theorem bellBlock_eq {n k i : Nat} {w : State} {f : FiredTrade} {symbol : Text}
    (hi : ((w.term n).alert k).instrument = some i) (hf : ((w.term n).alert k).fired = some f)
    (hs : ((composeBell n k w).2.entry i).symbol = symbol) :
    (composeBell n k w).1 = .bell
      { slot := k, symbol := symbol, price := priceText false f.price, size := digits f.size
        hours := f.second / 3600, minutes := f.second % 3600 / 60, seconds := f.second % 60
        conditions := ((w.term n).alert k).conditions } := by
  rw [← hs, ← plainPrice_eq]
  simp only [composeBell, hi, hf, Option.getD_some]

/-- Settles O36: the block of the choice is composed from the entries it reads. -/
theorem terminalJobComposesABlock : Obligations.TerminalJobComposesABlock := by
  refine ⟨fun e => watchRow_length, ?_⟩
  intro line a s hline ha hp hready hmin n t u rowShown bell onRow
  have hn : nextEligible line s = some a := nextEligible_eq ha hp hready hmin
  have row : ∀ {is : List Nat} {w v : State}, EntriesRead is w v → (∀ i, w.current i = s.current i) → ∀ r,
      (∀ i, onRow i r → i ∈ is) → rowOf v (t.rowIndex r) = rowShown t.watchList[12 * t.page + r]? := by
    intro is w v hread hw r hr
    rw [rowOf_read hread (o := t.rowIndex r) hr]
    simp only [hw]
    change _ = rowShown (t.rowIndex r)
    cases t.rowIndex r <;> rfl
  have noBell : t.bellDue = none → ∀ k, ¬bell k := (bellDue_eq_none_iff t).1
  have theBell : ∀ k, t.bellDue = some k → bell k ∧ ∀ j, j < k → ¬bell j := fun k => (bellDue_eq_some_iff t k).1
  rcases t.choice_cases with ⟨h, hc⟩ | ⟨k, h, hk, hc⟩ | ⟨h, hb, hf, hc⟩ | ⟨h, hb, hf, hs, hc⟩ | ⟨h, hb, hs, hl, hc⟩ |
    ⟨h, hb, hf, hs, hl, hc⟩ | ⟨h, hc⟩
  case inl =>
    have hread := touchAll_read [quotedIndex (t.record.request.getD DealerRequest.blank)
      (t.record.result.getD (DealerResult.ofCode .unknown))]
      ((s.setTLine line { s.tline line with compose := a }).setTerm n { t with record := { t.record with state := .sent } })
    obtain ⟨h1, h2, h3, h4⟩ := terminalJob_made hn hc rfl hread
    refine ⟨_, _, _, _, hread, h1, h2, h3, h4, fun _ => ⟨rfl, mem_quoted t, ?_⟩, fun g => absurd h g,
      fun g => absurd h g⟩
    intro q r hq hr blank quoted same
    obtain rfl : t.record.request.getD DealerRequest.blank = q := by rw [hq]; rfl
    obtain rfl : t.record.result.getD (DealerResult.ofCode .unknown) = r := by rw [hr]; rfl
    refine ⟨_, _, ?_, replyContent_spec hread _ _ fun i hi => (mem_quoted t i).2
      ⟨_, _, hq, hr, (quotedIndex_eq_some_iff _ _ i).1 hi⟩⟩
    rw [← replySymbol_eq]
    rfl
  case inr.inl =>
    obtain ⟨hbell, hfirst⟩ := theBell k hk
    have hread := touchAll_read [(t.alert k).instrument]
      ((s.setTLine line { s.tline line with compose := a }).setTerm n (t.setAlert k { t.alert k with marked := true }))
    obtain ⟨h1, h2, h3, h4⟩ := terminalJob_made hn hc rfl hread
    refine ⟨_, _, _, _, hread, h1, h2, h3, h4, fun g => absurd g h, fun _ k' hb' hf' => ?_, fun _ g => absurd hbell (g k)⟩
    obtain rfl : k' = k := by
      rcases Nat.lt_trichotomy k' k with g | g | g
      · exact absurd hb' (hfirst k' g)
      · exact g
      · exact absurd hbell (hf' k g)
    refine ⟨rfl, Table.get_set_same _ _ _ _, fun j hj => Table.get_set_other _ _ hj _, fun i => by simp [eq_comm],
      fun i f hi hf => ?_⟩
    obtain ⟨-, -, -, hsym, -, -⟩ := current_keeps i s
    have hcur := hread.read i (by simp [hi])
    exact bellBlock_eq hi hf ((congrArg Entry.symbol hcur).trans hsym)
  case inr.inr.inl =>
    have hread := touchAll_read ((List.range 12).map t.rowIndex)
      ((s.setTLine line { s.tline line with compose := a }).setTerm n
        { t with fullPage := false, statusOwed := false, rows := [] })
    obtain ⟨h1, h2, h3, h4⟩ := terminalJob_made hn hc rfl hread
    refine ⟨_, _, _, _, hread, h1, h2, h3, h4, fun g => absurd g h, fun _ k hb' => absurd hb' (noBell hb k),
      fun _ _ => ⟨fun _ _ => ⟨rfl, fun i => (mem_rowIndices t _ i).trans (by simp [onRow]), ?_⟩, fun g => absurd hf g⟩⟩
    have shown : ((List.range 12).map t.rowIndex).map (rowOf (composePage n _).2) = _ :=
      (List.map_map ..).trans (List.map_congr_left fun r hr => row hread (fun _ => rfl) r fun i hi =>
        (mem_rowIndices t _ i).2 ⟨r, hr, hi⟩)
    exact congrArg (fun l => Block.page t.page l s.session.state) shown
  case inr.inr.inr.inl =>
    obtain ⟨h1, h2, h3, h4⟩ := terminalJob_made hn hc rfl (EntriesRead.nil
      ((s.setTLine line { s.tline line with compose := a }).setTerm n { t with statusOwed := false }))
    exact ⟨_, _, _, _, EntriesRead.nil _, h1, h2, h3, h4, fun g => absurd g h, fun _ k hb' => absurd hb' (noBell hb k),
      fun _ _ => ⟨fun g1 g2 => absurd ⟨g1, g2⟩ hf, fun _ => ⟨fun _ => ⟨rfl, rfl, rfl⟩,
        fun g => absurd (hs.symm.trans g) (by decide), fun g => absurd (hs.symm.trans g) (by decide)⟩⟩⟩
  case inr.inr.inr.inr.inl =>
    obtain ⟨h1, h2, h3, h4⟩ := terminalJob_made hn hc rfl (EntriesRead.nil
      ((s.setTLine line { s.tline line with compose := a }).setTerm n { t with idleOwed := false }))
    have notActive : t.state ≠ .active := by rw [hl.1]; decide
    exact ⟨_, _, _, _, EntriesRead.nil _, h1, h2, h3, h4, fun g => absurd g h, fun _ k hb' => absurd hb' (noBell hb k),
      fun _ _ => ⟨fun g => absurd g notActive, fun _ => ⟨fun g => absurd (g.symm.trans hs) (by decide),
        fun _ _ => ⟨rfl, rfl, rfl⟩, fun _ g => absurd g notActive⟩⟩⟩
  case inr.inr.inr.inr.inr.inl =>
    have hread := touchAll_read ((t.rows.take 4).map t.rowIndex)
      ((s.setTLine line { s.tline line with compose := a }).setTerm n { t with rows := t.rows.drop 4 })
    obtain ⟨h1, h2, h3, h4⟩ := terminalJob_made hn hc rfl hread
    have notLapsed : t.state ≠ .lapsed := by rw [hl.1]; decide
    refine ⟨_, _, _, _, hread, h1, h2, h3, h4, fun g => absurd g h, fun _ k hb' => absurd hb' (noBell hb k),
      fun _ _ => ⟨fun g1 g2 => absurd ⟨g1, g2⟩ hf, fun _ => ⟨fun g => absurd (g.symm.trans hs) (by decide),
        fun _ g => absurd g notLapsed, fun _ _ => ⟨rfl, mem_rowIndices t _, ?_⟩⟩⟩⟩
    have shown : (t.rows.take 4).map (fun r => (r, rowOf (composeRows n _).2 (t.rowIndex r))) = _ :=
      List.map_congr_left fun r hr => congrArg (Prod.mk r) (row hread (fun _ => rfl) r fun i hi =>
        (mem_rowIndices t _ i).2 ⟨r, hr, hi⟩)
    exact congrArg Block.rows shown
  case inr.inr.inr.inr.inr.inr => exact absurd ((Terminal.eligible_iff t).2 hready) (by simp [Terminal.eligible, hc])

end Sys2Proof.Machine
end

section
/-! Proofs: what carrying out a dealer's referable request does (R165, R168, R170, R171). -/

namespace Sys2Proof.Machine

/-- R165: a terminal's request has been given a result: nothing outside the terminals and the entries changes, no other
terminal does, and the request stands in its record. -/
structure Answered (n : Nat) (x : DealerResult) (s u : State) : Prop where
  frame : u = { s with terms := u.terms, entries := u.entries }
  others : ∀ m, m ≠ n → u.term m = s.term m
  record : (u.term n).record = { (s.term n).record with state := .answered, result := some x }

theorem Answered.unique {n : Nat} {x y : DealerResult} {s u : State} (h1 : Answered n x s u) (h2 : Answered n y s u) :
    x = y :=
  Option.some.inj (congrArg RequestRecord.result (h1.record.symm.trans h2.record))

/-- R165: a result given changes the record alone. -/
theorem giveResult_spec (n : Nat) (x : DealerResult) (s : State) :
    let u := giveResult n x s
    Answered n x s u ∧ u.entries = s.entries ∧ u.term n = { s.term n with record := (u.term n).record } := by
  intro u
  have hn : u.term n = { s.term n with record := { (s.term n).record with state := .answered, result := some x } } :=
    State.term_setTerm_same ..
  exact ⟨⟨rfl, fun m hm => State.term_setTerm_other s hm _, by rw [hn]⟩, rfl, by rw [hn]⟩

/-- R165: a result is given on a state that differs from another in one terminal, its record kept, and in the entries. -/
theorem Answered.of_setTerm {n : Nat} {x : DealerResult} {s w : State} {t : Terminal}
    (ht : t.record = (s.term n).record) (hw : w = { s.setTerm n t with entries := w.entries }) :
    Answered n x s (giveResult n x w) := by
  have tw : ∀ m, w.term m = (s.setTerm n t).term m := term_of_terms (by rw [hw])
  obtain ⟨⟨hf, ho, hr⟩, -, -⟩ := giveResult_spec n x w
  refine ⟨by rw [hf, hw]; rfl, fun m hm => ?_, ?_⟩
  · rw [ho m hm, tw, State.term_setTerm_other _ hm]
  · rw [hr, tw, State.term_setTerm_same, ht]

/-! ### WATCH-ADD (R161, R168) -/

theorem insertAt_eq_append {α : Type} (a : α) : ∀ (k : Nat) (l : List α), insertAt a k l = l.take k ++ a :: l.drop k
  | 0, _ => rfl
  | _ + 1, [] => rfl
  | k + 1, b :: l => congrArg (b :: ·) (insertAt_eq_append a k l)

theorem addPosition_eq (p : Option Nat) (len : Nat) : addPosition p len = min (p.getD len) len := by
  cases p <;> simp [addPosition]

theorem mem_insertAll (l rows : List Nat) (r : Nat) :
    r ∈ l.foldl (fun rows r => insertNo r rows) rows ↔ r ∈ rows ∨ r ∈ l := by
  induction l generalizing rows with
  | nil => simp
  | cons a l ih => rw [List.foldl_cons, ih, mem_insertNo, List.mem_cons]; tauto

/-- R161: the rows that a change of the list at a place marks. -/
theorem mem_markFrom (k len : Nat) (t : Terminal) (r : Nat) : r ∈ (t.markFrom k len).rows ↔
    r ∈ t.rows ∨ r < 12 ∧ k ≤ 12 * t.page + r ∧ (k < 12 * t.page ∨ 12 * t.page + r < len) := by
  simp [Terminal.markFrom, mem_insertAll, changedRows]

/-- R44, R161, R168: what an accepted WATCH-ADD does with the list, the rows and the watchers. -/
structure WatchAdded (n i k : Nat) (s u : State) : Prop where
  term : u.term n = { s.term n with
    record := (u.term n).record, watchList := (s.term n).watchList.take k ++ i :: (s.term n).watchList.drop k
    rows := (u.term n).rows }
  marked : ∀ row, row < 12 → k ≤ 12 * (s.term n).page + row →
    12 * (s.term n).page + row ≤ (s.term n).watchList.length → row ∈ (u.term n).rows
  grown : ∀ row ∈ (s.term n).rows, row ∈ (u.term n).rows
  only : ∀ row ∈ (u.term n).rows, row ∈ (s.term n).rows ∨ row < 12 ∧ k ≤ 12 * (s.term n).page + row
  entry : u.entry i = { s.entry i with watchers := (s.entry i).watchers + 1 }
  entries : ∀ j, j ≠ i → u.entry j = s.entry j

theorem carryWatchAdd_spec (n i : Nat) (p : Option Nat) (s : State) :
    let k := min (p.getD (s.term n).watchList.length) (s.term n).watchList.length
    let u := carryWatchAdd n i p s
    Answered n { code := .accepted, position := some k, index := some i, conditions := none } s u ∧
      WatchAdded n i k s u := by
  intro k u
  have hk : addPosition p (s.term n).watchList.length = k := addPosition_eq ..
  obtain ⟨t1, ht1⟩ : ∃ t1, t1 = Terminal.markFrom k ((s.term n).watchList.length + 1)
    { s.term n with watchList := insertAt i k (s.term n).watchList } := ⟨_, rfl⟩
  obtain ⟨x, hx⟩ : ∃ x : DealerResult, x = ⟨.accepted, some k, some i, none⟩ := ⟨_, rfl⟩
  have hu : u = giveResult n x (addWatcher i (s.setTerm n t1)) := by rw [hx, ht1, ← hk]; rfl
  have hterm : u.term n = { t1 with record := { t1.record with state := .answered, result := some x } } := by
    rw [hu, giveResult_eq, State.term_setTerm_same]
    have : (addWatcher i (s.setTerm n t1)).term n = t1 := State.term_setTerm_same ..
    rw [this]
  have hrows : ∀ r, r ∈ (u.term n).rows ↔ r ∈ (s.term n).rows ∨ r < 12 ∧ k ≤ 12 * (s.term n).page + r ∧
      (k < 12 * (s.term n).page ∨ 12 * (s.term n).page + r < (s.term n).watchList.length + 1) := fun r => by
    rw [hterm, ht1]; exact mem_markFrom ..
  have hentry : ∀ j, u.entry j = (addWatcher i (s.setTerm n t1)).entry j := entry_of_entries (by rw [hu]; rfl)
  refine ⟨?_, ⟨?_, fun r h1 h2 h3 => (hrows r).2 (.inr ⟨h1, h2, .inr (by omega)⟩), fun r h => (hrows r).2 (.inl h),
    fun r h => ((hrows r).1 h).imp id fun g => ⟨g.1, g.2.1⟩, ?_, fun j hj => ?_⟩⟩
  · rw [hu, ← hx]
    exact Answered.of_setTerm (by rw [ht1]; rfl) rfl
  · rw [hterm, ht1, ← insertAt_eq_append]; rfl
  · rw [hentry]; exact State.entry_setEntry_same ..
  · rw [hentry]; exact State.entry_setEntry_other _ hj _

/-! ### ALERT-SET (R171) -/

theorem carryAlertSet_spec (n slot i : Nat) (c : Conditions) (s : State) :
    let u := carryAlertSet n slot i c s
    Answered n { code := .accepted, position := none, index := some i, conditions := some c } s u ∧
      u.entries = s.entries ∧
      u.term n = { s.term n with record := (u.term n).record, alerts := (u.term n).alerts } ∧
      (u.term n).alert slot =
        { state := .armed, instrument := some i, conditions := c, fired := none, marked := false } ∧
      ∀ j, j ≠ slot → (u.term n).alert j = (s.term n).alert j := by
  intro u
  obtain ⟨t1, ht1⟩ : ∃ t1, t1 = (s.term n).setAlert slot (armedAlert i c) := ⟨_, rfl⟩
  obtain ⟨x, hx⟩ : ∃ x : DealerResult, x = ⟨.accepted, none, some i, some c⟩ := ⟨_, rfl⟩
  have hu : u = giveResult n x (s.setTerm n t1) := by rw [hx, ht1]; rfl
  have hterm : u.term n = { t1 with record := { t1.record with state := .answered, result := some x } } := by
    rw [hu, giveResult_eq, State.term_setTerm_same, State.term_setTerm_same]
  have halert : ∀ j, (u.term n).alert j =
      Table.get Alert.cold (Table.set Alert.cold (s.term n).alerts slot (armedAlert i c)) j := fun j => by
    rw [hterm, ht1]; rfl
  refine ⟨?_, by rw [hu]; rfl, by rw [hterm, ht1]; rfl, ?_, fun j hj => ?_⟩
  · rw [hu, ← hx]
    exact Answered.of_setTerm (by rw [ht1]; rfl) rfl
  · rw [halert]; exact Table.get_set_same ..
  · rw [halert]; exact Table.get_set_other _ _ hj _

/-! ### The checks of the requests (R168, R171) -/

/-- R168: the checks of a WATCH-ADD. -/
theorem checkedWatchAdd_of_mem {n i : Nat} {s : State} (h : i ∈ (s.term n).watchList) (next : State → State) :
    checkedWatchAdd n i next s = giveResult n (DealerResult.ofCode .duplicate) s := by
  unfold checkedWatchAdd watchAddFails; rw [if_pos h]; rfl

theorem checkedWatchAdd_of_full {n i : Nat} {s : State} (h : i ∉ (s.term n).watchList)
    (hl : 24 ≤ (s.term n).watchList.length) (next : State → State) :
    checkedWatchAdd n i next s = giveResult n (DealerResult.ofCode .full) s := by
  unfold checkedWatchAdd watchAddFails; rw [if_neg h, if_pos hl]; rfl

theorem checkedWatchAdd_of_room {n i : Nat} {s : State} (h : i ∉ (s.term n).watchList)
    (hl : (s.term n).watchList.length < 24) (next : State → State) : checkedWatchAdd n i next s = next s := by
  unfold checkedWatchAdd watchAddFails; rw [if_neg h, if_neg (by omega)]

/-- R171: the checks of an ALERT-SET. -/
theorem checkedAlertSet_of_fails {n i : Nat} {s : State} {q : DealerRequest}
    (h : checkConditions (s.entry i).denom q = none) (next : Conditions → State → State) :
    checkedAlertSet n i q next s = giveResult n (DealerResult.ofCode .unknown) s := by
  unfold checkedAlertSet; rw [h]; rfl

theorem checkedAlertSet_of_passes {n i : Nat} {s : State} {q : DealerRequest} {c : Conditions}
    (h : checkConditions (s.entry i).denom q = some c) (next : Conditions → State → State) :
    checkedAlertSet n i q next s = next c s := by
  unfold checkedAlertSet; rw [h]

/-- R168: a WATCH-ADD that its checks refuse, or let through to an operation that gives a result, is given a result. -/
theorem checkedWatchAdd_answered {n i : Nat} {s : State} {next : State → State} (h : ∃ x, Answered n x s (next s)) :
    ∃ x, Answered n x s (checkedWatchAdd n i next s) := by
  by_cases hm : i ∈ (s.term n).watchList
  · rw [checkedWatchAdd_of_mem hm]; exact ⟨_, (giveResult_spec ..).1⟩
  · rcases Nat.lt_or_ge (s.term n).watchList.length 24 with hl | hl
    · rw [checkedWatchAdd_of_room hm hl]; exact h
    · rw [checkedWatchAdd_of_full hm hl]; exact ⟨_, (giveResult_spec ..).1⟩

/-- R171: the same of an ALERT-SET. -/
theorem checkedAlertSet_answered {n i : Nat} {s : State} {q : DealerRequest} {next : Conditions → State → State}
    (h : ∀ c, ∃ x, Answered n x s (next c s)) : ∃ x, Answered n x s (checkedAlertSet n i q next s) := by
  cases e : checkConditions (s.entry i).denom q with
  | none => rw [checkedAlertSet_of_fails e]; exact ⟨_, (giveResult_spec ..).1⟩
  | some c => rw [checkedAlertSet_of_passes e]; exact h c

end Sys2Proof.Machine
end

section
/-! Proofs: the REFER-ANSWER of a GRANT (R184). -/

namespace Sys2Proof.Machine

/-- TABLE 11-2: a one-byte number. -/
theorem numBytes_one (n : Nat) : numBytes 1 n = [byteOf n] := by
  rw [numBytes_eq]; simp [beField, byteOf]

/-- R184, step 2: what a held request of each kind is carried out by. -/
theorem grantHeld_watch {h : HeldSlot} {s : State} {q : DealerRequest} (hk : h.kind = .watch)
    (hq : (s.term (termNo h.line h.addr)).record.request = some q) : grantHeld h s =
      checkedWatchAdd (termNo h.line h.addr) h.index (carryWatchAdd (termNo h.line h.addr) h.index q.position) s := by
  unfold grantHeld; dsimp only; rw [hk, hq]; rfl

theorem grantHeld_quote {h : HeldSlot} {s : State} (hk : h.kind = .quote) : grantHeld h s =
    giveResult (termNo h.line h.addr) { code := .accepted, position := none, index := some h.index, conditions := none }
      s := by
  unfold grantHeld; rw [hk]; rfl

theorem grantHeld_alert {h : HeldSlot} {s : State} {q : DealerRequest} (hk : h.kind = .alert)
    (hq : (s.term (termNo h.line h.addr)).record.request = some q) : grantHeld h s =
      checkedAlertSet (termNo h.line h.addr) h.index q
        (fun c => carryAlertSet (termNo h.line h.addr) (q.slot.getD 0) h.index c) s := by
  unfold grantHeld; dsimp only; rw [hk, hq]; rfl

/-- R184, step 2: whatever its kind, a held request is given a result. -/
theorem grantHeld_answered (h : HeldSlot) (s : State) : ∃ x, Answered (termNo h.line h.addr) x s (grantHeld h s) := by
  unfold grantHeld
  dsimp only
  split
  · exact checkedWatchAdd_answered ⟨_, (carryWatchAdd_spec ..).1⟩
  · exact ⟨_, (giveResult_spec ..).1⟩
  · exact checkedAlertSet_answered fun c => ⟨_, (carryAlertSet_spec ..).1⟩

theorem givenCode_eq {n : Nat} {x : DealerResult} {s u : State} (h : Answered n x s u) : givenCode n u = x.code := by
  unfold givenCode; rw [h.record]

/-- R184: a GRANT in a HELD slot. -/
theorem referAnswerRule_grant {w : Nat} {h : HeldSlot} {s : State} (hw : w ≤ 3) (hs : (s.window w).slot = some h) :
    referAnswerRule (w, 0) s = referReply w 0 h (grantHeld h (emptySlot w .granted s)) := by
  unfold referAnswerRule
  rw [if_neg (by simp; omega)]
  simp only [hs]
  rfl

theorem referReply_eq (w d : Nat) (h : HeldSlot) (s : State) : referReply w d h s = Served.reply
    [byteOf w, byteOf d, byteOf h.line, byteOf h.addr, byteOf (givenCode (termNo h.line h.addr) s).code] s := by
  simp only [referReply, enumByte, numBytes_one, List.cons_append, List.nil_append]

/-- R197: a request that its rule refuses. -/
theorem act_of_refused {α : Type} {s : State} {k : HostKind} {r : LinkFrame} {rest : List LinkFrame} {reason : Reason}
    {x : α} {read : List Byte → Option α} {rule : α → State → Served} (h : s.ready k r rest) (hr : read r.body = some x)
    (hd : rule x (beginService r rest s) = Served.refuse reason (beginService r rest s)) :
    act (serve k read rule) s = .next (finish s (s.refusedHead r rest reason)) := by
  rw [act_of_released h.1, serve_of_ready h, shaped_of_read hr, hd, endService_refuse]

/-- Settles O56: the result is given on the state with the slot emptied, by the checks made again. -/
theorem grantCarriesOut : Obligations.GrantCarriesOut := by
  refine ⟨fun r rest s w d h hb => ⟨fun hrange => ?_, fun hw hd hs => ?_⟩, ?_⟩
  · exact act_of_refused h hb (by unfold referAnswerRule; rw [if_pos hrange])
  · exact act_of_refused h hb (by
      unfold referAnswerRule; rw [if_neg (by simp only; omega)]; simp only [beginService_window, hs])
  intro r rest s w h q hready hread hw hslot n t hq
  obtain ⟨s0, hs0⟩ : ∃ s0, s0 = emptySlot w .granted (beginService r rest s) := ⟨_, rfl⟩
  obtain ⟨v, hv⟩ : ∃ v, v = grantHeld h s0 := ⟨_, rfl⟩
  obtain ⟨x, hx⟩ := grantHeld_answered h s0
  rw [← hv] at hx
  have t0 : ∀ m, s0.term m = s.term m := fun m => by rw [hs0]; rfl
  have e0 : ∀ j, s0.entry j = s.entry j := fun j => by rw [hs0]; rfl
  have hlink : v.link = (beginService r rest s).link := by rw [hx.frame, hs0]; rfl
  have hrule : referAnswerRule (w, 0) (beginService r rest s) = Served.reply
      [byteOf w, byteOf 0, byteOf h.line, byteOf h.addr, byteOf (ReplyCode.code x.code)] v := by
    rw [referAnswerRule_grant (s := beginService r rest s) hw hslot, referReply_eq, ← hs0, ← hv, givenCode_eq hx]
  have hexec := act_of_done hready hread hrule (by rw [hlink])
  have hrec : (v.term n).record = { state := .answered, request := some q, result := some x } := by
    rw [hx.record, t0]; exact congrArg (fun o => RequestRecord.mk .answered o (some x)) hq
  refine ⟨_, x, hexec, ?_, ?_, fun m hm => ?_, hrec, fun m hm => (hx.others m hm).trans (t0 m), ?_⟩
  · rw [hlink, hx.frame, hs0]; rfl
  · refine (congrArg (fun z => Table.get Window.cold z w) (?_ : v.windows = s0.windows)).trans ?_
    · rw [hx.frame]
    · rw [hs0]; exact State.window_setWindow_same ..
  · refine (congrArg (fun z => Table.get Window.cold z m) (?_ : v.windows = s0.windows)).trans ?_
    · rw [hx.frame]
    · rw [hs0]; exact State.window_setWindow_other _ hm _
  have hq0 : (s0.term n).record.request = some q := by rw [t0]; exact hq
  have given : ∀ {y : DealerResult}, v = giveResult n y s0 →
      x = y ∧ v.entries = s.entries ∧ v.term n = { t with record := (v.term n).record } := by
    intro y e
    obtain ⟨h1, h2, h3⟩ := giveResult_spec n y s0
    rw [← e] at h1 h2 h3
    rw [t0] at h3
    exact ⟨hx.unique h1, by rw [h2, hs0]; rfl, h3⟩
  have code : ∀ {c : ReplyCode}, v = giveResult n (DealerResult.ofCode c) s0 →
      x.code = c ∧ v.entries = s.entries ∧ v.term n = { t with record := (v.term n).record } := fun e =>
    ⟨by rw [(given e).1]; rfl, (given e).2⟩
  have list : (s0.term n).watchList = t.watchList := by rw [t0]
  have denom : (s0.entry h.index).denom = (s.entry h.index).denom := by rw [e0]
  refine ⟨fun hk => given (hv.trans (grantHeld_quote hk)), fun hk h1 => ?_, fun hk h1 h2 => ?_, fun hk h1 h2 => ?_,
    fun hd => checkConditions_stored hd q, fun hk hc => ?_, fun c k hk hc hslot => ?_⟩
  · rw [← list] at h1
    exact code ((hv.trans (grantHeld_watch hk hq0)).trans (checkedWatchAdd_of_mem h1 _))
  · rw [← list] at h1 h2
    exact code ((hv.trans (grantHeld_watch hk hq0)).trans (checkedWatchAdd_of_full h1 h2 _))
  · rw [← list] at h1 h2
    obtain ⟨ha, hw⟩ := carryWatchAdd_spec n h.index q.position s0
    rw [← (hv.trans (grantHeld_watch hk hq0)).trans (checkedWatchAdd_of_room h1 h2 _)] at ha hw
    obtain ⟨term, marked, grown, only, entry, entries⟩ := hw
    rw [t0] at term marked grown only ha
    rw [e0] at entry
    exact ⟨hx.unique ha, term, marked, grown, only, entry, fun j hj => (entries j hj).trans (e0 j)⟩
  · rw [← denom] at hc
    exact code ((hv.trans (grantHeld_alert hk hq0)).trans (checkedAlertSet_of_fails hc _))
  · rw [← denom] at hc
    obtain ⟨ha, he, term, alert, alerts⟩ := carryAlertSet_spec n (q.slot.getD 0) h.index c s0
    rw [← (hv.trans (grantHeld_alert hk hq0)).trans (checkedAlertSet_of_passes hc _)] at ha he term alert alerts
    rw [t0] at term alerts
    rw [hslot] at alert alerts
    exact ⟨hx.unique ha, by rw [he, hs0]; rfl, term, alert, alerts⟩

end Sys2Proof.Machine
end

section
/-! Proofs: the dealer requests that an answer hands over (R148, R163 to R171). -/

namespace Sys2Proof.Machine

/-! ### What the answer itself leaves (R145, R147) -/

/-- R145: what the end of a slot leaves alone: the entries, the directory, the windows, and of the slot's terminal what a
dealer request is checked against. -/
structure OutcomeKeeps (n : Nat) (s u : State) : Prop where
  entries : u.entries = s.entries
  directory : u.directory = s.directory
  windows : u.windows = s.windows
  readySent : (u.term n).readySent = (s.term n).readySent
  exempt : (u.term n).exempt = (s.term n).exempt
  watchList : (u.term n).watchList = (s.term n).watchList
  page : (u.term n).page = (s.term n).page

theorem OutcomeKeeps.refl (n : Nat) (s : State) : OutcomeKeeps n s s := ⟨rfl, rfl, rfl, rfl, rfl, rfl, rfl⟩

theorem OutcomeKeeps.trans {n : Nat} {s t u : State} (h1 : OutcomeKeeps n s t) (h2 : OutcomeKeeps n t u) :
    OutcomeKeeps n s u :=
  ⟨h2.entries.trans h1.entries, h2.directory.trans h1.directory, h2.windows.trans h1.windows,
    h2.readySent.trans h1.readySent, h2.exempt.trans h1.exempt, h2.watchList.trans h1.watchList, h2.page.trans h1.page⟩

/-- R145: an outcome keeps all this when it does outside the terminals, and leaves the terminal its desk. -/
theorem OutcomeKeeps.of_term {n : Nat} {s u : State} {t : Terminal} (he : u.entries = s.entries)
    (hd : u.directory = s.directory) (hw : u.windows = s.windows) (ht : u.term n = t)
    (h : t.readySent = (s.term n).readySent ∧ t.exempt = (s.term n).exempt ∧ t.watchList = (s.term n).watchList ∧
      t.page = (s.term n).page) : OutcomeKeeps n s u := by
  obtain ⟨h1, h2, h3, h4⟩ := h
  exact ⟨he, hd, hw, by rw [ht, h1], by rw [ht, h2], by rw [ht, h3], by rw [ht, h4]⟩

theorem goSilent_keeps (line addr : Nat) (s : State) : OutcomeKeeps (termNo line addr) s (goSilent line addr s) := by
  refine .of_term ?_ ?_ ?_ (goSilent_spec line addr s).1 ⟨rfl, rfl, rfl, rfl⟩
  all_goals rw [goSilent, State.raise_frame]; rfl

theorem slotFailed_keeps (line addr : Nat) (s : State) : OutcomeKeeps (termNo line addr) s (slotFailed line addr s) := by
  have retried : OutcomeKeeps (termNo line addr) s ((s.setTerm (termNo line addr)
      { s.term (termNo line addr) with retry := (s.term (termNo line addr)).retry + 1 }).count .tmRetries) :=
    .of_term rfl rfl rfl (State.term_setTerm_same ..) ⟨rfl, rfl, rfl, rfl⟩
  unfold slotFailed
  dsimp only
  split_ifs
  · exact retried.trans (goSilent_keeps ..)
  · exact retried

theorem slotAcked_keeps (line addr : Nat) (tx : Transmission) (s : State) :
    OutcomeKeeps (termNo line addr) s (slotAcked line addr tx s) := by
  cases tx with
  | output r b => exact .of_term rfl rfl rfl (slotAcked_spec line addr r b s).1 ⟨rfl, rfl, rfl, rfl⟩
  | poll r => exact .of_term rfl rfl rfl (State.term_setTerm_same ..) ⟨rfl, rfl, rfl, rfl⟩

theorem OutcomeKeeps.raised (n : Nat) (s : State) (item : NoticeItem) : OutcomeKeeps n s (s.raise item) :=
  .of_term (by rw [State.raise_frame]) (by rw [State.raise_frame]) (by rw [State.raise_frame]) (State.raise_term ..)
    ⟨rfl, rfl, rfl, rfl⟩

theorem terminalJoins_keeps (line addr : Nat) (s : State) :
    OutcomeKeeps (termNo line addr) s (terminalJoins line addr s) := by
  refine OutcomeKeeps.trans ?_ (OutcomeKeeps.raised ..)
  exact .of_term rfl rfl rfl (State.term_setTerm_same ..) ⟨rfl, rfl, rfl, rfl⟩

theorem answerOutcome_keeps (line : Nat) (x : TermSlot) (ack : Bool) (s : State) :
    OutcomeKeeps (termNo line x.address) s (answerOutcome line x ack s) := by
  have served : OutcomeKeeps (termNo line x.address) s
      (if ack then slotAcked line x.address x.tx s else slotFailed line x.address s) := by
    split
    · exact slotAcked_keeps ..
    · exact slotFailed_keeps ..
  unfold answerOutcome
  split
  · exact served
  · exact served
  · exact terminalJoins_keeps ..
  · exact terminalJoins_keeps ..
  · exact .refl ..

/-! ### Reading an entry and taking a request commute (R30, R150, R160) -/

/-- R80: an offer of a cell reads nothing of the terminals. -/
theorem offerCell_terms (c : Nat) (s : State) (ts : Table Terminal) :
    offerCell false c { s with terms := ts } = { offerCell false c s with terms := ts } := by
  obtain ⟨s', hs⟩ : ∃ s' : State, s' = { s with terms := ts } := ⟨_, rfl⟩
  have hq : s'.refreshQueue (c / 64) = s.refreshQueue (c / 64) := by rw [hs]; rfl
  have hc : s'.cell c = s.cell c := by rw [hs]; rfl
  rw [← hs]
  unfold offerCell
  dsimp only
  rw [hq, hc]
  split_ifs
  · rw [hs]
  · rw [hs]; rfl
  · rw [hs]

theorem forEach_offerCell_terms (cells : List Nat) (s : State) (ts : Table Terminal) :
    forEach cells (offerCell false) { s with terms := ts } = { forEach cells (offerCell false) s with terms := ts } := by
  induction cells generalizing s with
  | nil => rfl
  | cons c l ih => rw [forEach_cons, forEach_cons, offerCell_terms, ih]

/-- R39, R160: the watch part of a change, terminal by terminal. -/
theorem term_fanRows (i n : Nat) (s : State) : (fanRows i s).term n =
    if (s.entry i).watchers ≠ 0 ∧ n < 64 then (s.term n).markInstrument i else s.term n := by
  unfold fanRows
  by_cases h : (s.entry i).watchers = 0
  · rw [if_pos h, if_neg fun g => g.1 h]
  · rw [if_neg h, term_forEach_setTerm _ _ (by unfold termNos; exact List.nodup_range)]
    simp [h, termNos]

/-- R30: what reading an entry does to the terminals. -/
theorem term_touch (i n : Nat) (s : State) : (touch i s).term n =
    if (s.entry i).stale s.dayNumber = true ∧ (s.entry i).watchers ≠ 0 ∧ n < 64 then (s.term n).markInstrument i
    else s.term n := by
  rcases touch_cases i s with ⟨hs, h⟩ | ⟨hs, h⟩ <;> rw [h]
  · rw [if_neg fun g => by rw [hs] at g; cases g.1]
  · obtain ⟨s1, h1⟩ : ∃ s1, s1 = s.setEntry i ((s.entry i).rolled s.dayNumber) := ⟨_, rfl⟩
    have he : s1.entry i = (s.entry i).rolled s.dayNumber := by rw [h1]; simp
    have f2 : fanCells i s1 = { s1 with queues := (fanCells i s1).queues } := forEach_offerCell_frame ..
    have t2 : (fanCells i s1).term n = s.term n := term_of_terms (by rw [f2, h1]; rfl) n
    have w2 : ((fanCells i s1).entry i).watchers = (s.entry i).watchers := by
      rw [entry_of_entries (s := s1) (by rw [f2]), he]; rfl
    rw [← h1, fanCellsAndRows, term_fanRows, t2, w2]
    simp only [hs, true_and]

/-- R30: reading an entry reads nothing of the terminals but for their own rows. -/
theorem touch_terms (i : Nat) (s : State) (ts : Table Terminal) :
    touch i { s with terms := ts } = { touch i s with terms := (touch i { s with terms := ts }).terms } := by
  obtain ⟨s', hs'⟩ : ∃ s' : State, s' = { s with terms := ts } := ⟨_, rfl⟩
  have he : s'.entry i = s.entry i := by rw [hs']; rfl
  have hd : s'.dayNumber = s.dayNumber := by rw [hs']
  rw [← hs']
  unfold touch
  rw [he, hd]
  split_ifs
  · obtain ⟨s1, h1⟩ : ∃ s1, s1 = s.setEntry i ((s.entry i).rolled s.dayNumber) := ⟨_, rfl⟩
    have h1' : s'.setEntry i ((s.entry i).rolled s.dayNumber) = { s1 with terms := ts } := by rw [hs', h1]; rfl
    have hf : fanCells i { s1 with terms := ts } = { fanCells i s1 with terms := ts } :=
      forEach_offerCell_terms ..
    rw [h1', ← h1, fanCellsAndRows, fanCellsAndRows, (fanRows_marked i _).2, hf, (fanRows_marked i (fanCells i s1)).2]
  · rw [hs']

/-- R150, R160: a mark of a row and the taking of a request commute. -/
theorem markInstrument_takeRequest (i : Nat) (q : DealerRequest) (t : Terminal) :
    (t.takeRequest q).markInstrument i = (t.markInstrument i).takeRequest q := by
  rw [takeRequest_eq, takeRequest_eq]
  have vacant : ∀ r : RequestRecord, (t.tookRequest r).state = .vacant ↔ t.state = .vacant := fun r => by
    simp only [Terminal.tookRequest]
    split <;> simp_all
  unfold Terminal.markInstrument
  by_cases hv : t.state = .vacant
  · rw [if_pos hv, if_pos ((vacant _).2 hv)]
  rw [if_neg hv, if_neg fun g => hv ((vacant _).1 g)]
  have list : ∀ r : RequestRecord, placeOf i (t.tookRequest r).watchList = placeOf i t.watchList := fun _ => rfl
  rw [list]
  cases placeOf i t.watchList with
  | none => rfl
  | some k =>
    have page : ∀ r : RequestRecord, (t.tookRequest r).page = t.page := fun _ => rfl
    simp only [page]
    split_ifs <;> rfl

/-- R148: one state has taken a request that another has not. -/
structure RequestTaken (n : Nat) (q : DealerRequest) (e d : State) : Prop where
  frame : d = { e with terms := d.terms }
  others : ∀ m, m ≠ n → d.term m = e.term m
  term : d.term n = (e.term n).takeRequest q

/-- R30, R148: an entry read after a request is taken is read as before it. -/
theorem touch_taken (i n : Nat) (q : DealerRequest) (s : State) :
    RequestTaken n q (touch i s) (touch i (s.setTerm n ((s.term n).takeRequest q))) := by
  have entry : (s.setTerm n ((s.term n).takeRequest q)).entry i = s.entry i := rfl
  have day : (s.setTerm n ((s.term n).takeRequest q)).dayNumber = s.dayNumber := rfl
  refine ⟨touch_terms .., fun m hm => ?_, ?_⟩
  · rw [term_touch, term_touch, State.term_setTerm_other _ hm, entry, day]
  · rw [term_touch, term_touch, State.term_setTerm_same, entry, day, markInstrument_takeRequest]
    split_ifs <;> rfl

/-! ### A request dealt with (R163 to R165) -/

/-- R165: what a result given to a request just taken leaves around it. -/
theorem Answered.of_taken {n : Nat} {q : DealerRequest} {x : DealerResult} {e d v : State} (hd : RequestTaken n q e d)
    (hv : Answered n x d v) :
    (v = { e with terms := v.terms, entries := v.entries } ∧ ∀ m, m ≠ n → v.term m = e.term m) ∧
      (v.term n).record = { state := .answered, request := some q, result := some x } := by
  refine ⟨⟨by rw [hv.frame, hd.frame], fun m hm => (hv.others m hm).trans (hd.others m hm)⟩, ?_⟩
  rw [hv.record, hd.term, takeRequest_eq]; rfl

/-- R148: a terminal that has taken its request, with another record. -/
theorem RequestTaken.with_record {n : Nat} {q : DealerRequest} {e d : State} (hd : RequestTaken n q e d)
    (r : RequestRecord) : ({ d.term n with record := r } : Terminal) = (e.term n).tookRequest r := by
  rw [hd.term, takeRequest_eq]; rfl

/-- R148, R163: the command of a dealer request that an answer hands over. -/
theorem dealerAnswer_eq {line : Nat} {m : TerminalMessage} {s : State} {x : TermSlot} {q : DealerRequest}
    {kind : DealerKind} (h : s.handsOver line x m q) (hk : q.kind = some kind) :
    let n := termNo line x.address
    let b := answerOutcome line x m.ack (dropSlot line s)
    dealerAnswer kind line m s =
      endRoundIfDone line (dealTaken line x.address q (b.setTerm n ((b.term n).takeRequest q))) := by
  intro n b
  obtain ⟨⟨-, hslot, hignored, -, haddr, hcheck⟩, hreq, hready⟩ := h
  have ready : (b.term n).readySent = true := (answerOutcome_keeps line x m.ack (dropSlot line s)).readySent.trans hready
  have carries : m.carries kind = true := by unfold TerminalMessage.carries; rw [hreq]; simp [hk]
  have isAnswer : answers x m = true := by simp [answers, haddr, hcheck]
  unfold dealerAnswer terminalAnswer
  rw [if_pos carries, hslot]
  dsimp only
  rw [if_pos isAnswer, if_neg (by rw [hignored]; decide), hreq]
  unfold carriedRequest dealerRequest
  dsimp only
  rw [if_pos ready]

/-- R163, R168: a WATCH-ADD whose items are in range. -/
theorem dealWatchAdd_eq {line addr i : Nat} {q : DealerRequest} {sym : Text} {s : State} (hs : q.symbol = some sym)
    (hl : lookup sym s.directory = some i) (hp : ∀ p, q.position = some p → p ≤ 23) :
    dealWatchAdd line addr q s = checkedWatchAdd (termNo line addr) i
      (refer line addr .watch i (carryWatchAdd (termNo line addr) i q.position)) (touch i s) := by
  have low : positionTooHigh q.position = false := by
    cases h : q.position with
    | none => rfl
    | some p => simpa [positionTooHigh] using hp p h
  unfold dealWatchAdd
  dsimp only
  rw [if_neg (by rw [low]; decide), hs, withSymbol, hl]

/-- R163, R170: a QUOTE-ASK. -/
theorem dealQuoteAsk_eq {line addr i : Nat} {q : DealerRequest} {sym : Text} {s : State} (hs : q.symbol = some sym)
    (hl : lookup sym s.directory = some i) :
    dealQuoteAsk line addr q s = refer line addr .quote i (carryQuote (termNo line addr) i) (touch i s) := by
  unfold dealQuoteAsk
  dsimp only
  rw [hs, withSymbol, hl]

/-- R163, R171: an ALERT-SET whose items are there and in range. -/
theorem dealAlertSet_eq {line addr i k : Nat} {q : DealerRequest} {sym : Text} {s : State} (hs : q.symbol = some sym)
    (hl : lookup sym s.directory = some i) (hk : q.slot = some k) (h3 : k ≤ 3) (ha : q.above ≠ none) (hb : q.below ≠ none)
    (hm : q.minSize ≠ none) :
    dealAlertSet line addr q s = checkedAlertSet (termNo line addr) i q
      (fun c => refer line addr .alert i (carryAlertSet (termNo line addr) k i c)) (touch i s) := by
  have all : allConditions q = true := by
    simp [allConditions, Option.isSome_iff_ne_none, ha, hb, hm]
  unfold dealAlertSet
  dsimp only
  rw [if_neg (by rw [all]; decide), hk, withSlot, if_pos h3, hs, withSymbol, hl]

/-- R165, R180: an exempt terminal's request, or one that no window restricts, is carried out. -/
theorem refer_of_free {line addr i : Nat} {kind : ReferralKind} {s : State}
    (h : (s.term (termNo line addr)).exempt = true ∨ ∀ w, w < 4 → (s.window w).restricts kind i = false)
    (carry : State → State) : refer line addr kind i carry s = carry s := by
  unfold refer
  by_cases he : (s.term (termNo line addr)).exempt = true
  · rw [if_pos he]
  · have none : decidingWindow kind i s = none :=
      List.find?_eq_none.2 fun w hw => by simp [h.resolve_left he w (List.mem_range.1 hw)]
    rw [if_neg he, none]

/-- Settles O54: the request is dealt with on the state in which it is taken and its entry read (`touch_taken`). -/
theorem dealerRequestsAreCarriedOut : Obligations.DealerRequestsAreCarriedOut := by
  intro line m s x q sym i hands hsym hlook n t b
  obtain ⟨e, he⟩ : ∃ e, e = touch i b := ⟨_, rfl⟩
  obtain ⟨d, hd⟩ : ∃ d, d = touch i (b.setTerm n ((b.term n).takeRequest q)) := ⟨_, rfl⟩
  have read : EntryRead i b e := he ▸ touch_read i b
  have taken : RequestTaken n q e d := by rw [he, hd]; exact touch_taken ..
  have kept : OutcomeKeeps n s b := (show OutcomeKeeps n s (dropSlot line s) from ⟨rfl, rfl, rfl, rfl, rfl, rfl, rfl⟩).trans
    (answerOutcome_keeps line x m.ack _)
  have desk : (d.term n).exempt = t.exempt ∧ (d.term n).watchList = t.watchList ∧ (d.term n).page = t.page ∧
      (d.term n).rows = (e.term n).rows ∧ ∀ j, (d.term n).alert j = (e.term n).alert j := by
    rw [taken.term, takeRequest_eq, Terminal.tookRequest, (read.grown n).1]
    exact ⟨kept.exempt, kept.watchList, kept.page, rfl, fun _ => rfl⟩
  obtain ⟨dExempt, dList, dPage, dRows, dAlert⟩ := desk
  have dWindow : ∀ w, d.window w = s.window w := fun w => by
    have : d.windows = s.windows := by rw [taken.frame, read.frame]; exact kept.windows
    simp only [State.window, this]
  have dEntries : d.entries = e.entries := by rw [taken.frame]
  have dDenom : (d.entry i).denom = (s.entry i).denom := by
    obtain ⟨-, -, -, -, -, hden⟩ := current_keeps i b
    rw [entry_of_entries dEntries, read.entry, hden, entry_of_entries kept.entries]
  have dir : lookup sym (b.setTerm n ((b.term n).takeRequest q)).directory = some i := by
    rw [← hlook, ← kept.directory]; rfl
  refine ⟨e, read, ?_⟩
  intro took only free ends
  have unref : ∀ {k}, free k → ∀ carry, refer line x.address k i carry d = carry d := fun h carry =>
    refer_of_free (by rw [dExempt]; simpa only [dWindow] using h) carry
  have ended : ∀ {kind : DealerKind} {c : Instr} {v r}, (exec c s = act (dealerAnswer kind line m) s) →
      q.kind = some kind → dealTaken line x.address q (b.setTerm n ((b.term n).takeRequest q)) = v →
      Answered n r d v → ends c v := by
    intro kind c v r hc hk hv ha
    obtain ⟨around, -⟩ := ha.of_taken taken
    refine ⟨?_, around⟩
    rw [hc, act_of_released hands.1.1, dealerAnswer_eq hands hk, hv]
  have answered : ∀ {r v}, Answered n r d v → ({ d.term n with record := (v.term n).record } : Terminal) = took r :=
    fun ha => by rw [taken.with_record, (ha.of_taken taken).2]
  have given : ∀ {r : DealerResult}, (giveResult n r d).entries = e.entries ∧ (giveResult n r d).term n = took r := by
    intro r
    obtain ⟨ha, hent, hterm⟩ := giveResult_spec n r d
    exact ⟨hent.trans dEntries, hterm.trans (answered ha)⟩
  refine ⟨fun hk hp => ?_, fun hk hfree => ?_, fun hden => checkConditions_stored hden q,
    fun k hk hslot h3 ha hb hm => ⟨fun hc => ?_, fun c hc hfree => ?_⟩⟩
  · have deal : dealTaken line x.address q (b.setTerm n ((b.term n).takeRequest q)) =
        checkedWatchAdd n i (refer line x.address .watch i (carryWatchAdd n i q.position)) d := by
      rw [hd, ← dealWatchAdd_eq hsym dir hp, dealTaken, hk]
    refine ⟨fun hbad => ?_, fun hnew hroom hfree => ?_⟩
    · refine ⟨_, ended rfl hk (deal.trans ?_) (giveResult_spec ..).1, given⟩
      by_cases hin : i ∈ t.watchList
      · rw [if_pos hin]; exact checkedWatchAdd_of_mem (dList ▸ hin) _
      · rw [if_neg hin]; exact checkedWatchAdd_of_full (dList ▸ hin) (dList ▸ hbad.resolve_left hin) _
    · intro k
      rw [checkedWatchAdd_of_room (dList ▸ hnew) (dList ▸ hroom), unref hfree] at deal
      obtain ⟨ha, ⟨term, marked, grown, only', entry, entries⟩⟩ := carryWatchAdd_spec n i q.position d
      obtain ⟨v, hv⟩ : ∃ v, v = carryWatchAdd n i q.position d := ⟨_, rfl⟩
      rw [← hv] at ha term marked grown only' entry entries deal
      rw [dList] at ha term marked only'
      rw [dPage] at marked only'
      rw [dRows] at grown only'
      refine ⟨v, ended rfl hk deal ha, term.trans (congrArg (fun y : Terminal => { y with
        watchList := t.watchList.take k ++ i :: t.watchList.drop k, rows := (v.term n).rows }) (answered ha)),
        marked, grown, only', ?_, fun j hj => ?_⟩
      · rw [entry, entry_of_entries dEntries]
      · rw [entries j hj, entry_of_entries dEntries]
  · have deal : dealTaken line x.address q (b.setTerm n ((b.term n).takeRequest q)) = carryQuote n i d := by
      rw [← unref hfree (carryQuote n i), hd, ← dealQuoteAsk_eq hsym dir, dealTaken, hk]
    exact ⟨_, ended rfl hk deal (giveResult_spec ..).1, given⟩
  · have deal : dealTaken line x.address q (b.setTerm n ((b.term n).takeRequest q)) =
        giveResult n (DealerResult.ofCode .unknown) d := by
      rw [← checkedAlertSet_of_fails (dDenom ▸ hc), hd, ← dealAlertSet_eq hsym dir hslot h3 ha hb hm, dealTaken, hk]
    exact ⟨_, ended rfl hk deal (giveResult_spec ..).1, given⟩
  · have deal : dealTaken line x.address q (b.setTerm n ((b.term n).takeRequest q)) = carryAlertSet n k i c d := by
      rw [← unref hfree (carryAlertSet n k i c), ← checkedAlertSet_of_passes (dDenom ▸ hc)
        (fun c => refer line x.address .alert i (carryAlertSet n k i c)), hd, ← dealAlertSet_eq hsym dir hslot h3 ha hb hm,
        dealTaken, hk]
    obtain ⟨r, hent, term, alert, alerts⟩ := carryAlertSet_spec n k i c d
    obtain ⟨v, hv⟩ : ∃ v, v = carryAlertSet n k i c d := ⟨_, rfl⟩
    rw [← hv] at r hent term alert alerts deal
    exact ⟨v, ended rfl hk deal r, hent.trans dEntries, term.trans (congrArg (fun y : Terminal => { y with
      alerts := (v.term n).alerts }) (answered r)), alert, fun j hj => (alerts j hj).trans (dAlert j)⟩

end Sys2Proof.Machine
end

section
/-! Proofs: the bounds and forms of a state (R25, R75, R79, R94, R117, R131, R158, R159, R196, R198, R200, 0.4.7), carried over
each named write of the state. -/

namespace Sys2Proof.Machine

/-! ### What it is to keep them -/

/-- The forms of one state carry over to another. -/
structure FormsKept (s t : State) : Prop where
  notices : s.noticesOnce → t.noticesOnce
  prints : s.queuesBounded → t.queuesBounded
  counters : s.countersBounded → t.countersBounded
  refresh : s.refreshOnce → t.refreshOnce
  enabled : s.enabledRising → t.enabledRising
  rows : s.rowsRising → t.rowsRising
  directory : s.directoryRising → t.directoryRising
  fifos : s.fifosBounded → t.fifosBounded
  watches : s.watchListsBounded → t.watchListsBounded
  cells : s.cellListsBounded → t.cellListsBounded

/-- The forms carry over, and what the Link Interface holds of requests and replies does not grow: what every command does but
those of the link itself, and what the rule of a request in service does. -/
structure Keeps (s t : State) : Prop extends FormsKept s t where
  requests : t.link.requests.length ≤ s.link.requests.length
  replies : t.link.replies = s.link.replies
  inService : t.link.inService = s.link.inService

theorem FormsKept.refl (s : State) : FormsKept s s := ⟨id, id, id, id, id, id, id, id, id, id⟩

theorem FormsKept.trans {s t u : State} (h1 : FormsKept s t) (h2 : FormsKept t u) : FormsKept s u where
  notices := h2.notices ∘ h1.notices
  prints := h2.prints ∘ h1.prints
  counters := h2.counters ∘ h1.counters
  refresh := h2.refresh ∘ h1.refresh
  enabled := h2.enabled ∘ h1.enabled
  rows := h2.rows ∘ h1.rows
  directory := h2.directory ∘ h1.directory
  fifos := h2.fifos ∘ h1.fifos
  watches := h2.watches ∘ h1.watches
  cells := h2.cells ∘ h1.cells

theorem Keeps.refl (s : State) : Keeps s s := ⟨.refl s, le_rfl, rfl, rfl⟩

theorem Keeps.trans {s t u : State} (h1 : Keeps s t) (h2 : Keeps t u) : Keeps s u :=
  ⟨h1.toFormsKept.trans h2.toFormsKept, h2.requests.trans h1.requests, h2.replies.trans h1.replies,
    h2.inService.trans h1.inService⟩

theorem keeps_forEach {α : Type} (l : List α) {f : α → State → State} (h : ∀ a s, Keeps s (f a s)) (s : State) :
    Keeps s (forEach l f s) :=
  forEach_rel Keeps.refl (fun _ _ _ => Keeps.trans) l h s

theorem keeps_ite {p : Prop} [Decidable p] {s t u : State} (h1 : p → Keeps s t) (h2 : ¬p → Keeps s u) :
    Keeps s (if p then t else u) := by
  split_ifs with h
  · exact h1 h
  · exact h2 h

/-- No bound or form reads a part that this change touches. -/
theorem FormsKept.of_frame {s t : State} (h : t = { s with
      pending := t.pending, free := t.free, resetAsserted := t.resetAsserted, link := t.link, loader := t.loader
      dayNumber := t.dayNumber, walkActive := t.walkActive, walkPos := t.walkPos, clock := t.clock, sched := t.sched
      session := t.session, flashPeriod := t.flashPeriod, slots := t.slots, displays := t.displays, tlines := t.tlines
      windows := t.windows }) (hn : t.link.notices = s.link.notices) : FormsKept s t where
  notices := by unfold State.noticesOnce; rw [hn]; exact id
  prints := by rw [h]; exact id
  counters := by rw [h]; exact id
  refresh := by rw [h]; exact id
  enabled := by rw [h]; exact id
  rows := by rw [h]; exact id
  directory := by rw [h]; exact id
  fifos := by rw [h]; exact fun g => ⟨g.fifo, g.job, g.queue, g.symbols⟩
  watches := by rw [h]; exact id
  cells := by rw [h]; exact id

theorem Keeps.of_frame {s t : State} (h : t = { s with
      pending := t.pending, free := t.free, resetAsserted := t.resetAsserted, loader := t.loader
      dayNumber := t.dayNumber, walkActive := t.walkActive, walkPos := t.walkPos, clock := t.clock, sched := t.sched
      session := t.session, flashPeriod := t.flashPeriod, slots := t.slots, displays := t.displays, tlines := t.tlines
      windows := t.windows }) : Keeps s t := by
  have hl : t.link = s.link := by rw [h]
  exact ⟨.of_frame (by rw [h]) (by rw [hl]), by rw [hl], by rw [hl], by rw [hl]⟩

section
variable (s : State)

theorem keeps_setFree (n : Nat) : Keeps s (s.setFree n) := .of_frame rfl
theorem keeps_setLoader (l : Loader) : Keeps s (s.setLoader l) := .of_frame rfl
theorem keeps_setDayNumber (n : Nat) : Keeps s (s.setDayNumber n) := .of_frame rfl
theorem keeps_setWalk (a : Bool) (n : Nat) : Keeps s (s.setWalk a n) := .of_frame rfl
theorem keeps_setClock (c : Clock) : Keeps s (s.setClock c) := .of_frame rfl
theorem keeps_setSched (n : Nat) (e : SchedEntry) : Keeps s (s.setSched n e) := .of_frame rfl
theorem keeps_setSession (x : Session) : Keeps s (s.setSession x) := .of_frame rfl
theorem keeps_setFlashPeriod (n : Nat) : Keeps s (s.setFlashPeriod n) := .of_frame rfl
theorem keeps_setSlot (c : Nat) (r : SlotState) : Keeps s (s.setSlot c r) := .of_frame rfl
theorem keeps_setDisplay (n a : Nat) (d : Display) : Keeps s (s.setDisplay n a d) := .of_frame rfl
theorem keeps_setTLine (n : Nat) (l : TermLine) : Keeps s (s.setTLine n l) := .of_frame rfl
theorem keeps_setWindow (n : Nat) (w : Window) : Keeps s (s.setWindow n w) := .of_frame rfl

end

/-! ### Writes of the tables whose records have a form -/

/-- What holds of every record holds after one of them is replaced by another of which it holds. -/
theorem Table.forall_get_set {α : Type} [DecidableEq α] {d : α} {t : Table α} {P : Nat → α → Prop} {i : Nat} {v : α}
    (hv : P i v) (h : ∀ j, P j (Table.get d t j)) (j : Nat) : P j (Table.get d (Table.set d t i v) j) := by
  by_cases e : j = i
  · subst e; rwa [Table.get_set_same]
  · rw [Table.get_set_other _ _ e]; exact h j

/-- R3, R75: an entry replaced by one with a short symbol and a cell list of the form; both may rest on the forms of an earlier
state `s₀`. -/
theorem Keeps.setEntry {s₀ s : State} {i : Nat} {e : Entry} (h : Keeps s₀ s)
    (hsym : s₀.fifosBounded → s.fifosBounded → e.symbol.length ≤ 7)
    (hcells : s₀.cellListsBounded → s.cellListsBounded →
      e.cells.length ≤ 4 ∧ e.cells.Nodup ∧ ∀ c ∈ e.cells, (s.cell c).binding = some i) : Keeps s₀ (s.setEntry i e) := by
  refine { h with fifos := fun g₀ => ?_, cells := fun g₀ => ?_ }
  · have g := h.fifos g₀
    exact ⟨by simpa using g.fifo, by simpa using g.job, by simpa using g.queue,
      Table.forall_get_set (P := fun _ (e : Entry) => e.symbol.length ≤ 7) (hsym g₀ g) g.symbols⟩
  · have g := h.cells g₀
    exact Table.forall_get_set (P := fun j (e : Entry) => e.cells.length ≤ 4 ∧ e.cells.Nodup ∧
      ∀ c ∈ e.cells, (s.cell c).binding = some j) (hcells g₀ g) g

/-- An entry with the symbol and the cell list of the one it replaces. -/
theorem keeps_setEntry {s : State} {i : Nat} {e : Entry} (hsym : e.symbol = (s.entry i).symbol)
    (hcells : e.cells = (s.entry i).cells) : Keeps s (s.setEntry i e) :=
  (Keeps.refl s).setEntry (fun _ g => by rw [hsym]; exact g.symbols i) (fun _ g => by rw [hcells]; exact g i)

/-- R75: a cell replaced by one whose binding is that of every list it stands in. -/
theorem Keeps.setCell {s₀ s : State} {c : Nat} {r : Cell} (h : Keeps s₀ s)
    (hb : s₀.cellListsBounded → s.cellListsBounded → ∀ i, c ∈ (s.entry i).cells → r.binding = some i) :
    Keeps s₀ (s.setCell c r) := by
  refine { h with fifos := fun g₀ => ?_, cells := fun g₀ i => ?_ }
  · have g := h.fifos g₀
    exact ⟨by simpa using g.fifo, by simpa using g.job, by simpa using g.queue, g.symbols⟩
  · have g := h.cells g₀
    refine ⟨(g i).1, (g i).2.1, fun d hd => ?_⟩
    by_cases e : d = c
    · subst e
      rw [State.cell_setCell_same]; exact hb g₀ g i hd
    · rw [State.cell_setCell_other _ e]; exact (g i).2.2 d hd

/-- A cell's binding stands. -/
theorem keeps_setCell {s : State} {c : Nat} {r : Cell} (h : r.binding = (s.cell c).binding) : Keeps s (s.setCell c r) :=
  (Keeps.refl s).setCell fun _ g i hc => h.trans ((g i).2.2 c hc)

/-- R79: a refresh queue of line `n` has its form. -/
def queueForm (n : Nat) (q : List Nat) : Prop := q.Nodup ∧ ∀ c ∈ q, c / 64 = n

theorem keeps_setQueue {s : State} {n : Nat} {q : List Nat} (h : queueForm n (s.refreshQueue n) → queueForm n q) :
    Keeps s (s.setQueue n q) := by
  refine ⟨⟨id, id, id, fun g => ?_, id, id, id, fun g => ⟨by simpa using g.fifo, by simpa using g.job,
    by simpa using g.queue, g.symbols⟩, id, id⟩, le_rfl, rfl, rfl⟩
  exact Table.forall_get_set (P := queueForm) (h (g n)) g

theorem keeps_setLine {s : State} {n : Nat} {l : BoardLine}
    (h : (s.line n).enabled.Pairwise (· < ·) → l.enabled.Pairwise (· < ·)) : Keeps s (s.setLine n l) := by
  refine ⟨⟨id, id, id, id, fun g => ?_, id, id, fun g => ⟨by simpa using g.fifo, by simpa using g.job,
    by simpa using g.queue, g.symbols⟩, id, id⟩, le_rfl, rfl, rfl⟩
  exact Table.forall_get_set (P := fun _ (l : BoardLine) => l.enabled.Pairwise (· < ·)) (h (g n)) g

/-- R158, R159: the pending rows and the watch list of a terminal have their forms after a change when they had them
before. -/
structure Terminal.FormsKept (a b : Terminal) : Prop where
  rows : a.rows.Pairwise (· < ·) → b.rows.Pairwise (· < ·)
  watch : a.watchList.length ≤ 24 ∧ a.watchList.Nodup → b.watchList.length ≤ 24 ∧ b.watchList.Nodup

theorem Terminal.FormsKept.of_same {a b : Terminal} (h1 : b.rows = a.rows) (h2 : b.watchList = a.watchList) :
    Terminal.FormsKept a b := ⟨by rw [h1]; exact id, by rw [h2]; exact id⟩

theorem Terminal.FormsKept.refl (a : Terminal) : Terminal.FormsKept a a := ⟨id, id⟩

theorem Terminal.FormsKept.trans {a b c : Terminal} (h1 : Terminal.FormsKept a b) (h2 : Terminal.FormsKept b c) :
    Terminal.FormsKept a c := ⟨h2.rows ∘ h1.rows, h2.watch ∘ h1.watch⟩

theorem keeps_setTerm {s : State} {n : Nat} {t : Terminal} (h : Terminal.FormsKept (s.term n) t) :
    Keeps s (s.setTerm n t) := by
  refine ⟨⟨id, id, id, id, id, fun g => ?_, id, fun g => ⟨by simpa using g.fifo, by simpa using g.job,
    by simpa using g.queue, g.symbols⟩, fun g => ?_, id⟩, le_rfl, rfl, rfl⟩
  · exact Table.forall_get_set (P := fun _ (t : Terminal) => t.rows.Pairwise (· < ·)) (h.rows (g n)) g
  · exact Table.forall_get_set (P := fun _ (t : Terminal) => t.watchList.length ≤ 24 ∧ t.watchList.Nodup) (h.watch (g n)) g

/-! ### Writes of the ribbons and of the Format Unit (R117, R131) -/

theorem State.queuesBounded_iff (s : State) : s.queuesBounded ↔ ∀ id, (s.ribbon id).queue.length ≤ 512 :=
  ⟨fun h id => by cases id; exacts [h.1, h.2], fun h => ⟨h .a, h .b⟩⟩

/-- What holds of both ribbons holds after one of them is replaced by another of which it holds. -/
theorem forall_ribbon_setRibbon {s : State} {P : RibbonId → Ribbon → Prop} {id : RibbonId} {r : Ribbon} (hr : P id r)
    (h : ∀ k, P k (s.ribbon k)) (k : RibbonId) : P k ((s.setRibbon id r).ribbon k) := by
  by_cases e : k = id
  · subst e; rwa [State.ribbon_setRibbon_same]
  · rw [State.ribbon_setRibbon_other _ e]; exact h k

/-- R117, R131: a ribbon replaced by one whose FIFO, with the texts of a job in flight for it, has the bound, and whose queue has
the bound and holds short prints; this may rest on the forms of an earlier state `s₀`. -/
theorem Keeps.setRibbon {s₀ s : State} {id : RibbonId} {r : Ribbon} (h : Keeps s₀ s)
    (hf : s₀.fifosBounded → s.fifosBounded → r.fifo.length ≤ 64 ∧ ∀ late lt tx an pr,
      s.fu.job = some (.ribbon id late lt tx an pr false) → r.fifo.length + lt.length + tx.length ≤ 64)
    (hq : s.queuesBounded → r.queue.length ≤ 512)
    (hb : s₀.fifosBounded → s.fifosBounded → ∀ p ∈ r.queue, p.body.fits) : Keeps s₀ (s.setRibbon id r) := by
  have fits : s₀.fifosBounded → (s.setRibbon id r).fifosBounded := fun g₀ => by
    have g := h.fifos g₀
    obtain ⟨hlen, hjob⟩ := hf g₀ g
    exact ⟨forall_ribbon_setRibbon (P := fun _ x => x.fifo.length ≤ 64) hlen g.fifo,
      fun k late lt tx an pr hj => forall_ribbon_setRibbon
        (P := fun k x => ∀ late lt tx an pr, s.fu.job = some (.ribbon k late lt tx an pr false) →
          x.fifo.length + lt.length + tx.length ≤ 64) hjob g.job k late lt tx an pr (by rwa [State.setRibbon_fu] at hj),
      forall_ribbon_setRibbon (P := fun _ x => ∀ p ∈ x.queue, p.body.fits) (hb g₀ g) g.queue,
      fun i => by rw [State.setRibbon_entry]; exact g.symbols i⟩
  have bounded : s₀.queuesBounded → (s.setRibbon id r).queuesBounded := fun g₀ => by
    have g := h.prints g₀
    rw [State.queuesBounded_iff]
    exact forall_ribbon_setRibbon (P := fun _ x => x.queue.length ≤ 512) (hq g) (s.queuesBounded_iff.1 g)
  have hs : s.setRibbon id r = { s with
      ribbonA := (s.setRibbon id r).ribbonA, ribbonB := (s.setRibbon id r).ribbonB } := by cases id <;> rfl
  exact { prints := bounded, fifos := fits
          notices := by rw [hs]; exact h.notices
          counters := by rw [hs]; exact h.counters
          refresh := by rw [hs]; exact h.refresh
          enabled := by rw [hs]; exact h.enabled
          rows := by rw [hs]; exact h.rows
          directory := by rw [hs]; exact h.directory
          watches := by rw [hs]; exact h.watches
          cells := by rw [hs]; exact h.cells
          requests := by rw [hs]; exact h.requests
          replies := by rw [hs]; exact h.replies
          inService := by rw [hs]; exact h.inService }

/-- R117, R131: a ribbon replaced by one that holds no more. -/
theorem keeps_shrinkRibbon {s : State} {id : RibbonId} {r : Ribbon} (hf : r.fifo.length ≤ (s.ribbon id).fifo.length)
    (hq : r.queue.Sublist (s.ribbon id).queue) : Keeps s (s.setRibbon id r) :=
  (Keeps.refl s).setRibbon
    (fun _ g => ⟨hf.trans (g.fifo id), fun late lt tx an pr hj => by have := g.job id late lt tx an pr hj; omega⟩)
    (fun g => hq.length_le.trans (s.queuesBounded_iff.1 g id))
    (fun _ g p hp => g.queue id p (hq.subset hp))

/-- R131: a RIBBON job in flight, if one that will deliver its texts, is the one that was in flight before. -/
theorem keeps_setFU {s : State} {f : FormatUnit} (h : ∀ id late lt tx an pr,
    f.job = some (.ribbon id late lt tx an pr false) → s.fu.job = some (.ribbon id late lt tx an pr false)) :
    Keeps s (s.setFU f) :=
  ⟨⟨id, id, id, id, id, id, id, fun g => ⟨by simpa using g.fifo,
    fun k late lt tx an pr hj => by rw [State.setFU_ribbon]; exact g.job k late lt tx an pr (h k late lt tx an pr hj),
    by simpa using g.queue, g.symbols⟩, id, id⟩, le_rfl, rfl, rfl⟩

theorem keeps_setFU_sameJob {s : State} {f : FormatUnit} (h : f.job = s.fu.job) : Keeps s (s.setFU f) :=
  keeps_setFU fun _ _ _ _ _ _ hj => h ▸ hj

/-! ### Writes of the counters, the notices and the directory -/

theorem keeps_advance (s : State) (c : Counter) (n : Nat) : Keeps s (s.advance c n) := by
  refine ⟨⟨id, id, fun g d => ?_, id, id, id, id, fun g => ⟨by simpa using g.fifo, by simpa using g.job,
    by simpa using g.queue, g.symbols⟩, id, id⟩, le_rfl, rfl, rfl⟩
  by_cases e : d = c
  · subst e; rw [State.counter_advance_same]; exact Nat.min_le_left ..
  · rw [State.counter_advance_other _ e]; exact g d

theorem keeps_count (s : State) (c : Counter) : Keeps s (s.count c) := keeps_advance s c 1

theorem keeps_clearCounters (s : State) : Keeps s s.clearCounters :=
  ⟨⟨id, id, fun _ _ => Nat.zero_le _, id, id, id, id, fun g => ⟨by simpa using g.fifo, by simpa using g.job,
    by simpa using g.queue, g.symbols⟩, id, id⟩, le_rfl, rfl, rfl⟩

/-- A change of the Link Interface alone whose notice list keeps its form. -/
theorem FormsKept.setLink {s : State} {l : Link} (h : s.noticesOnce → l.notices.Nodup) : FormsKept s (s.setLink l) :=
  ⟨h, id, id, id, id, id, id, fun g => ⟨by simpa using g.fifo, by simpa using g.job, by simpa using g.queue, g.symbols⟩,
    id, id⟩

theorem keeps_raise (s : State) (n : NoticeItem) : Keeps s (s.raise n) := by
  rcases s.raise_cases n with ⟨-, h⟩ | ⟨hn, h⟩ <;> rw [h]
  · exact .refl s
  · refine ⟨.setLink fun g => ?_, le_rfl, rfl, rfl⟩
    exact List.nodup_append.2 ⟨g, by simp, fun a ha b hb => by
      obtain rfl := List.mem_singleton.1 hb; rintro rfl; exact hn ha⟩

theorem keeps_setDirectory {s : State} {d : List (Text × Nat)}
    (h : s.directoryRising → d.Pairwise (fun p q => symbolBelow p.1 q.1)) : Keeps s (s.setDirectory d) :=
  ⟨⟨id, id, id, id, id, id, h, fun g => ⟨by simpa using g.fifo, by simpa using g.job, by simpa using g.queue, g.symbols⟩,
    id, id⟩, le_rfl, rfl, rfl⟩

end Sys2Proof.Machine
end

section
/-! Proofs: the shared operations keep the bounds and forms of a state (R25, R75, R79, R94, R117, R131, R158, R159): offers to the
refresh queues and the print queues, marks of rows, rolls, and the start and stop of a ribbon. -/

namespace Sys2Proof.Machine

/-! ### Chains of changes from a state `s₀` -/

/-- `Keeps.trans` with the last change first, as an expression names it. -/
theorem Keeps.after {s₀ s t : State} (h : Keeps s t) (h₀ : Keeps s₀ s) : Keeps s₀ t := h₀.trans h

/-- What each application keeps from `s₀` on is kept by `forEach`. -/
theorem Keeps.forEach {α : Type} {s₀ s : State} {f : α → State → State} (h : Keeps s₀ s) (l : List α)
    (hf : ∀ a s, Keeps s₀ s → Keeps s₀ (f a s)) : Keeps s₀ (forEach l f s) :=
  forEach_keeps (P := Keeps s₀) l hf h

/-! ### Modes, offers and stops of a ribbon (R116 to R124, R132) -/

theorem keeps_evalMode (id : RibbonId) (s : State) : Keeps s (evalMode id s) := by
  rcases evalMode_cases id s with ⟨-, -, h⟩ | ⟨m, -, h⟩ | ⟨m, -, -, h⟩ <;> rw [h]
  · exact .refl s
  · exact .after (keeps_raise ..) (.after (keeps_count ..) (keeps_shrinkRibbon le_rfl (.refl _)))
  · exact .after (keeps_raise ..) (keeps_shrinkRibbon le_rfl (.refl _))

/-- R121: the full-queue policy only removes. -/
theorem roomFor_sublist {body : PrintBody} {q q' : List PrintRecord} (h : roomFor body q = some q') : q'.Sublist q := by
  have other : ∀ p : PrintRecord → Bool, (if q.any p then some (q.eraseP p) else none) = some q' → q'.Sublist q := by
    intro p hp
    split_ifs at hp
    cases hp
    exact List.eraseP_sublist
  cases body with
  | trade t =>
    simp only [roomFor] at h
    split_ifs at h <;> cases h <;> exact List.eraseP_sublist
  | halt sym i => exact other _ h
  | resume sym i => exact other _ h
  | banner b => exact other _ h

/-- R121: a record joined to a queue that had room, or has been given room. -/
theorem Keeps.joinQueue {s₀ s : State} (h : Keeps s₀ s) {id : RibbonId} {q : List PrintRecord} {body : PrintBody}
    {arrival : Nat} (hq : q.Sublist (s.ribbon id).queue) (hl : s.queuesBounded → q.length < 512)
    (hb : s₀.fifosBounded → body.fits) : Keeps s₀ (joinQueue id q (makeRecord body arrival) s) := by
  refine .after (keeps_evalMode id _) (.setRibbon h (fun _ g => ⟨g.fifo id, g.job id⟩)
    (fun g => ?_) fun g₀ g p hp => ?_)
  · simpa using hl g
  · rcases List.mem_append.1 hp with hp | hp
    · exact g.queue id p (hq.subset hp)
    · rw [List.mem_singleton.1 hp]; exact hb g₀

/-- R118 to R121: an offer of a short print. -/
theorem Keeps.offerPrint {s₀ s : State} (h : Keeps s₀ s) (id : RibbonId) {body : PrintBody} (arrival : Nat)
    (hb : s₀.fifosBounded → body.fits) : Keeps s₀ (offerPrint id body arrival s) := by
  rcases offerPrint_cases id body arrival s with ⟨-, e⟩ | ⟨-, hl, e⟩ | ⟨q, -, -, hq, e⟩ | ⟨-, -, -, e⟩ <;> rw [e]
  · exact h
  · exact h.joinQueue (.refl _) (fun _ => hl) hb
  · have hr : (s.count .rbDropped).ribbon id = s.ribbon id := by simp
    refine (h.trans (keeps_count s .rbDropped)).joinQueue (by rw [hr]; exact roomFor_sublist hq) (fun g => ?_) hb
    have hlen := roomFor_length hq
    have := (s.count .rbDropped).queuesBounded_iff.1 g id
    rw [hr] at this
    omega
  · exact h.trans (keeps_count ..)

theorem Keeps.offerToClass {s₀ s : State} (h : Keeps s₀ s) (cls : Nat) {body : PrintBody} (arrival : Nat)
    (hb : s₀.fifosBounded → body.fits) : Keeps s₀ (offerToClass cls body arrival s) := by
  refine h.forEach ribbonIds fun id s h => ?_
  split_ifs
  · exact h.offerPrint id arrival hb
  · exact h

theorem keeps_stopTest (id : RibbonId) (s : State) : Keeps s (stopTest id s) :=
  keeps_ite (fun _ => keeps_shrinkRibbon le_rfl (.refl _)) fun _ => .refl s

theorem keeps_periodStart (id : RibbonId) (s : State) : Keeps s (periodStart id s) := by
  unfold periodStart
  dsimp only
  split
  · next c rest hf => exact keeps_shrinkRibbon (by simp [hf]) (.refl _)
  · next hf =>
    have h1 : Keeps s (s.setRibbon id { s.ribbon id with period := some (s.ribbon id).rate, output := some ' ' }) :=
      keeps_shrinkRibbon le_rfl (.refl _)
    exact keeps_ite (fun _ => h1) fun _ => h1.trans (keeps_count ..)

theorem keeps_startRibbon (id : RibbonId) (s : State) : Keeps s (startRibbon id s) :=
  .after (keeps_periodStart id _) (keeps_shrinkRibbon le_rfl (.refl _))

/-! ### Refresh queues (R79 to R81) -/

theorem queueForm.append {n c : Nat} {q : List Nat} (hn : c / 64 = n) (hc : c ∉ q) (h : queueForm n q) :
    queueForm n (q ++ [c]) := by
  obtain ⟨hd, hm⟩ := h
  refine ⟨List.nodup_append.2 ⟨hd, by simp, fun a ha b hb => ?_⟩, fun a ha => ?_⟩
  · obtain rfl := List.mem_singleton.1 hb
    rintro rfl; exact hc ha
  · rcases List.mem_append.1 ha with ha | ha
    · exact hm a ha
    · rw [List.mem_singleton.1 ha]; exact hn

theorem queueForm.sublist {n : Nat} {q r : List Nat} (hs : r.Sublist q) (h : queueForm n q) : queueForm n r :=
  ⟨h.1.sublist hs, fun c hc => h.2 c (hs.subset hc)⟩

theorem keeps_offerCell (forced : Bool) (c : Nat) (s : State) : Keeps s (offerCell forced c s) := by
  rcases offerCell_cases forced c s with ⟨-, e⟩ | ⟨hc, -, e⟩ | ⟨-, -, -, e⟩ <;> rw [e]
  · exact .refl s
  · exact keeps_setQueue (queueForm.append rfl hc)
  · exact .refl s

theorem keeps_markTrade (c : Nat) (s : State) : Keeps s (markTrade c s) := keeps_setCell rfl

theorem keeps_fanCells (i : Nat) (s : State) : Keeps s (fanCells i s) :=
  keeps_forEach _ (fun c s => keeps_offerCell false c s) s

theorem keeps_fanTradeCells (i : Nat) (s : State) : Keeps s (fanTradeCells i s) :=
  keeps_forEach _ (fun c s => (keeps_markTrade c s).trans (keeps_offerCell false c _)) s

/-! ### Watch rows and alerts (R159 to R161, R175) -/

theorem insertNo_pairwise (n : Nat) {l : List Nat} (h : l.Pairwise (· < ·)) : (insertNo n l).Pairwise (· < ·) := by
  induction l with
  | nil => simp [insertNo]
  | cons m l ih =>
    obtain ⟨hm, hl⟩ := List.pairwise_cons.1 h
    unfold insertNo
    split_ifs with h1 h2
    · exact List.pairwise_cons.2 ⟨fun a ha => (List.mem_cons.1 ha).elim (· ▸ h1) fun ha => h1.trans (hm a ha), h⟩
    · exact h
    · refine List.pairwise_cons.2 ⟨fun a ha => ?_, ih hl⟩
      rcases (mem_insertNo ..).1 ha with rfl | ha
      · omega
      · exact hm a ha

theorem markInstrument_forms (i : Nat) (t : Terminal) : Terminal.FormsKept t (t.markInstrument i) := by
  rcases t.markInstrument_cases i with ⟨h, -⟩ | ⟨k, -, -, -, h⟩ <;> rw [h]
  · exact .refl t
  · exact ⟨insertNo_pairwise _, id⟩

theorem markFrom_forms (k length : Nat) (t : Terminal) : Terminal.FormsKept t (t.markFrom k length) := by
  refine ⟨fun h => ?_, id⟩
  have all : ∀ (l rows : List Nat), rows.Pairwise (· < ·) →
      (l.foldl (fun rows r => insertNo r rows) rows).Pairwise (· < ·) := by
    intro l
    induction l with
    | nil => exact fun _ h => h
    | cons r l ih => exact fun rows h => ih _ (insertNo_pairwise r h)
  exact all _ _ h

theorem onTrade_forms (i price size second : Nat) (t : Terminal) :
    Terminal.FormsKept t (t.onTrade i price size second) := by
  have all : ∀ (l : List Nat) (t : Terminal), Terminal.FormsKept t
      (l.foldl (fun t n => t.setAlert n ((t.alert n).onTrade i price size second)) t) := by
    intro l
    induction l with
    | nil => exact .refl
    | cons n l ih => exact fun t =>
      (Terminal.FormsKept.of_same (a := t) (b := t.setAlert n ((t.alert n).onTrade i price size second)) rfl rfl).trans (ih _)
  exact all _ t

theorem keeps_fanRows (i : Nat) (s : State) : Keeps s (fanRows i s) :=
  keeps_ite (fun _ => .refl s) fun _ =>
    keeps_forEach termNos (fun n s => keeps_setTerm (markInstrument_forms i (s.term n))) s

theorem keeps_fanAlerts (i price size : Nat) (s : State) : Keeps s (fanAlerts i price size s) :=
  keeps_forEach termNos (fun n s => keeps_setTerm (onTrade_forms i price size s.clock.second (s.term n))) s

/-! ### The roll (R27 to R30) -/

theorem keeps_fanCellsAndRows (i : Nat) (s : State) : Keeps s (fanCellsAndRows i s) :=
  (keeps_fanCells i s).trans (keeps_fanRows i _)

theorem keeps_touch (i : Nat) (s : State) : Keeps s (touch i s) := by
  rcases touch_cases i s with ⟨-, h⟩ | ⟨-, h⟩ <;> rw [h]
  · exact .refl s
  · exact .after (keeps_fanCellsAndRows i _) (keeps_setEntry rfl rfl)

theorem keeps_touchAll (l : List (Option Nat)) (s : State) : Keeps s (touchAll l s) := by
  refine keeps_forEach l (fun o s => ?_) s
  cases o with
  | none => exact .refl s
  | some i => exact keeps_touch i s

theorem keeps_touchBinding (r : Cell) (s : State) : Keeps s (touchBinding r s) := by
  unfold touchBinding
  cases r.binding with
  | none => exact .refl s
  | some i => exact keeps_touch i s

/-! ### The lengths of the texts of a print (R14 to R18, R131) -/

theorem lotsText_length {size lot : Nat} (h : size ≤ 9999999) : (volumePart size lot).length ≤ 10 := by
  unfold volumePart
  split_ifs with h1 h2
  · simp
  · have := digits_length_le (n := size / lot) (k := 2) (by omega) (by omega) (by omega)
    simp; omega
  · have := digits_length_le (n := size) (k := 7) (by omega) (by omega) (by omega)
    simp; omega

theorem modeVolume_length (m : Mode) (t : Nat) {p : TradePrint} (h : p.size ≤ 9999999) : (modeVolume m t p).length ≤ 10 := by
  have := lotsText_length (lot := p.lot) h
  unfold modeVolume
  cases m <;> dsimp only <;> (try split_ifs) <;> first | exact this | simp

theorem cutPrice_length (p : Nat) : (priceText true p).length ≤ 10 := by
  have whole := digits_length_le (n := p / 64 % 10) (k := 1) (by omega) (by omega) (by omega)
  unfold priceText
  cases hf : fractionText p with
  | none => simp only [if_true]; omega
  | some f =>
    have := fractionText_length hf
    simp only [if_true, List.length_append, List.length_cons]
    omega

theorem modePrice_length (m : Mode) (anchored : Bool) {p : Nat} (h : p ≤ 639999) : (modePrice m anchored p).length ≤ 10 := by
  rw [modePrice_eq]
  generalize (_ && _ && _ : Bool) = cut
  cases cut
  · exact priceText_length h
  · exact cutPrice_length p

/-- R14 to R18: a short print's text has at most 31 characters. -/
theorem printText_length {b : PrintBody} (h : b.fits) (m : Mode) (t : Nat) (preceding : Option Nat) (anchored : Bool) :
    (printText m t preceding anchored b).length ≤ 31 := by
  cases b with
  | trade p =>
    obtain ⟨hsym, hprice, hsize⟩ := h
    have hv := modeVolume_length m t hsize
    have hp := modePrice_length m anchored hprice
    have hf : (firstMark p.first).length ≤ 1 := by cases p.first <;> simp [firstMark]
    simp only [printText, tradeText, List.length_append]
    cases dropsSymbol m preceding p.index <;> simp <;> omega
  | halt sym i => have : sym.length ≤ 7 := h; simp [printText]; omega
  | resume sym i => have : sym.length ≤ 7 := h; simp [printText]; omega
  | banner b =>
    change (bannerText b ++ [' ', ' ']).length ≤ 31
    cases b <;> decide

/-- R15, R22: a LATE text, of whole minutes of a day, has at most 11 characters. -/
theorem lateText_length {n : Nat} (h : n < 10000) : (lateText n).length ≤ 11 := by
  have := digits_length_le (n := n) (k := 4) (by omega) (by omega) (by omega)
  simp [lateText]; omega

end Sys2Proof.Machine
end

section
/-! Proofs: a format job's start and the arbiter's decision keep the bounds and forms of a state (R61 to R69, R126 to R131). -/

namespace Sys2Proof.Machine

/-! ### BOARD and TERMINAL jobs (R67, R69, R152) -/

theorem keeps_setJob {s : State} {j : Job} (h : ∀ id late lt tx an pr, j ≠ .ribbon id late lt tx an pr false) :
    Keeps s (s.setJob j) :=
  keeps_setFU fun _ _ _ _ _ _ hj => absurd (Option.some.inj hj) (h _ _ _ _ _ _)

theorem keeps_startBoardJob (line : Nat) (s : State) : Keeps s (startBoardJob line s) := by
  unfold startBoardJob
  split
  · exact .refl s
  · next c rest hq =>
    have hrest : rest.Sublist (s.refreshQueue line) := by rw [hq]; exact List.sublist_cons_self ..
    refine .after (keeps_setJob fun _ _ _ _ _ _ => Job.noConfusion) (.after (keeps_advance ..) (.after (keeps_advance ..)
      (.after (keeps_setCell rfl) (.after (keeps_touchBinding ..) ?_))))
    exact .after (keeps_setCell rfl) (keeps_setQueue (queueForm.sublist hrest))

theorem keeps_composeReply (n : Nat) (s : State) : Keeps s (composeReply n s).2 :=
  .after (keeps_touchAll ..) (keeps_setTerm (.of_same rfl rfl))

theorem keeps_composeBell (n slot : Nat) (s : State) : Keeps s (composeBell n slot s).2 :=
  .after (keeps_touchAll ..) (keeps_setTerm (.of_same rfl rfl))

theorem keeps_composePage (n : Nat) (s : State) : Keeps s (composePage n s).2 :=
  .after (keeps_touchAll ..) (keeps_setTerm ⟨fun _ => .nil, id⟩)

theorem keeps_composeRows (n : Nat) (s : State) : Keeps s (composeRows n s).2 :=
  .after (keeps_touchAll ..) (keeps_setTerm ⟨fun h => h.sublist (List.drop_sublist ..), id⟩)

theorem keeps_compose (n : Nat) (c : BlockChoice) (s : State) : Keeps s (compose n c s).2 := by
  cases c with
  | reply => exact keeps_composeReply n s
  | bell slot => exact keeps_composeBell n slot s
  | page => exact keeps_composePage n s
  | status => exact keeps_setTerm (.of_same rfl rfl)
  | idle => exact keeps_setTerm (.of_same rfl rfl)
  | rows => exact keeps_composeRows n s

theorem keeps_startTerminalJob (line : Nat) (s : State) : Keeps s (startTerminalJob line s) := by
  unfold startTerminalJob
  split
  · exact .refl s
  · split
    · exact .refl s
    · exact .after (keeps_setJob fun _ _ _ _ _ _ => Job.noConfusion) (.after (keeps_compose ..) (keeps_setTLine ..))

/-! ### RIBBON jobs (R62, R68, R126 to R131) -/

/-- R131: a RIBBON job whose texts fit behind what the FIFO holds. -/
theorem Keeps.setRibbonJob {s₀ s : State} {id : RibbonId} {late : Option Nat} {lt tx : Text} {an pr : Option Nat}
    {skip : Bool} (h : Keeps s₀ s) (hfit : s₀.fifosBounded → (s.ribbon id).fifo.length + lt.length + tx.length ≤ 64) :
    Keeps s₀ (s.setJob (.ribbon id late lt tx an pr skip)) := by
  refine { h with fifos := fun g₀ => ⟨by simpa using (h.fifos g₀).fifo, ?_, by simpa using (h.fifos g₀).queue,
    (h.fifos g₀).symbols⟩ }
  intro k late' lt' tx' an' pr' hj
  obtain ⟨rfl, rfl, rfl, rfl, rfl, rfl, rfl⟩ := Job.ribbon.inj (Option.some.inj hj)
  rw [setJob_ribbon]; exact hfit g₀

theorem headSkip_sublist (q : List PrintRecord) : (headSkip q).2.Sublist q := by
  induction q with
  | nil => exact .refl _
  | cons rec rest ih =>
    unfold headSkip
    split
    · split_ifs
      · exact ih.cons _
      · exact .refl _
    · exact .refl _

theorem takeRecord_sublist (r : Ribbon) : (takeRecord r).2.Sublist r.queue := by
  unfold takeRecord
  split_ifs
  · exact headSkip_sublist _
  · exact .refl _

/-- R15, R22: the LATE text of a job has at most 11 characters. -/
theorem lateToWrite_length (r : Ribbon) (now arrival : Nat) :
    (match lateToWrite r (measuredLag now arrival) with | some n => lateText n | none => []).length ≤ 11 := by
  have hlag : measuredLag now arrival < 86400 := Nat.mod_lt _ (by decide)
  unfold lateToWrite
  split_ifs
  · simp
  · exact lateText_length (by omega)
  · simp

/-- R62, R131: a print start at 22 FIFO characters or fewer. -/
theorem keeps_startRibbonJob {id : RibbonId} {s : State} (hroom : (s.ribbon id).fifo.length ≤ 22) :
    Keeps s (startRibbonJob id s) := by
  unfold startRibbonJob
  dsimp only
  split
  · exact .refl s
  · next rec rest htake =>
    have hsub : (rec :: rest).Sublist (s.ribbon id).queue := htake ▸ takeRecord_sublist (s.ribbon id)
    have hrest : rest.Sublist (s.ribbon id).queue := (List.sublist_cons_self ..).trans hsub
    set s1 := (s.setRibbon id { s.ribbon id with queue := rest }).advance .rbSkipped (takeRecord (s.ribbon id)).1
    have k1 : Keeps s s1 := .after (keeps_advance ..) (keeps_shrinkRibbon le_rfl hrest)
    have k2 : Keeps s (evalMode id s1) := k1.trans (keeps_evalMode id s1)
    have hfifo : ((evalMode id s1).ribbon id).fifo = (s.ribbon id).fifo := by
      rw [ribbon_evalMode]; simp [s1]
    set lag := measuredLag (evalMode id s1).clock.second rec.arrival
    set s3 := if lag < 60 then (evalMode id s1).setRibbon id { (evalMode id s1).ribbon id with lateFigure := none }
      else evalMode id s1
    have k3 : Keeps s s3 := k2.trans (keeps_ite (fun _ => keeps_shrinkRibbon le_rfl (.refl _)) fun _ => .refl _)
    have hfifo3 : (s3.ribbon id).fifo = (s.ribbon id).fifo := by
      simp only [s3]; split_ifs
      · rw [State.ribbon_setRibbon_same]; exact hfifo
      · exact hfifo
    refine k3.setRibbonJob fun g => ?_
    have ht := printText_length (g.queue id rec (hsub.subset List.mem_cons_self))
      ((evalMode id s1).ribbon id).mode ((evalMode id s1).ribbon id).trim
      (if (lateToWrite ((evalMode id s1).ribbon id) lag).isSome then none else ((evalMode id s1).ribbon id).preceding)
      (anchoredFor ((evalMode id s1).ribbon id) rec.body)
    have hl := lateToWrite_length ((evalMode id s1).ribbon id) (evalMode id s1).clock.second rec.arrival
    have room : (s3.ribbon id).fifo.length ≤ 22 := by rw [hfifo3]; exact hroom
    calc _ ≤ 22 + 11 + 31 := Nat.add_le_add (Nat.add_le_add room hl) ht
      _ ≤ 64 := by omega

/-! ### The arbiter's decision (R61 to R65, R72) -/

/-- R62: a ribbon that position `p` would start has room in its FIFO. -/
def fifoRoomAt (p : Nat) (s : State) : Prop :=
  (p = 8 → s.ribbonA.fifo.length ≤ 22) ∧ (p = 9 → s.ribbonB.fifo.length ≤ 22)

theorem fifo_of_ribbonRequests {id : RibbonId} {s : State} (h : ribbonRequests id s = true) :
    (s.ribbon id).fifo.length ≤ 22 := by
  simp only [ribbonRequests, Bool.and_eq_true, decide_eq_true_eq] at h
  exact h.2

theorem fifoRoomAt_of_requests {p : Nat} {s : State} (h : requests p s = true) : fifoRoomAt p s :=
  ⟨by rintro rfl; exact fifo_of_ribbonRequests (id := .a) h, by rintro rfl; exact fifo_of_ribbonRequests (id := .b) h⟩

theorem fifoRoomAt_of_urgent {p : Nat} {s : State} (h : urgent p s = true) : fifoRoomAt p s := by
  have room : ∀ id, ribbonUrgent id s = true → (s.ribbon id).fifo.length ≤ 22 := fun id hu =>
    fifo_of_ribbonRequests ((Bool.and_eq_true _ _).mp hu).1
  exact ⟨by rintro rfl; exact room .a h, by rintro rfl; exact room .b h⟩

theorem keeps_startJob {p : Nat} {s : State} (h : fifoRoomAt p s) : Keeps s (startJob p s) := by
  unfold startJob
  split_ifs with h1 h2 h3
  · exact keeps_startBoardJob p s
  · exact keeps_startRibbonJob (id := .a) (h.1 h2)
  · exact keeps_startRibbonJob (id := .b) (h.2 h3)
  · exact keeps_startTerminalJob (p - 10) s

theorem keeps_grantUrgent {p : Nat} {s : State} (h : fifoRoomAt p s) : Keeps s (grantUrgent p s) :=
  keeps_ite (fun _ => .after (keeps_startJob h) (keeps_setFU_sameJob rfl))
    fun _ => .after (keeps_startJob h) (.after (keeps_count ..) (keeps_setFU_sameJob rfl))

theorem keeps_grantRun {p : Nat} {s : State} (h : fifoRoomAt p s) : Keeps s (grantRun p s) :=
  .after (keeps_startJob h) (keeps_setFU_sameJob rfl)

theorem keeps_grantRound {p : Nat} {s : State} (h : fifoRoomAt p s) : Keeps s (grantRound p s) :=
  .after (keeps_startJob h) (keeps_setFU_sameJob rfl)

theorem keeps_goIdle (s : State) : Keeps s (goIdle s) := keeps_setFU_sameJob rfl

theorem requests_of_runGoesOn {s : State} {p : Nat} (h : runGoesOn s = some p) : requests p s = true := by
  unfold runGoesOn at h
  split at h
  · split_ifs at h with hr
    cases h
    exact hr.1
  · cases h

theorem keeps_arbitrate (s : State) : Keeps s (arbitrate s) := by
  unfold arbitrate
  refine keeps_ite (fun h => keeps_grantUrgent (fifoRoomAt_of_urgent h)) fun _ =>
    keeps_ite (fun h => keeps_grantUrgent (fifoRoomAt_of_urgent h)) fun _ => ?_
  split
  · next p h => exact keeps_grantRun (fifoRoomAt_of_requests (requests_of_runGoesOn h))
  · split
    · next p h => exact keeps_grantRound (fifoRoomAt_of_requests (by simpa using List.find?_some h))
    · exact keeps_goIdle s

theorem keeps_grantIdle {p : Nat} {s : State} (h : fifoRoomAt p s) : Keeps s (grantIdle p s) :=
  keeps_ite (fun _ => keeps_grantUrgent h) fun _ => keeps_grantRound h

theorem keeps_settle (before s : State) : Keeps s (settle before s) := by
  have room : ∀ p, p ∈ requesters s → fifoRoomAt p s := fun p hp => fifoRoomAt_of_requests ((mem_requesters s p).1 hp).2
  rcases settle_cases before s with ⟨-, h⟩ | ⟨-, -, h⟩ | ⟨-, -, -, h⟩ | ⟨p, -, -, hp, h⟩ | ⟨p, -, -, -, hp, h⟩ <;> rw [h]
  · exact .refl s
  · exact keeps_arbitrate s
  · exact keeps_goIdle s
  · exact keeps_grantIdle (room p (by rw [hp]; exact List.mem_singleton_self p))
  · exact .after (keeps_grantIdle (room p hp)) (keeps_setFree ..)

theorem keeps_noteTogether (before s : State) : Keeps s (noteTogether before s) := ⟨.setLink id, le_rfl, rfl, rfl⟩

theorem keeps_finish (before s : State) : Keeps s (finish before s) :=
  .after (keeps_noteTogether ..) (keeps_settle ..)

end Sys2Proof.Machine
end

section
/-! Proofs: the rules of the Cell Table and of the feed keep the bounds and forms of a state (R25, R32 to R43, R74 to R78). -/

namespace Sys2Proof.Machine

/-! ### Checks that refuse -/

theorem keeps_iteServed {p : Prop} [Decidable p] {s : State} {x y : Served} (h1 : p → Keeps s x.state)
    (h2 : ¬p → Keeps s y.state) : Keeps s (if p then x else y).state := by
  split_ifs with h
  · exact h1 h
  · exact h2 h

/-! ### Cell lists (R74 to R76) -/

theorem Keeps.leaveList {s₀ s : State} (h : Keeps s₀ s) (i c : Nat) : Keeps s₀ (leaveList i c s) :=
  h.setEntry (fun _ g => g.symbols i) fun _ g => by
    obtain ⟨hl, hd, hb⟩ := g i
    exact ⟨(List.length_filter_le ..).trans hl, hd.sublist List.filter_sublist, fun d hd => hb d (List.mem_of_mem_filter hd)⟩

theorem keeps_leaveBound (c : Nat) (s : State) : Keeps s (leaveBound c s) := by
  unfold leaveBound
  split
  · next i _ => exact (Keeps.refl s).leaveList i c
  · exact .refl s

theorem leaveBound_cell (c : Nat) (s : State) (d : Nat) : (leaveBound c s).cell d = s.cell d := by
  unfold leaveBound
  split <;> rfl

/-- R75: a cell that has left the list of its binding stands in no list. -/
theorem notMem_leaveBound {s : State} (h : s.cellListsBounded) (c j : Nat) : c ∉ ((leaveBound c s).entry j).cells := by
  have bound : c ∈ (s.entry j).cells → (s.cell c).binding = some j := (h j).2.2 c
  unfold leaveBound
  split
  · next i hi =>
    by_cases e : j = i
    · subst e; simp [leaveList]
    · rw [leaveList, State.entry_setEntry_other _ e]
      exact fun hc => e (Option.some.inj ((bound hc).symm.trans hi))
  · next hn => exact fun hc => by rw [bound hc] at hn; cases hn

theorem leaveBound_entry_other {s : State} {c i : Nat} (h : (s.cell c).binding ≠ some i) :
    (leaveBound c s).entry i = s.entry i := by
  unfold leaveBound
  split
  · next j hj => exact State.entry_setEntry_other _ (fun e => h (hj.trans (congrArg some e.symm))) _
  · rfl

/-- R75: a cell bound and joined to the list of its index, when it stood in no list and the list had room. -/
theorem Keeps.joinList {s₀ s : State} (h : Keeps s₀ s) {i c : Nat} {r : Cell} (hr : r.binding = some i)
    (hroom : (s.entry i).cells.length < 4)
    (hnew : s₀.cellListsBounded → ∀ j, c ∉ (s.entry j).cells) :
    Keeps s₀ (joinList i c (s.setCell c r)) := by
  refine (h.setCell fun g₀ _ j hc => absurd hc (hnew g₀ j)).setEntry (fun _ g => g.symbols i) fun g₀ g => ?_
  obtain ⟨-, hd, hb⟩ := g i
  refine ⟨by simpa using hroom, ?_, fun d hm => ?_⟩
  · exact List.nodup_append.2 ⟨hd, by simp, fun a ha b hb => by
      obtain rfl := List.mem_singleton.1 hb; rintro rfl; exact hnew g₀ i ha⟩
  · rcases List.mem_append.1 hm with hm | hm
    · exact hb d hm
    · rw [List.mem_singleton.1 hm, State.cell_setCell_same]; exact hr

theorem keeps_bindCell {c i : Nat} {f : Field} {w : Nat} {s : State}
    (h : (s.cell c).binding ≠ some i → (s.entry i).cells.length < 4) : Keeps s (bindCell c i f w s) := by
  refine .after (keeps_offerCell ..) ?_
  split_ifs with hb
  · exact keeps_setCell (by rw [hb])
  · change Keeps s (joinList i c ((leaveBound c s).setCell c
      { ((leaveBound c s).cell c).fresh with binding := some i, field := f, width := w }))
    refine Keeps.joinList (keeps_leaveBound c s) rfl ?_ fun g => notMem_leaveBound g c
    rw [leaveBound_entry_other hb]; exact h hb

theorem keeps_bindRule (b : BindBody) (s : State) : Keeps s (bindRule b s).state := by
  unfold bindRule
  refine keeps_iteServed (fun _ => .refl s) fun _ => keeps_iteServed (fun _ => .refl s) fun _ =>
    keeps_iteServed (fun _ => .refl s) fun hfull => ?_
  split
  · refine keeps_bindCell fun hb => ?_
    have : ¬listFull b.index s = true := fun hl => hfull ⟨hb, hl⟩
    simpa [listFull] using this
  · exact .refl s

theorem keeps_unbindCell (c : Nat) (s : State) : Keeps s (unbindCell c s) :=
  .after (keeps_offerCell ..) ((keeps_leaveBound c s).setCell fun g _ i hc => absurd hc (notMem_leaveBound g c i))

theorem keeps_unbindRule (b : Nat × Nat) (s : State) : Keeps s (unbindRule b s).state :=
  keeps_iteServed (fun _ => .refl s) fun _ => keeps_iteServed (fun _ => .refl s) fun _ => keeps_unbindCell _ s

theorem keeps_holdRule (b : HoldBody) (s : State) : Keeps s (holdRule b s).state := by
  unfold holdRule
  refine keeps_iteServed (fun _ => .refl s) fun _ => ?_
  split
  · exact .refl s
  · exact .after (keeps_offerCell ..) (keeps_setCell rfl)

theorem keeps_releaseRule (b : Nat × Nat) (s : State) : Keeps s (releaseRule b s).state :=
  keeps_iteServed (fun _ => .refl s) fun _ => keeps_iteServed (fun _ => .refl s) fun _ =>
    .after (keeps_offerCell ..) (keeps_setCell rfl)

theorem keeps_boardSetRule (n : Nat) (s : State) : Keeps s (boardSetRule n s).state :=
  keeps_iteServed (fun _ => .refl s) fun _ => keeps_setFlashPeriod s n

/-! ### LIST (R25, R32) -/

theorem symbolForm_length {t : Text} (h : symbolForm t = true) : t.length ≤ 7 := by
  have hlen : t.length = (t.takeWhile isCapital).length + (t.dropWhile isCapital).length := by
    rw [← List.length_append, List.takeWhile_append_dropWhile]
  simp only [symbolForm, Bool.and_eq_true, decide_eq_true_eq] at h
  obtain ⟨⟨-, h5⟩, hrest⟩ := h
  split at hrest
  · next e => rw [e] at hlen; simp at hlen; omega
  · next e => rw [e] at hlen; simp at hlen; omega
  · cases hrest

/-- R25: a new symbol inserted leaves the directory rising. -/
theorem insertSymbol_pairwise {sym : Text} {i : Nat} {d : List (Text × Nat)} (hn : lookup sym d = none)
    (h : d.Pairwise (fun p q => symbolBelow p.1 q.1)) :
    (insertSymbol sym i d).Pairwise (fun p q => symbolBelow p.1 q.1) := by
  obtain ⟨before, after, rfl, e, hord⟩ := insertSymbol_spec sym i d hn
  obtain ⟨hbefore, hafter⟩ := hord h
  obtain ⟨hb, ha, hba⟩ := List.pairwise_append.1 h
  rw [e]
  refine List.pairwise_append.2 ⟨hb, List.pairwise_cons.2 ⟨hafter, ha⟩, fun p hp q hq => ?_⟩
  rcases List.mem_cons.1 hq with rfl | hq
  · exact hbefore p hp
  · exact hba p hp q hq

theorem keeps_listRule (b : ListBody) (s : State) : Keeps s (listRule b s).state := by
  refine keeps_iteServed (fun _ => .refl s) fun _ => keeps_iteServed (fun _ => .refl s) fun hr =>
    keeps_iteServed (fun _ => .refl s) fun _ => keeps_iteServed (fun _ => .refl s) fun hd => ?_
  have hform : symbolForm b.symbol = true := by
    simp only [ListBody.inRange, Bool.not_eq_true', Bool.and_eq_false_iff, not_or, Bool.not_eq_false] at hr
    exact hr.1.1.1
  have hnew : lookup b.symbol s.directory = none := by simpa using hd
  exact .after (keeps_fanCells ..) (.after (keeps_setDirectory (insertSymbol_pairwise hnew))
    ((Keeps.refl s).setEntry (fun _ _ => symbolForm_length hform) fun _ g => g b.index))

/-! ### TRADE, QUOTE, CLOSE-SET, HALT and RESUME (R33 to R41) -/

theorem checkPrice_le {d p q : Nat} {moved : Bool} (h : checkPrice d p = some (q, moved)) : q ≤ 639999 := by
  unfold checkPrice at h
  split_ifs at h with h1 h2
  cases h
  simp only [Config.maxPrice, not_or] at h1
  exact (snap_le d p).trans (by omega)

theorem checkSize_le {z w : Nat} {clamped : Bool} (h : checkSize z = some (w, clamped)) : w ≤ 9999999 := by
  unfold checkSize Config.maxSize at h
  split_ifs at h <;> cases h <;> omega

theorem entry_touch_symbol (i j : Nat) (s : State) (g : s.fifosBounded) : ((touch i s).entry j).symbol.length ≤ 7 :=
  ((keeps_touch i s).fifos g).symbols j

theorem keeps_tradeInstrument {i p z : Nat} {moved clamped : Bool} {s : State} (hp : p ≤ 639999) (hz : z ≤ 9999999) :
    Keeps s (tradeInstrument i p z moved clamped s) := by
  refine .after (keeps_setEntry rfl rfl) (.after (keeps_fanAlerts ..) (.after (keeps_fanRows ..) ?_))
  have k : Keeps s (((((touch i s).setEntry i (((touch i s).entry i).traded p z)).count .inTrades).advance .inOffgrid
      (countOf moved)).advance .inSizeClamped (countOf clamped)) :=
    .after (keeps_advance ..) (.after (keeps_advance ..) (.after (keeps_count ..)
      (.after (keeps_setEntry rfl rfl) (keeps_touch i s))))
  exact (k.trans (keeps_fanTradeCells i _)).offerToClass _ _ fun g => ⟨(k.fifos g).symbols i, hp, hz⟩

theorem keeps_tradeRule (b : TradeBody) (s : State) : Keeps s (tradeRule b s).state := by
  refine keeps_iteServed (fun _ => .refl s) fun _ => keeps_iteServed (fun _ => .refl s) fun _ =>
    keeps_iteServed (fun _ => .refl s) fun _ => keeps_iteServed (fun _ => .refl s) fun _ => ?_
  split
  · next p moved z clamped hp hz => exact keeps_tradeInstrument (checkPrice_le hp) (checkSize_le hz)
  · exact .refl s

theorem keeps_quoteRule (b : QuoteBody) (s : State) : Keeps s (quoteRule b s).state := by
  refine keeps_iteServed (fun _ => .refl s) fun _ => keeps_iteServed (fun _ => .refl s) fun _ => ?_
  split
  · exact .after (keeps_fanRows ..) (.after (keeps_advance ..) (.after (keeps_advance ..)
      (.after (keeps_setEntry rfl rfl) (keeps_touch ..))))
  · exact .refl s

theorem keeps_closeSetRule (b : Nat × Option Nat) (s : State) : Keeps s (closeSetRule b s).state := by
  refine keeps_iteServed (fun _ => .refl s) fun _ => keeps_iteServed (fun _ => .refl s) fun _ => ?_
  split
  · exact .after (keeps_fanCellsAndRows ..) (.after (keeps_advance ..) (.after (keeps_setEntry rfl rfl) (keeps_touch ..)))
  · exact .refl s

theorem keeps_changeStatus (i : Nat) (x : EntryStatus) {print : Text → PrintBody} (s : State)
    (hp : ∀ t : Text, t.length ≤ 7 → (print t).fits) : Keeps s (changeStatus i x print s) := by
  have k : Keeps s (fanCellsAndRows i ((touch i s).setEntry i { (touch i s).entry i with status := x })) :=
    .after (keeps_fanCellsAndRows ..) (.after (keeps_setEntry rfl rfl) (keeps_touch i s))
  exact k.offerToClass _ _ fun g => hp _ (entry_touch_symbol i i s g)

theorem keeps_haltRule (i : Nat) (s : State) : Keeps s (haltRule i s).state :=
  keeps_iteServed (fun _ => .refl s) fun _ => keeps_iteServed (fun _ => .refl s) fun _ =>
    keeps_changeStatus i _ (print := fun sym => .halt sym i) s fun _ h => h

theorem keeps_resumeRule (i : Nat) (s : State) : Keeps s (resumeRule i s).state :=
  keeps_iteServed (fun _ => .refl s) fun _ => keeps_iteServed (fun _ => .refl s) fun _ =>
    keeps_changeStatus i _ (print := fun sym => .resume sym i) s fun _ h => h

/-! ### DELIST (R42, R43) -/

theorem dropInstrument_forms (i : Nat) (t : Terminal) : Terminal.FormsKept t (t.dropInstrument i) := by
  unfold Terminal.dropInstrument
  split
  · next k _ =>
    refine Terminal.FormsKept.trans (b := { t with watchList := t.watchList.eraseIdx k }) ⟨id, fun ⟨hl, hd⟩ => ?_⟩
      (markFrom_forms ..)
    exact ⟨(List.length_eraseIdx_le ..).trans hl, hd.sublist (List.eraseIdx_sublist ..)⟩
  · exact .refl t

theorem dropAlerts_forms (i : Nat) (t : Terminal) : Terminal.FormsKept t (t.dropAlerts i) := by
  have all : ∀ (l : List Nat) (t : Terminal), Terminal.FormsKept t
      (l.foldl (fun t n => if (t.alert n).instrument = some i then t.setAlert n Alert.cold else t) t) := by
    intro l
    induction l with
    | nil => exact .refl
    | cons n l ih =>
      refine fun t => .trans ?_ (ih _)
      change Terminal.FormsKept t (if (t.alert n).instrument = some i then t.setAlert n Alert.cold else t)
      split_ifs
      · exact .of_same rfl rfl
      · exact .refl t
  exact all _ t

theorem keeps_dropFromTerminals (i : Nat) (s : State) : Keeps s (dropFromTerminals i s) :=
  keeps_forEach termNos (fun n s => keeps_setTerm ((dropInstrument_forms i (s.term n)).trans (dropAlerts_forms i _))) s

/-- R43: one cell of a delisted instrument unbound and offered. -/
def unbindOffer (c : Nat) (s : State) : State := offerCell false c (unbindRecord c s)

/-- R43: cells that stand in no list unbound and offered. -/
theorem keeps_unbindAll {s₀ s : State} (h : Keeps s₀ s) (l : List Nat)
    (hl : s₀.cellListsBounded → ∀ c ∈ l, ∀ j, c ∉ (s.entry j).cells) : Keeps s₀ (forEach l unbindOffer s) := by
  induction l generalizing s with
  | nil => exact h
  | cons c l ih =>
    have hent : ∀ j, (unbindOffer c s).entry j = s.entry j := fun j => by
      unfold unbindOffer
      rcases offerCell_cases false c (unbindRecord c s) with ⟨-, e⟩ | ⟨-, -, e⟩ | ⟨-, -, -, e⟩ <;> rw [e] <;> rfl
    refine ih (.after (keeps_offerCell ..) (h.setCell fun g₀ _ j hc => absurd hc (hl g₀ c List.mem_cons_self j)))
      fun g₀ d hd j => ?_
    rw [hent]; exact hl g₀ d (List.mem_cons_of_mem c hd) j

/-- R43: the unbinding of cells reads and writes no entry. -/
theorem unbindAll_setEntry (l : List Nat) (s : State) (i : Nat) (e : Entry) :
    (forEach l unbindOffer s).setEntry i e = forEach l unbindOffer (s.setEntry i e) ∧
      (forEach l unbindOffer s).entries = s.entries := by
  induction l generalizing s with
  | nil => exact ⟨rfl, rfl⟩
  | cons c l ih =>
    have hset : (unbindOffer c s).setEntry i e = unbindOffer c (s.setEntry i e) := by
      simp only [unbindOffer, offerCell]
      rw [apply_ite (fun u : State => u.setEntry i e), apply_ite (fun u : State => u.setEntry i e)]
      rfl
    have hent : (unbindOffer c s).entries = s.entries := by
      unfold unbindOffer
      rcases offerCell_cases false c (unbindRecord c s) with ⟨-, e⟩ | ⟨-, -, e⟩ | ⟨-, -, -, e⟩ <;> rw [e] <;> rfl
    obtain ⟨h1, h2⟩ := ih (unbindOffer c s)
    exact ⟨h1.trans (by rw [hset]; rfl), h2.trans hent⟩

theorem removeIndex_pairwise (i : Nat) {d : List (Text × Nat)} (h : d.Pairwise (fun p q => symbolBelow p.1 q.1)) :
    (removeIndex i d).Pairwise (fun p q => symbolBelow p.1 q.1) := h.sublist List.filter_sublist

/-- R43: once the entry's list is empty, no cell unbound stands in a list: the list's members were bound to the index. -/
theorem keeps_delistInstrument (i : Nat) (s : State) : Keeps s (delistInstrument i s) := by
  refine .after (keeps_setDirectory (removeIndex_pairwise i)) ?_
  set s1 := dropFromTerminals i s
  set cells := (s1.entry i).cells
  obtain ⟨hset, hent⟩ := unbindAll_setEntry cells s1 i
    { s1.entry i with cells := [], watchers := 0, status := .free }
  have hread : (forEach cells unbindOffer s1).entry i = s1.entry i := by rw [State.entry, hent]; rfl
  change Keeps s ((forEach cells unbindOffer s1).setEntry i
    { (forEach cells unbindOffer s1).entry i with cells := [], watchers := 0, status := .free })
  rw [hread, hset]
  have k1 : Keeps s s1 := keeps_dropFromTerminals i s
  have k2 : Keeps s (s1.setEntry i { s1.entry i with cells := [], watchers := 0, status := .free }) :=
    k1.setEntry (fun _ g => g.symbols i) fun _ _ => ⟨by simp, List.nodup_nil, by simp⟩
  refine keeps_unbindAll k2 cells fun g₀ c hc j => ?_
  have g := k1.cells g₀
  by_cases e : j = i
  · subst e; simp
  · rw [State.entry_setEntry_other _ e]
    exact fun hj => e (Option.some.inj (((g j).2.2 c hj).symm.trans ((g i).2.2 c hc)))

theorem keeps_delistRule (i : Nat) (s : State) : Keeps s (delistRule i s).state :=
  keeps_iteServed (fun _ => .refl s) fun _ => keeps_iteServed (fun _ => .refl s) fun _ =>
    keeps_iteServed (fun _ => .refl s) fun _ => keeps_delistInstrument i s

end Sys2Proof.Machine
end

section
/-! Proofs: the terminal lines, the dealer requests and the referral windows keep the bounds and forms of a state (R137 to R156,
R158, R159, R163 to R185). -/

namespace Sys2Proof.Machine

/-! ### Rounds (R142, R143) -/

theorem keeps_startRounds (line fuel : Nat) (s : State) : Keeps s (startRounds line fuel s) := by
  induction fuel generalizing s with
  | zero => exact .refl s
  | succ fuel ih =>
    refine keeps_ite (fun _ => ?_) fun _ => keeps_setTLine ..
    have k : Keeps s (endRound line (beginRound line s)) := .after (keeps_setTLine ..) (keeps_setTLine ..)
    split_ifs
    · exact k.trans (ih _)
    · exact k

theorem keeps_startRound (line : Nat) (s : State) : Keeps s (startRound line s) := keeps_startRounds line 8 s

theorem keeps_finishRound (line : Nat) (s : State) : Keeps s (finishRound line s) := by
  have k : Keeps s (endRound line s) := keeps_setTLine ..
  exact k.trans (keeps_ite (fun _ => keeps_startRound ..) fun _ => .refl _)

theorem keeps_endRoundIfDone (line : Nat) (s : State) : Keeps s (endRoundIfDone line s) :=
  keeps_ite (fun _ => keeps_finishRound line s) fun _ => .refl s

theorem keeps_startRoundIfIdle (line : Nat) (s : State) : Keeps s (startRoundIfIdle line s) :=
  keeps_ite (fun _ => keeps_startRound line s) fun _ => .refl s

theorem keeps_tickQuiet (line : Nat) (s : State) : Keeps s (tickQuiet line s) := by
  refine keeps_ite (fun _ => .refl s) fun _ => ?_
  have k : Keeps s (s.setTLine line { s.tline line with quietCount := min 10 ((s.tline line).quietCount + 1) }) :=
    keeps_setTLine ..
  exact k.trans (keeps_ite (fun _ => keeps_startRoundIfIdle line _) fun _ => .refl _)

/-! ### Records, blocks and slots (R144 to R154, R183) -/

theorem keeps_giveResult (n : Nat) (res : DealerResult) (s : State) : Keeps s (giveResult n res s) :=
  keeps_setTerm (.of_same rfl rfl)

theorem keeps_giveCode (n : Nat) (c : ReplyCode) (s : State) : Keeps s (giveCode n c s) := keeps_giveResult ..

theorem keeps_tickLapse (n : Nat) (s : State) : Keeps s (tickLapse n s) := by
  refine keeps_setTerm ?_
  unfold Terminal.tickLapse
  dsimp only
  split_ifs
  · exact .of_same rfl rfl
  · exact .of_same rfl rfl
  · exact .refl _

theorem discard_forms (b : Block) (t : Terminal) : Terminal.FormsKept t (t.discard b) := by
  cases b with
  | reply r => unfold Terminal.discard; dsimp only; split_ifs; exacts [.of_same rfl rfl, .refl t]
  | bell r => unfold Terminal.discard; dsimp only; split_ifs; exacts [.of_same rfl rfl, .refl t]
  | page _ _ _ => exact .refl t
  | status _ _ => exact .refl t
  | idle => exact .refl t
  | rows _ => exact .refl t

theorem delivered_forms (b : Block) (t : Terminal) : Terminal.FormsKept t (t.delivered b) := by
  cases b with
  | reply r => exact .of_same rfl rfl
  | bell r => unfold Terminal.delivered; dsimp only; split_ifs; exacts [.of_same rfl rfl, .refl t]
  | page _ _ _ => exact .refl t
  | status _ _ => exact .refl t
  | idle => exact .refl t
  | rows _ => exact .refl t

/-- R69: only a TERMINAL job is told of its terminal's fate. -/
theorem keeps_markFate (fate : JobFate) (line addr : Nat) (s : State) : Keeps s (markFate fate line addr s) := by
  refine keeps_setFU fun id late lt tx an pr hj => ?_
  obtain ⟨j, hj', e⟩ := Option.map_eq_some_iff.1 hj
  cases j with
  | board l k t full => exact absurd e Job.noConfusion
  | terminal l a b f => simp only [Job.meets] at e; split_ifs at e
  | ribbon r late lt tx an pr off => rw [hj', ← e]; rfl

theorem keeps_goSilent (line addr : Nat) (s : State) : Keeps s (goSilent line addr s) := by
  refine .after (keeps_count ..) (.after (keeps_raise ..) (.after (keeps_markFate ..) (keeps_setTerm ?_)))
  have k : Terminal.FormsKept (s.term (termNo line addr)) (match (s.term (termNo line addr)).outBlock with
      | some b => (s.term (termNo line addr)).discard b | none => s.term (termNo line addr)) := by
    split
    · exact discard_forms ..
    · exact .refl _
  exact k.trans (.of_same rfl rfl)

theorem keeps_expireHeld (w : Nat) (h : HeldSlot) (s : State) : Keeps s (expireHeld w h s) :=
  .after (keeps_raise ..) (.after (keeps_giveResult ..) (.after (keeps_count ..) (keeps_setWindow ..)))

theorem keeps_tickReferral (w : Nat) (s : State) : Keeps s (tickReferral w s) := by
  unfold tickReferral
  split
  · exact .refl s
  · exact keeps_ite (fun _ => keeps_expireHeld ..) fun _ => keeps_setWindow ..

theorem keeps_oweStatus (s : State) : Keeps s (oweStatus s) := by
  refine keeps_forEach termNos (fun n s => ?_) s
  exact keeps_ite (fun _ => keeps_setTerm (.of_same rfl rfl)) fun _ => .refl s

/-! ### TERM-ADMIT, TERM-RETIRE, TLINE-SET, rounds and slots (R138 to R144) -/

theorem keeps_termAdmitRule (b : Nat × Nat × Bool) (s : State) : Keeps s (termAdmitRule b s).state := by
  refine keeps_iteServed (fun _ => .refl s) fun _ => keeps_iteServed (fun _ => .refl s) fun _ => ?_
  have k : Keeps s (s.setTerm (termNo b.1 b.2.1) ((s.term (termNo b.1 b.2.1)).admitted b.2.2)) :=
    keeps_setTerm ⟨fun _ => .nil, fun _ => ⟨by simp [Terminal.admitted], List.nodup_nil⟩⟩
  exact keeps_ite (fun _ => k) fun _ => k.trans (keeps_startRoundIfIdle ..)

theorem keeps_cancelReferral (line addr : Nat) (s : State) : Keeps s (cancelReferral line addr s) := by
  unfold cancelReferral
  split
  · exact .after (keeps_raise ..) (keeps_setWindow ..)
  · exact .refl s

theorem keeps_dropWatcher (i : Nat) (s : State) : Keeps s (dropWatcher i s) := keeps_setEntry rfl rfl

theorem keeps_ignoreSlot (line addr : Nat) (s : State) : Keeps s (ignoreSlot line addr s) := by
  unfold ignoreSlot
  split
  · exact keeps_ite (fun _ => keeps_setTLine ..) fun _ => .refl s
  · exact .refl s

theorem keeps_retireTerminal (line addr : Nat) (s : State) : Keeps s (retireTerminal line addr s) := by
  refine .after (keeps_markFate ..) (.after (keeps_ignoreSlot ..) (.after (keeps_setTerm
    ⟨fun _ => .nil, fun _ => ⟨by simp [Terminal.retired, Terminal.cold], List.nodup_nil⟩⟩) ?_))
  refine .after (keeps_forEach _ keeps_dropWatcher _) ?_
  exact keeps_ite (fun _ => keeps_cancelReferral ..) fun _ => .refl s

theorem keeps_termRetireRule (b : Nat × Nat) (s : State) : Keeps s (termRetireRule b s).state :=
  keeps_iteServed (fun _ => .refl s) fun _ => keeps_iteServed (fun _ => .refl s) fun _ => keeps_retireTerminal ..

theorem keeps_tlineSetRule (b : TLineBody) (s : State) : Keeps s (tlineSetRule b s).state := by
  unfold tlineSetRule
  split
  · exact .refl s
  · next p _ =>
    have k : Keeps s (configureTLine b p s) := keeps_setTLine ..
    exact keeps_iteServed (fun _ => .refl s) fun _ =>
      keeps_iteServed (fun _ => k.trans (keeps_startRoundIfIdle ..)) fun _ => k

theorem keeps_roundStart (line : Nat) (s : State) : Keeps s (roundStart line s) :=
  keeps_ite (fun _ => keeps_startRoundIfIdle line s) fun _ => .refl s

theorem keeps_raiseAttention (line : Nat) (s : State) : Keeps s (raiseAttention line s) := by
  have k : Keeps s (s.setTLine line { s.tline line with attention := true }) := keeps_setTLine ..
  exact keeps_ite (fun _ => k.trans (keeps_startRoundIfIdle line _)) fun _ => k

theorem keeps_slotStart (line : Nat) (s : State) : Keeps s (slotStart line s) := by
  unfold slotStart
  split
  · split
    · exact .after (keeps_setTLine ..) (keeps_setTerm (.of_same rfl rfl))
    · exact keeps_finishRound line s
  · exact .refl s

/-! ### Carrying out (R158, R166 to R172) -/

theorem insertAt_perm {α : Type} (a : α) (n : Nat) (l : List α) : (insertAt a n l).Perm (a :: l) := by
  induction l generalizing n with
  | nil => cases n <;> exact .refl _
  | cons b l ih =>
    cases n with
    | zero => exact .refl _
    | succ n => exact ((ih n).cons b).trans (.swap a b l)

theorem keeps_carryPage (n page : Nat) (s : State) : Keeps s (carryPage n page s) :=
  .after (keeps_giveCode ..) (keeps_setTerm ⟨fun _ => .nil, id⟩)

theorem keeps_carryResync (n : Nat) (s : State) : Keeps s (carryResync n s) :=
  .after (keeps_giveCode ..) (keeps_setTerm (.of_same rfl rfl))

/-- R158, R168: an instrument not on the list is added to a list that has room. -/
theorem keeps_carryWatchAdd {n i : Nat} (wanted : Option Nat) {s : State} (hi : i ∉ (s.term n).watchList)
    (hl : (s.term n).watchList.length < 24) : Keeps s (carryWatchAdd n i wanted s) := by
  refine .after (keeps_giveResult ..) (.after (keeps_setEntry rfl rfl) (keeps_setTerm ?_))
  set k := addPosition wanted (s.term n).watchList.length
  have hp := insertAt_perm i k (s.term n).watchList
  refine Terminal.FormsKept.trans (b := { s.term n with watchList := insertAt i k (s.term n).watchList })
    ⟨id, fun ⟨_, hd⟩ => ?_⟩ (markFrom_forms ..)
  exact ⟨by rw [hp.length_eq]; exact hl, hp.nodup_iff.2 (List.nodup_cons.2 ⟨hi, hd⟩)⟩

theorem keeps_carryWatchDrop (n i : Nat) (s : State) : Keeps s (carryWatchDrop n i s) :=
  .after (keeps_giveCode ..) (.after (keeps_dropWatcher ..) (keeps_setTerm (dropInstrument_forms ..)))

theorem keeps_carryAlertSet (n slot i : Nat) (c : Conditions) (s : State) : Keeps s (carryAlertSet n slot i c s) :=
  .after (keeps_giveResult ..) (keeps_setTerm (.of_same rfl rfl))

theorem keeps_carryAlertClear (n slot : Nat) (s : State) : Keeps s (carryAlertClear n slot s) :=
  .after (keeps_giveCode ..) (keeps_setTerm (.of_same rfl rfl))

theorem keeps_checkedWatchAdd {n i : Nat} {next : State → State} {s : State}
    (h : i ∉ (s.term n).watchList → (s.term n).watchList.length < 24 → Keeps s (next s)) :
    Keeps s (checkedWatchAdd n i next s) := by
  unfold checkedWatchAdd watchAddFails
  split_ifs with h1 h2
  · exact keeps_giveCode ..
  · exact keeps_giveCode ..
  · exact h h1 (by omega)

theorem keeps_checkedAlertSet {n i : Nat} {q : DealerRequest} {next : Conditions → State → State} {s : State}
    (h : ∀ c, Keeps s (next c s)) : Keeps s (checkedAlertSet n i q next s) := by
  unfold checkedAlertSet
  split
  · exact keeps_giveCode ..
  · exact h _

/-! ### Referral and dealing (R163 to R165, R180, R181) -/

theorem keeps_holdRequest (w line addr : Nat) (kind : ReferralKind) (i : Nat) (s : State) :
    Keeps s (holdRequest w line addr kind i s) :=
  .after (keeps_raise ..) (.after (keeps_count ..) (.after (keeps_setTerm (.of_same rfl rfl)) (keeps_setWindow ..)))

theorem keeps_refer {line addr : Nat} {kind : ReferralKind} {i : Nat} {carry : State → State} {s : State}
    (h : Keeps s (carry s)) : Keeps s (refer line addr kind i carry s) := by
  refine keeps_ite (fun _ => h) fun _ => ?_
  split
  · exact h
  · exact keeps_ite (fun _ => keeps_giveCode ..) fun _ => keeps_holdRequest ..

theorem keeps_withSymbol {n : Nat} {sym : Option Text} {next : Nat → State → State} {s : State}
    (h : ∀ i s, Keeps s (next i s)) : Keeps s (withSymbol n sym next s) := by
  unfold withSymbol
  split
  · exact keeps_giveCode ..
  · split
    · exact keeps_giveCode ..
    · exact .after (h _ _) (keeps_touch ..)

theorem keeps_withSlot {n : Nat} {slot : Option Nat} {next : Nat → State → State} {s : State}
    (h : ∀ k s, Keeps s (next k s)) : Keeps s (withSlot n slot next s) := by
  unfold withSlot
  split
  · exact keeps_ite (fun _ => h _ _) fun _ => keeps_giveCode ..
  · exact keeps_giveCode ..

theorem keeps_dealTaken (line addr : Nat) (q : DealerRequest) (s : State) : Keeps s (dealTaken line addr q s) := by
  unfold dealTaken
  split
  · exact keeps_giveCode ..
  · unfold dealPage
    dsimp only
    split
    · exact keeps_ite (fun _ => keeps_carryPage ..) fun _ => keeps_giveCode ..
    · exact keeps_giveCode ..
  · exact keeps_carryResync ..
  · exact keeps_ite (fun _ => keeps_giveCode ..) fun _ => keeps_withSymbol fun i s =>
      keeps_checkedWatchAdd fun hi hl => keeps_refer (keeps_carryWatchAdd _ hi hl)
  · exact keeps_withSymbol fun i s => keeps_ite (fun _ => keeps_carryWatchDrop ..) fun _ => keeps_giveCode ..
  · exact keeps_withSymbol fun i s => keeps_refer (keeps_giveResult ..)
  · exact keeps_ite (fun _ => keeps_giveCode ..) fun _ => keeps_withSlot fun k s => keeps_withSymbol fun i s =>
      keeps_checkedAlertSet fun c => keeps_refer (keeps_carryAlertSet ..)
  · exact keeps_withSlot fun k s => keeps_carryAlertClear ..

/-! ### Answers and time limits (R145 to R148) -/

theorem keeps_slotFailed (line addr : Nat) (s : State) : Keeps s (slotFailed line addr s) := by
  have k : Keeps s ((s.setTerm (termNo line addr) { s.term (termNo line addr) with
      retry := (s.term (termNo line addr)).retry + 1 }).count .tmRetries) :=
    .after (keeps_count ..) (keeps_setTerm (.of_same rfl rfl))
  exact keeps_ite (fun _ => k.trans (keeps_goSilent ..)) fun _ => k

theorem keeps_slotAcked (line addr : Nat) (tx : Transmission) (s : State) : Keeps s (slotAcked line addr tx s) := by
  cases tx with
  | output ready b =>
    refine .after (keeps_count ..) (keeps_setTerm ?_)
    have k : Terminal.FormsKept (s.term (termNo line addr)) { s.term (termNo line addr) with outBlock := none } :=
      .of_same rfl rfl
    exact (k.trans (delivered_forms b _)).trans (.of_same rfl rfl)
  | poll ready => exact keeps_setTerm (.of_same rfl rfl)

theorem keeps_terminalJoins (line addr : Nat) (s : State) : Keeps s (terminalJoins line addr s) :=
  .after (keeps_raise ..) (keeps_setTerm (.of_same rfl rfl))

theorem keeps_answerOutcome (line : Nat) (x : TermSlot) (ack : Bool) (s : State) :
    Keeps s (answerOutcome line x ack s) := by
  have ended : Keeps s (if ack then slotAcked line x.address x.tx s else slotFailed line x.address s) :=
    keeps_ite (fun _ => keeps_slotAcked ..) fun _ => keeps_slotFailed ..
  unfold answerOutcome
  split
  · exact ended
  · exact ended
  · exact keeps_terminalJoins ..
  · exact keeps_terminalJoins ..
  · exact .refl s

theorem takeRequest_forms (q : DealerRequest) (t : Terminal) : Terminal.FormsKept t (t.takeRequest q) := by
  unfold Terminal.takeRequest
  dsimp only
  split_ifs <;> exact .of_same rfl rfl

theorem keeps_carriedRequest (line addr : Nat) (q : Option DealerRequest) (s : State) :
    Keeps s (carriedRequest line addr q s) := by
  cases q with
  | none => exact .refl s
  | some q =>
    exact keeps_ite (fun _ => .after (keeps_dealTaken ..) (keeps_setTerm (takeRequest_forms ..))) fun _ =>
      keeps_count ..

theorem keeps_terminalAnswer (line : Nat) (m : TerminalMessage) (s : State) : Keeps s (terminalAnswer line m s) := by
  unfold terminalAnswer
  split
  · exact .refl s
  · refine keeps_ite (fun _ => .after (keeps_endRoundIfDone ..) ?_) fun _ => .refl s
    have k : Keeps s (dropSlot line s) := keeps_setTLine ..
    exact keeps_ite (fun _ => k) fun _ => .after (keeps_carriedRequest ..) (.after (keeps_answerOutcome ..) k)

theorem keeps_slotTimeLimit (line : Nat) (s : State) : Keeps s (slotTimeLimit line s) := by
  unfold slotTimeLimit
  split
  · exact .refl s
  · have k : Keeps s (dropSlot line s) := keeps_setTLine ..
    exact .after (keeps_endRoundIfDone ..) (keeps_ite (fun _ => k) fun _ =>
      k.trans (keeps_ite (fun _ => keeps_slotFailed ..) fun _ => .refl _))

theorem keeps_dealerAnswer (kind : DealerKind) (line : Nat) (m : TerminalMessage) (s : State) :
    Keeps s (dealerAnswer kind line m s) :=
  keeps_ite (fun _ => keeps_terminalAnswer line m s) fun _ => .refl s

/-! ### WINDOW-SET and REFER-ANSWER (R178, R184, R185) -/

theorem keeps_windowSetRule (b : WindowBody) (s : State) : Keeps s (windowSetRule b s).state :=
  keeps_iteServed (fun _ => keeps_setWindow ..) fun _ => .refl s

theorem keeps_grantHeld (h : HeldSlot) (s : State) : Keeps s (grantHeld h s) := by
  unfold grantHeld
  dsimp only
  split
  · exact keeps_checkedWatchAdd fun hi hl => keeps_carryWatchAdd _ hi hl
  · exact keeps_giveResult ..
  · exact keeps_checkedAlertSet fun c => keeps_carryAlertSet ..

theorem keeps_referAnswerRule (b : Nat × Nat) (s : State) : Keeps s (referAnswerRule b s).state := by
  refine keeps_iteServed (fun _ => .refl s) fun _ => ?_
  split
  · exact .refl s
  · exact keeps_ite (fun _ => .after (keeps_grantHeld ..) (keeps_setWindow ..)) fun _ =>
      .after (keeps_giveCode ..) (keeps_setWindow ..)

end Sys2Proof.Machine
end

section
/-! Proofs: the board lines, the load, the session, the tick, the ribbons, the job completions, the queries and a RESTART keep the
bounds and forms of a state (R46 to R58, R71 to R72, R88 to R116, R129 to R135, R202 to R210). -/

namespace Sys2Proof.Machine

/-! ### Board lines (R94 to R109) -/

/-- A line's enabled set stands. -/
theorem keeps_setLine_same {s : State} {n : Nat} {l : BoardLine} (h : l.enabled = (s.line n).enabled) :
    Keeps s (s.setLine n l) := keeps_setLine (by rw [h]; exact id)

theorem keeps_settleSlots (line : Nat) (slots : List Nat) (s : State) : Keeps s (settleSlots line slots s) := by
  refine keeps_forEach slots (fun k s => ?_) s
  exact .after (keeps_setCell rfl) (keeps_setSlot ..)

theorem keeps_frameStart (line : Nat) (s : State) : Keeps s (frameStart line s) := keeps_setLine_same rfl

theorem keeps_slotAnswered (line : Nat) (it : FrameItem) (s : State) : Keeps s (slotAnswered line it s) :=
  keeps_ite (fun _ => keeps_setSlot ..) fun _ => .after (keeps_offerCell ..) (.after (keeps_raise ..) (keeps_setSlot ..))

theorem keeps_slotLost (line : Nat) (it : FrameItem) (s : State) : Keeps s (slotLost line it s) := by
  have k : ∀ r, Keeps s ((s.setSlot (cellNo line it.slot) r).setCell (cellNo line it.slot)
      { s.cell (cellNo line it.slot) with needsFull := true }) := fun r => .after (keeps_setCell rfl) (keeps_setSlot ..)
  exact keeps_ite (fun _ => .after (keeps_count ..) (.after (keeps_raise ..) (k _))) fun _ => k _

theorem keeps_applyItem (line : Nat) (f : Frame) (answers : List ModuleAnswer) (it : FrameItem) (s : State) :
    Keeps s (applyItem line f answers it s) :=
  keeps_ite (fun _ => keeps_ite (fun _ => keeps_slotAnswered ..) fun _ => keeps_slotLost ..) fun _ => .refl s

theorem keeps_nextFrame (line : Nat) (s : State) : Keeps s (nextFrame line s) :=
  keeps_ite (fun _ => .refl s) fun _ => keeps_frameStart line s

theorem keeps_endFrame (line : Nat) (f : Frame) (answers : List ModuleAnswer) (s : State) :
    Keeps s (endFrame line f answers s) := by
  have k : Keeps s (forEach f.items (applyItem line f answers) (dropFrame line s)) :=
    .after (keeps_forEach _ (keeps_applyItem line f answers) _) (keeps_setLine_same rfl)
  exact .after (keeps_nextFrame ..) (k.trans (keeps_ite (fun _ => keeps_settleSlots ..) fun _ => .refl _))

theorem keeps_startDarkTimer (line : Nat) (s : State) : Keeps s (startDarkTimer line s) := keeps_setLine_same rfl

theorem keeps_startDarkTimers (s : State) : Keeps s (startDarkTimers s) := by
  refine keeps_forEach lineNos (fun n s => ?_) s
  exact keeps_ite (fun _ => keeps_startDarkTimer n s) fun _ => .refl s

theorem keeps_darkExpire (line : Nat) (s : State) : Keeps s (darkExpire line s) := keeps_setLine_same rfl

theorem keeps_wakeLine (line : Nat) (s : State) : Keeps s (wakeLine line s) :=
  .after (keeps_forEach _ (keeps_offerCell true) _) (keeps_setLine_same rfl)

theorem keeps_wakeLines (s : State) : Keeps s (wakeLines s) := by
  refine keeps_forEach lineNos (fun n s => ?_) s
  cases (s.line n).state with
  | dark => exact keeps_wakeLine n s
  | lit => exact keeps_setLine_same rfl
  | off => exact .refl s

theorem keeps_tickDark (line : Nat) (s : State) : Keeps s (tickDark line s) := by
  unfold tickDark
  split
  · exact .refl s
  · exact keeps_ite (fun _ => keeps_darkExpire line s) fun _ => keeps_setLine_same rfl

/-- R94: the enabled set of a LINE-SET rises. -/
theorem keeps_configureLine {b : LineBody} (h : b.enabled.Pairwise (· < ·)) (s : State) : Keeps s (configureLine b s) :=
  .after (keeps_settleSlots ..) (keeps_setLine fun _ => h)

theorem keeps_lineTo (x : LineState) (n : Nat) (s : State) : Keeps s (lineTo x n s) := by
  have k : Keeps s (s.setLine n { s.line n with
      state := x, darkTimer := if x = .dark then none else (s.line n).darkTimer }) := keeps_setLine_same rfl
  exact keeps_ite (fun _ => k.trans (keeps_frameStart ..)) fun _ => k

theorem keeps_lineOff (n : Nat) (s : State) : Keeps s (lineOff n s) := by
  unfold lineOff
  dsimp only
  split
  · exact keeps_setLine_same rfl
  · exact .after (keeps_settleSlots ..) (keeps_setLine_same rfl)

theorem keeps_applyTarget (t : LineTarget) (n : Nat) (s : State) : Keeps s (applyTarget t n s) := by
  cases t with
  | unchanged => exact .refl s
  | lit => exact keeps_lineTo .lit n s
  | dark => exact keeps_lineTo .dark n s
  | off => exact keeps_ite (fun _ => .refl s) fun _ => keeps_lineOff n s

theorem keeps_lineSetRule {b : LineBody} (h : b.enabled.Pairwise (· < ·)) (s : State) :
    Keeps s (lineSetRule b s).state := by
  refine keeps_iteServed (fun _ => .refl s) fun _ => ?_
  split
  · exact .refl s
  · exact keeps_iteServed (fun _ => .refl s) fun _ => .after (keeps_applyTarget ..) (keeps_configureLine h s)

theorem keeps_timerAfterWake (n : Nat) (s : State) : Keeps s (timerAfterWake n s) :=
  keeps_ite (fun _ => keeps_startDarkTimer n s) fun _ => .refl s

theorem keeps_lineWakeRule (n : Nat) (s : State) : Keeps s (lineWakeRule n s).state := by
  refine keeps_iteServed (fun _ => .refl s) fun _ => ?_
  cases (s.line n).state with
  | off => exact .refl s
  | lit => exact keeps_timerAfterWake n s
  | dark => exact .after (keeps_timerAfterWake ..) (keeps_wakeLine n s)

theorem keeps_sendItem (n : Nat) (taken : Bool) (s : State) : Keeps s (sendItem n taken s) := by
  unfold sendItem
  split
  · exact .refl s
  · next f _ =>
    split
    · exact .refl s
    · have k : Keeps s (s.setLine n { s.line n with frame := some { f with sent := f.sent + 1 } }) :=
        keeps_setLine_same rfl
      exact keeps_ite (fun _ => k.trans (keeps_setDisplay ..)) fun _ => k

theorem keeps_frameEnd (n : Nat) (answers : List ModuleAnswer) (s : State) : Keeps s (frameEnd n answers s) := by
  unfold frameEnd
  split
  · exact .refl s
  · exact keeps_ite (fun _ => keeps_endFrame ..) fun _ => .refl s

theorem keeps_stageText (line slot : Nat) (t : BoardText) (s : State) : Keeps s (stageText line slot t s) :=
  keeps_ite (fun _ => .refl s) fun _ => keeps_setSlot ..

theorem keeps_offerText (line slot : Nat) (t : BoardText) (full : Bool) (s : State) :
    Keeps s (offerText line slot t full s) :=
  keeps_ite (fun _ => keeps_count ..) fun _ => keeps_stageText ..

/-! ### The load (R74, R93, R204 to R206) -/

theorem keeps_takeLine (n size offset rate : Nat) (s : State) : Keeps s (takeLine n size offset rate s) :=
  .after (keeps_setLoader ..) (keeps_setLine fun _ => List.pairwise_lt_range)

theorem keeps_layoutBinding (c : Nat) (i : Option Nat) (s : State) : Keeps s (layoutBinding c i s) := by
  refine keeps_ite (fun _ => .refl s) fun hb => ?_
  have freed : Keeps s ((leaveBound c s).setCell c { (leaveBound c s).cell c with binding := none }) :=
    (keeps_leaveBound c s).setCell fun g _ j hc => absurd hc (notMem_leaveBound g c j)
  cases i with
  | none => exact freed
  | some i =>
    refine keeps_ite (fun _ => freed) fun hfull => ?_
    exact Keeps.joinList (keeps_leaveBound c s) rfl (by simpa [listFull] using hfull) fun g => notMem_leaveBound g c

theorem keeps_takeSlot (c width : Nat) (field : Field) (i : Option Nat) (s : State) :
    Keeps s (takeSlot c width field i s) :=
  .after (keeps_setLoader ..) (.after (keeps_layoutBinding ..) (keeps_setCell rfl))

theorem keeps_lightLine (n : Nat) (s : State) : Keeps s (lightLine n s) :=
  .after (keeps_frameStart ..) (keeps_setLine_same rfl)

theorem keeps_endLoad (result : LoadResult) (cause : Option LoadCause) (failing : Option Nat) (s : State) :
    Keeps s (endLoad result cause failing s) :=
  .after (keeps_raise ..) (.after (keeps_forEach _ (keeps_offerCell true) _) (.after (keeps_forEach _ keeps_lightLine _)
    (keeps_setLoader ..)))

theorem keeps_nextRecord (s : State) : Keeps s (nextRecord s) :=
  keeps_ite (fun _ => keeps_endLoad ..) fun _ => keeps_setLoader ..

theorem keeps_judgeRecord (bytes : List Byte) (s : State) : Keeps s (judgeRecord bytes s) := by
  refine keeps_ite (fun _ => keeps_endLoad ..) fun _ => keeps_ite (fun _ => keeps_endLoad ..) fun _ => ?_
  split
  · exact keeps_endLoad ..
  · exact keeps_endLoad ..
  · exact .after (keeps_nextRecord _) (keeps_takeLine ..)
  · exact .after (keeps_nextRecord _) (keeps_takeSlot ..)

theorem keeps_recordRead (r : PromRead) (s : State) : Keeps s (recordRead r s) := by
  refine keeps_ite (fun _ => ?_) fun _ => .refl s
  cases r with
  | silent => exact keeps_endLoad ..
  | record bytes => exact keeps_judgeRecord bytes s

/-! ### Session transitions (R55 to R58) -/

theorem keeps_offerBanner (left entered : SessionState) (s : State) : Keeps s (offerBanner left entered s) := by
  unfold offerBanner
  split
  · exact (Keeps.refl s).forEach ribbonIds fun id s h => h.offerPrint id _ fun _ => trivial
  · exact .refl s

theorem keeps_ribbonOnSession (entered : SessionState) (id : RibbonId) (s : State) :
    Keeps s (ribbonOnSession entered id s) :=
  keeps_ite (fun _ => keeps_startRibbon id s) fun _ => keeps_ite (fun _ => keeps_stopTest id s) fun _ => .refl s

theorem keeps_boardsOnSession (entered : SessionState) (s : State) : Keeps s (boardsOnSession entered s) := by
  cases entered with
  | after => exact keeps_startDarkTimers s
  | preOpen => exact keeps_wakeLines s
  | closed => exact .refl s
  | opened => exact .refl s
  | haltedAll => exact .refl s

theorem keeps_makeTransition (tgt : SessionState) (s : State) : Keeps s (makeTransition tgt s) := by
  have k1 : Keeps s ((s.setSession
      { state := tgt, left := s.session.state, entered := tgt, second := s.clock.second }).raise .session) :=
    .after (keeps_raise ..) (keeps_setSession ..)
  have k2 : ∀ u, Keeps u (if tgt = .preOpen then beginDay u else u) := fun u =>
    keeps_ite (fun _ => .after (keeps_setWalk ..) (keeps_setDayNumber ..)) fun _ => .refl u
  refine .after (keeps_oweStatus _) (.after (keeps_forEach ribbonIds (keeps_ribbonOnSession tgt) _)
    (.after (keeps_offerBanner ..) (.after (keeps_boardsOnSession ..) ?_)))
  exact k1.trans (k2 _)

theorem sessionDone_state (s : State) : (sessionDone s).state = s := rfl

theorem keeps_sessionSetRule (n : Nat) (s : State) : Keeps s (sessionSetRule n s).state := by
  unfold sessionSetRule
  split
  · exact .refl s
  · next tgt _ =>
    refine keeps_iteServed (fun _ => .refl s) fun _ => keeps_iteServed (fun _ => .refl s) fun _ =>
      keeps_iteServed (fun _ => .refl s) fun _ => ?_
    rw [sessionDone_state]
    exact keeps_makeTransition tgt s

theorem keeps_setClockState (x : ClockState) (s : State) : Keeps s (setClockState x s) :=
  keeps_ite (fun _ => .refl s) fun _ => .after (keeps_raise ..) (keeps_setClock ..)

theorem keeps_timeSetRule (b : TimeBody) (s : State) : Keeps s (timeSetRule b s).state :=
  keeps_iteServed (fun _ => .refl s) fun _ => .after (keeps_setClockState ..) (keeps_setClock ..)

theorem keeps_schedSetRule (b : SchedBody) (s : State) : Keeps s (schedSetRule b s).state := by
  unfold schedSetRule
  split
  · exact .refl s
  · exact keeps_setSched ..

/-! ### The second tick (R47 to R54, R88) -/

theorem keeps_flashExpire (c : Nat) (s : State) : Keeps s (flashExpire c s) :=
  .after (keeps_offerCell ..) (keeps_setCell rfl)

theorem keeps_tickFlash (c : Nat) (s : State) : Keeps s (tickFlash c s) :=
  keeps_ite (fun _ => keeps_setCell rfl) fun _ => .refl s

theorem keeps_tickFlashes (s : State) : Keeps s (tickFlashes s) :=
  .after (keeps_forEach _ keeps_flashExpire _) (.after (keeps_setFree ..) (keeps_forEach _ keeps_tickFlash s))

theorem keeps_tickRibbon (id : RibbonId) (s : State) : Keeps s (s.setRibbon id (s.ribbon id).tick) :=
  keeps_shrinkRibbon le_rfl (.refl _)

theorem keeps_tickCounts (s : State) : Keeps s (tickCounts s) :=
  .after (keeps_forEach _ keeps_tickReferral _) (.after (keeps_setFree ..) (.after (keeps_forEach termNos keeps_tickLapse _)
    (.after (keeps_forEach tlineNos keeps_tickQuiet _) (.after (keeps_forEach ribbonIds keeps_tickRibbon _)
      (.after (keeps_forEach lineNos keeps_tickDark _) (keeps_tickFlashes s))))))

theorem keeps_applyEntry (n : Nat) (s : State) : Keeps s (applyEntry n s) := by
  have skip : ∀ reason, Keeps s (skipEntry n reason s) := fun _ => .after (keeps_raise ..) (keeps_setSched ..)
  exact keeps_ite (fun _ => .refl s) fun _ => keeps_ite (fun _ => skip _) fun _ => keeps_ite (fun _ => skip _) fun _ =>
    keeps_makeTransition ..

theorem keeps_minuteTest (s : State) : Keeps s (minuteTest s) := by
  refine keeps_ite (fun _ => keeps_forEach _ (fun n s => ?_) s) fun _ => .refl s
  exact .after (keeps_settle ..) (keeps_applyEntry n s)

theorem keeps_secondTick (s : State) : Keeps s (secondTick s) :=
  .after (keeps_minuteTest _) (.after (keeps_settle ..) (.after (keeps_tickCounts _) (keeps_setClock ..)))

theorem keeps_referencePresent (s : State) : Keeps s (referencePresent s) := by
  have k : Keeps s (s.setClock { s.clock with present := true, watchExpired := false }) := keeps_setClock ..
  exact keeps_ite (fun _ => k.trans (keeps_setClockState ..)) fun _ => k

theorem keeps_referenceLost (s : State) : Keeps s (referenceLost s) := by
  have k : Keeps s (s.setClock { s.clock with present := false, watchExpired := true }) := keeps_setClock ..
  exact keeps_ite (fun _ => k.trans (keeps_setClockState ..)) fun _ => k

theorem keeps_secondPulse (s : State) : Keeps s (secondPulse s) :=
  .after (keeps_referencePresent _) (keeps_secondTick s)

theorem keeps_watchExpiry (s : State) : Keeps s (watchExpiry s) :=
  keeps_ite (fun _ => .refl s) fun _ => .after (keeps_secondTick _) (.after (keeps_secondTick _) (.after (keeps_secondTick _)
    (keeps_referenceLost s)))

theorem keeps_internalSecond (s : State) : Keeps s (internalSecond s) :=
  keeps_ite (fun _ => .refl s) fun _ => keeps_secondTick s

theorem keeps_flashExpiry (c : Nat) (s : State) : Keeps s (flashExpiry c s) :=
  keeps_ite (fun _ => keeps_flashExpire c s) fun _ => .refl s

theorem keeps_darkExpiry (line : Nat) (s : State) : Keeps s (darkExpiry line s) :=
  keeps_ite (fun _ => keeps_darkExpire line s) fun _ => .refl s

theorem keeps_quietExpiry (line : Nat) (s : State) : Keeps s (quietExpiry line s) :=
  keeps_ite (fun _ => keeps_tickQuiet line s) fun _ => .refl s

theorem keeps_lapseExpiry (n : Nat) (s : State) : Keeps s (lapseExpiry n s) :=
  keeps_ite (fun _ => keeps_tickLapse n s) fun _ => .refl s

theorem keeps_referralExpiry (w : Nat) (s : State) : Keeps s (referralExpiry w s) := by
  unfold referralExpiry
  split
  · exact keeps_ite (fun _ => keeps_expireHeld ..) fun _ => .refl s
  · exact .refl s

theorem keeps_walkVisit (s : State) : Keeps s (walkVisit s) :=
  keeps_ite (fun _ => keeps_ite (fun _ => .after (keeps_setWalk ..) (keeps_touch ..)) fun _ =>
    .after (keeps_setFree ..) (.after (keeps_setWalk ..) (keeps_touch ..))) fun _ => .refl s

/-! ### Ribbons (R113 to R116, R132) -/

/-- R114: a ribbon that enters OFF holds nothing, and the job in flight for it will deliver no text. -/
theorem keeps_ribbonOff (id : RibbonId) (s : State) : Keeps s (ribbonOff id s) := by
  have k1 : Keeps s (s.setRibbon id (s.ribbon id).turnedOff) := keeps_shrinkRibbon (Nat.zero_le _) (List.nil_sublist _)
  have k2 : ∀ u : State, Keeps u (u.setFU { u.fu with job := u.fu.job.map (Job.ribbonOff id) }) := fun u => by
    refine keeps_setFU fun k late lt tx an pr hj => ?_
    obtain ⟨j, hj', e⟩ := Option.map_eq_some_iff.1 hj
    cases j with
    | board l k t full => exact absurd e Job.noConfusion
    | terminal l a b f => exact absurd e Job.noConfusion
    | ribbon r late lt tx an pr off =>
      obtain ⟨rfl, rfl, rfl, rfl, rfl, rfl, hoff⟩ := Job.ribbon.inj e
      rw [hj', (Bool.or_eq_false_iff.1 hoff).1]
  exact keeps_ite (fun _ => k1.trans (k2 _)) fun _ => .after (keeps_raise ..) (k1.trans (k2 _))

theorem keeps_ribbonOn (id : RibbonId) (s : State) : Keeps s (ribbonOn id s) := by
  refine keeps_ite (fun _ => .refl s) fun _ => ?_
  split
  · exact keeps_startRibbon id s
  · exact keeps_shrinkRibbon le_rfl (.refl _)

theorem keeps_ribbonSetRule (b : RibbonBody) (s : State) : Keeps s (ribbonSetRule b s).state := by
  unfold ribbonSetRule
  split
  · next id e _ _ =>
    refine keeps_iteServed (fun _ => ?_) fun _ => .refl s
    have k : Keeps s (s.setRibbon id ((s.ribbon id).configured b)) := keeps_shrinkRibbon le_rfl (.refl _)
    refine k.trans ?_
    cases e with
    | unchanged => exact .refl _
    | on => exact keeps_ribbonOn ..
    | off => exact keeps_ite (fun _ => .refl _) fun _ => keeps_ribbonOff ..
  · exact .refl s

theorem keeps_characterPeriod (id : RibbonId) (s : State) : Keeps s (characterPeriod id s) :=
  keeps_ite (fun _ => keeps_ite (fun _ => keeps_periodStart id s) fun _ =>
    .after (keeps_stopTest ..) (keeps_periodStart id s)) fun _ => keeps_shrinkRibbon le_rfl (.refl _)

/-! ### The Format Unit's commands (R67 to R71, R129) -/

theorem keeps_formatSetRule (g : Nat) (s : State) : Keeps s (formatSetRule g s).state :=
  keeps_iteServed (fun _ => .refl s) fun _ => keeps_setFU_sameJob rfl

theorem keeps_dropJob (s : State) : Keeps s (dropJob s) := keeps_setFU fun _ _ _ _ _ _ h => by cases h

theorem keeps_completeBoard (s : State) : Keeps s (completeBoard s) := by
  unfold completeBoard
  split
  · exact .after (keeps_arbitrate _) (.after (keeps_count ..) (.after (keeps_offerText ..) (keeps_dropJob s)))
  · exact .refl s

/-- R129, R131: the texts of the job in flight fit behind what the FIFO holds. -/
theorem keeps_completeRibbon (s : State) : Keeps s (completeRibbon s) := by
  unfold completeRibbon
  split
  · next id late lt tx an pr off hj =>
    refine .after (keeps_arbitrate _) (keeps_ite (fun _ => .after (keeps_stopTest ..) (keeps_dropJob s)) fun hoff => ?_)
    have hr : (dropJob s).ribbon id = s.ribbon id := by simp [dropJob]
    refine .after (keeps_stopTest ..) (.after (keeps_count ..) ((keeps_dropJob s).setRibbon (fun g _ => ⟨?_, ?_⟩)
      (fun g => ?_) fun _ g => ?_))
    · have hfit := g.job id late lt tx an pr (by simpa [hoff] using hj)
      simp only [Ribbon.written, hr, List.length_append]
      omega
    · intro _ _ _ _ _ h; cases h
    · exact (dropJob s).queuesBounded_iff.1 g id
    · exact g.queue id
  · exact .refl s

theorem keeps_completeTerminal (s : State) : Keeps s (completeTerminal s) := by
  unfold completeTerminal
  split
  · next line addr b fate _ =>
    refine .after (keeps_arbitrate _) ((keeps_dropJob s).trans ?_)
    cases fate with
    | kept =>
      exact .after (keeps_ite (fun _ => keeps_startRoundIfIdle ..) fun _ => .refl _) (keeps_setTerm (.of_same rfl rfl))
    | silenced => exact keeps_setTerm (discard_forms ..)
    | retired => exact .refl _
  · exact .refl s

/-! ### Queries (R202, R203) -/

theorem keeps_askStatusRule (n : Nat) (s : State) : Keeps s (askStatusRule n s).state :=
  keeps_iteServed (fun _ => .refl s) fun _ => .refl s

theorem keeps_askInstrumentRule (i : Nat) (s : State) : Keeps s (askInstrumentRule i s).state :=
  keeps_iteServed (fun _ => .refl s) fun _ => keeps_touch i s

theorem keeps_askCellRule (b : Nat × Nat) (s : State) : Keeps s (askCellRule b s).state :=
  keeps_iteServed (fun _ => .refl s) fun _ => .refl s

theorem keeps_askTerminalRule (b : Nat × Nat) (s : State) : Keeps s (askTerminalRule b s).state :=
  keeps_iteServed (fun _ => .refl s) fun _ => .refl s

theorem keeps_askRibbonRule (n : Nat) (s : State) : Keeps s (askRibbonRule n s).state := by
  unfold askRibbonRule
  split <;> exact .refl s

/-! ### RESTART (R209) -/

theorem keeps_restartCells (s : State) : Keeps s (restartCells s) := by
  refine .after (keeps_forEach _ (fun n s => keeps_forEach _ (keeps_offerCell true) s) _)
    (.after (keeps_forEach _ (fun n s => ?_) _) (keeps_forEach _ (fun c s => ?_) s))
  · exact keeps_setQueue fun _ => ⟨List.nodup_nil, by simp⟩
  · exact keeps_setCell rfl

theorem keeps_restartLine (n : Nat) (s : State) : Keeps s (restartLine n s) := by
  refine .after (keeps_nextFrame ..) (.after (keeps_forEach _ (fun k s => ?_) _) (keeps_setLine_same rfl))
  exact keeps_setSlot ..

theorem keeps_restartRibbon (id : RibbonId) (s : State) : Keeps s (restartRibbon id s) := by
  have k : Keeps s (s.setRibbon id { (s.ribbon id).cleared with period := none, output := none }) :=
    keeps_shrinkRibbon (Nat.zero_le _) (List.nil_sublist _)
  refine keeps_ite (fun _ => k) fun _ => ?_
  split
  · exact k.trans (keeps_startRibbon ..)
  · exact k.trans (keeps_shrinkRibbon (by rw [State.ribbon_setRibbon_same]) (by rw [State.ribbon_setRibbon_same]))

theorem restarted_forms (t : Terminal) : Terminal.FormsKept t t.restarted := by
  have all : ∀ (l : List Nat) (t : Terminal),
      (l.foldl (fun t n => t.setAlert n (t.alert n).unmarked) t).watchList = t.watchList := by
    intro l
    induction l with
    | nil => exact fun _ => rfl
    | cons n l ih => exact fun t => ih _
  have hw : t.restarted.watchList = t.watchList := all _ t
  exact ⟨fun _ => .nil, by rw [hw]; exact id⟩

theorem keeps_restartTerminals (s : State) : Keeps s (restartTerminals s) := by
  refine .after (keeps_forEach _ (fun n s => ?_) _) (keeps_forEach _ (fun n s => ?_) s)
  · exact .after (keeps_startRoundIfIdle ..) (keeps_setTLine ..)
  · exact keeps_setTerm (restarted_forms _)

theorem keeps_restartWindows (s : State) : Keeps s (restartWindows s) := by
  refine keeps_forEach _ (fun n s => ?_) s
  exact keeps_setWindow ..

theorem keeps_emptyLink (s : State) : Keeps s (emptyLink s) := ⟨.setLink fun _ => List.nodup_nil, Nat.zero_le _, rfl, rfl⟩

theorem keeps_restartRule (u : Unit) (s : State) : Keeps s (restartRule u s).state := by
  have idle : Keeps s (s.setFU s.fu.restarted) := keeps_setFU fun _ _ _ _ _ _ h => by cases h
  have blocks : Keeps s (restartBlocks s) :=
    .after (keeps_restartWindows _) (.after (keeps_restartTerminals _) (.after (keeps_forEach _ keeps_restartRibbon _)
      (.after (keeps_forEach _ keeps_restartLine _) (.after (keeps_restartCells _) idle))))
  change Keeps s (emptyLink (restartBlocks s))
  exact blocks.trans (keeps_emptyLink _)

end Sys2Proof.Machine
end

section
/-! Proofs: every step keeps the bounds and forms of a state, and they hold right after reset (R25, R75, R79, R94, R117, R131, R158,
R159, R196, R198, R200, 0.4.7). -/

namespace Sys2Proof.Machine

/-! ### The Link Interface (R193 to R201) -/

/-- The forms carry over, and so do the bounds of the Link Interface. -/
structure BoundsCarried (s t : State) : Prop extends FormsKept s t where
  link : s.linkBounded → t.linkBounded

theorem BoundsCarried.refl (s : State) : BoundsCarried s s := ⟨.refl s, id⟩

theorem BoundsCarried.trans {s t u : State} (h1 : BoundsCarried s t) (h2 : BoundsCarried t u) : BoundsCarried s u :=
  ⟨h1.toFormsKept.trans h2.toFormsKept, h2.link ∘ h1.link⟩

theorem Keeps.carried {s t : State} (h : Keeps s t) : BoundsCarried s t :=
  ⟨h.toFormsKept, fun ⟨h1, h2, h3⟩ => ⟨h.requests.trans h1, by rw [h.replies]; exact h2, by rw [h.inService]; exact h3⟩⟩

theorem BoundsCarried.after {s₀ s t : State} (h : BoundsCarried s t) (h₀ : BoundsCarried s₀ s) : BoundsCarried s₀ t :=
  h₀.trans h

theorem carried_ite {p : Prop} [Decidable p] {s t u : State} (h1 : p → BoundsCarried s t) (h2 : ¬p → BoundsCarried s u) :
    BoundsCarried s (if p then t else u) := by
  split_ifs with h
  · exact h1 h
  · exact h2 h

/-- A change of the Link Interface that keeps its three bounds and the form of its notice list. -/
theorem carried_setLink {s : State} {l : Link} (hn : s.noticesOnce → l.notices.Nodup)
    (hq : s.link.requests.length ≤ 16 → l.requests.length ≤ 16)
    (hr : s.link.replies.length ≤ 4 → l.replies.length ≤ 4) (hs : l.inService = s.link.inService) :
    BoundsCarried s (s.setLink l) :=
  ⟨.setLink hn, fun ⟨h1, h2, h3⟩ => ⟨hq h1, hr h2, hs.trans h3⟩⟩

theorem carried_setAsm (a : Asm) (s : State) : BoundsCarried s (setAsm a s) := carried_setLink id id id rfl

theorem carried_count (s : State) (c : Counter) : BoundsCarried s (s.count c) := (keeps_count s c).carried

/-- R196: a request joins a queue with room; a reply of its refusal joins a queue with room beside the place kept. -/
theorem carried_takeRequest (r : LinkFrame) (s : State) : BoundsCarried s (takeRequest r s) := by
  refine carried_ite (fun h => carried_setLink id (fun _ => ?_) id rfl) fun _ =>
    carried_ite (fun h => .after (carried_count ..) (carried_setLink id id (fun _ => ?_) rfl)) fun _ => carried_count ..
  · simpa [Config.requestPlaces] using h
  · simp only [Config.replyPlaces] at h
    rw [List.length_append, List.length_singleton]
    omega

theorem carried_receiveByte (b : Byte) (s : State) : BoundsCarried s (receiveByte b s) := by
  have asm : ∀ a, BoundsCarried s (setAsm a s) := fun a => carried_setAsm a s
  have bad : BoundsCarried s (badFrame (setAsm .hunt s)) := .after (carried_count ..) (asm _)
  unfold receiveByte
  split
  · exact carried_ite (fun _ => asm _) fun _ => .refl s
  · exact carried_ite (fun _ => asm _) fun _ => asm _
  · exact carried_ite (fun _ => bad) fun _ => asm _
  · exact asm _
  · exact asm _
  · exact asm _
  · exact asm _
  · exact carried_ite (fun _ => .after (carried_takeRequest ..) (asm _)) fun _ => bad

theorem carried_receiveBytes (bytes : List Byte) (s : State) : BoundsCarried s (receiveBytes bytes s) :=
  forEach_rel BoundsCarried.refl (fun _ _ _ => BoundsCarried.trans) bytes carried_receiveByte s

theorem carried_clearChanged (n : NoticeItem) (s : State) : BoundsCarried s (clearChanged n s) := by
  unfold clearChanged
  split
  · exact (keeps_setSlot ..).carried
  · next line addr =>
    have k : Keeps s (s.setTerm (termNo line addr) { s.term (termNo line addr) with changed := false }) :=
      keeps_setTerm (.of_same rfl rfl)
    exact k.carried
  all_goals exact .refl s

theorem carried_sendReply (s : State) : BoundsCarried s (sendReply s) := by
  unfold sendReply
  split
  · exact .refl s
  · next r rest h => exact carried_setLink id id (fun g => (by rw [h] at g; exact (Nat.le_succ _).trans g)) rfl

theorem carried_sendNotice (s : State) : BoundsCarried s (sendNotice s) := by
  unfold sendNotice
  split
  · exact .refl s
  · next n rest h =>
    refine .after (carried_clearChanged ..) (carried_setLink (fun g => ?_) id id rfl)
    rw [State.noticesOnce, h] at g
    exact (List.nodup_cons.1 g).2

theorem carried_frameSent (s : State) : BoundsCarried s (frameSent s) := by
  unfold frameSent
  split
  · exact .refl s
  · next f _ =>
    have k : BoundsCarried s (s.setLink { s.link with tx := none, noticeSeq := seqAfter f s.link.noticeSeq }) :=
      carried_setLink id id id rfl
    exact k.trans (carried_ite (fun _ => carried_sendNotice _) fun _ => carried_sendReply _)

/-! ### The service of a request (R197, R198) -/

theorem formsKept_endService (r : LinkFrame) (x : Served) : FormsKept x.state (endService r x) := by
  have reply : ∀ q, FormsKept x.state (putReply q (x.state.setLink { x.state.link with inService := none })) :=
    fun q => .setLink id
  unfold endService
  dsimp only
  split
  · exact reply _
  · exact (reply _).trans (keeps_count _ .inRefused).toFormsKept

/-- R198: a service ends with one more reply and none in service. -/
theorem endService_link (r : LinkFrame) (x : Served) : (endService r x).link.requests = x.state.link.requests ∧
    (endService r x).link.replies.length = x.state.link.replies.length + 1 ∧ (endService r x).link.inService = none := by
  unfold endService
  dsimp only
  split
  · exact ⟨rfl, by simp [putReply], rfl⟩
  · exact ⟨rfl, by simp [refuseReply, putReply, State.count, State.advance], rfl⟩

/-- R197, R198: the service of a request by a rule that keeps the forms. -/
theorem carried_serveHead {takes : LinkFrame → Bool} {rule : List Byte → State → Served}
    (h : ∀ body u, Keeps u (rule body u).state) (s : State) : BoundsCarried s (serveHead takes rule s) := by
  unfold serveHead
  split
  · exact .refl s
  · next r rest hq =>
    refine carried_ite (fun hm => ?_) fun _ => .refl s
    have k := h r.body (beginService r rest s)
    obtain ⟨e1, e2, e3⟩ := endService_link r (rule r.body (beginService r rest s))
    have begun : FormsKept s (beginService r rest s) := .setLink id
    refine ⟨begun.trans (k.toFormsKept.trans (formsKept_endService ..)), fun ⟨h1, _, _⟩ => ⟨?_, ?_, e3⟩⟩
    · rw [e1]
      rw [hq] at h1
      exact k.requests.trans ((Nat.le_succ _).trans h1)
    · rw [e2, k.replies]
      simp only [mayServe, Bool.and_eq_true, decide_eq_true_eq] at hm
      exact hm.1.2

theorem carried_serve {α : Type} {kind : HostKind} {read : List Byte → Option α} {rule : α → State → Served}
    (h : ∀ x u, Keeps u (rule x u).state) (s : State) : BoundsCarried s (serve kind read rule s) := by
  refine carried_serveHead (fun body u => ?_) s
  unfold shaped
  split
  · exact .refl u
  · exact h _ u

theorem carried_serve_lineSet (s : State) : BoundsCarried s (serve .lineSet readLineSet lineSetRule s) := by
  refine carried_serveHead (fun body u => ?_) s
  unfold shaped
  split
  · exact .refl u
  · next b hb => exact keeps_lineSetRule (readLineSet_rising hb) u

/-! ### RESET (R207) -/

/-- The bounds and forms of the cold state. -/
theorem coldState_bounded (asserted : Bool) (s : State) :
    let t := coldState asserted s
    t.linkBounded ∧ t.noticesOnce ∧ t.queuesBounded ∧ t.countersBounded ∧ t.refreshOnce ∧ t.enabledRising ∧ t.rowsRising ∧
      t.directoryRising ∧ t.fifosBounded ∧ t.watchListsBounded ∧ t.cellListsBounded :=
  ⟨⟨Nat.zero_le _, Nat.zero_le _, rfl⟩, List.nodup_nil, ⟨Nat.zero_le _, Nat.zero_le _⟩, fun _ => Nat.zero_le _,
    fun _ => ⟨List.nodup_nil, fun _ h => nomatch h⟩, fun _ => List.pairwise_lt_range, fun _ => .nil, .nil,
    ⟨fun id => by cases id <;> exact Nat.zero_le _, fun _ _ _ _ _ _ h => (by cases h),
      fun id p hp => (by cases id <;> cases hp), fun _ => Nat.zero_le _⟩,
    fun _ => ⟨Nat.zero_le _, List.nodup_nil⟩, fun _ => ⟨Nat.zero_le _, List.nodup_nil, fun _ h => nomatch h⟩⟩

theorem carried_coldState (asserted : Bool) (s : State) : BoundsCarried s (coldState asserted s) := by
  obtain ⟨h1, h2, h3, h4, h5, h6, h7, h8, h9, h10, h11⟩ := coldState_bounded asserted s
  exact ⟨⟨fun _ => h2, fun _ => h3, fun _ => h4, fun _ => h5, fun _ => h6, fun _ => h7, fun _ => h8, fun _ => h9,
    fun _ => h10, fun _ => h11⟩, fun _ => h1⟩

/-! ### Every command and every step -/

theorem carried_act {f : State → State} {s t : State} (hf : BoundsCarried s (f s)) (h : act f s = .next t) :
    BoundsCarried s t := by
  cases hr : s.resetAsserted with
  | true => rw [act_of_asserted hr] at h; cases h; exact .refl s
  | false => rw [act_of_released hr] at h; cases h; exact hf.trans (keeps_finish ..).carried

theorem carried_actUndecided {f : State → State} {s t : State} (hf : BoundsCarried s (f s))
    (h : actUndecided f s = .next t) : BoundsCarried s t := by
  cases hr : s.resetAsserted with
  | true => rw [actUndecided_of_asserted hr] at h; cases h; exact .refl s
  | false => rw [actUndecided_of_released hr] at h; cases h; exact hf.trans (keeps_noteTogether ..).carried

theorem carried_exec {i : Instr} {s t : State} (h : exec i s = .next t) : BoundsCarried s t := by
  cases i with
  | resetAssert => cases h; exact carried_coldState true s
  | resetRelease =>
    change (if s.resetAsserted then Host.Outcome.next (coldState false s) else .next s) = .next t at h
    split_ifs at h <;> cases h
    · exact carried_coldState false s
    · exact .refl s
  | layoutRecordRead read => exact carried_act (keeps_recordRead read s).carried h
  | receiveFrame bytes => exact carried_act (carried_receiveBytes bytes s) h
  | frameTimeout => exact carried_act (carried_ite (fun _ => .after (carried_count ..) (carried_setAsm ..)) fun _ => .refl s) h
  | transmitReply => exact carried_act (carried_ite (fun _ => carried_sendReply s) fun _ => .refl s) h
  | transmitNotice => exact carried_act (carried_ite (fun _ => carried_sendNotice s) fun _ => .refl s) h
  | frameSent => exact carried_act (carried_frameSent s) h
  | list => exact carried_act (carried_serve keeps_listRule s) h
  | delist => exact carried_act (carried_serve keeps_delistRule s) h
  | trade => exact carried_act (carried_serve keeps_tradeRule s) h
  | quote => exact carried_act (carried_serve keeps_quoteRule s) h
  | closeSet => exact carried_act (carried_serve keeps_closeSetRule s) h
  | halt => exact carried_act (carried_serve keeps_haltRule s) h
  | resume => exact carried_act (carried_serve keeps_resumeRule s) h
  | rollWalkVisit => exact carried_act (keeps_walkVisit s).carried h
  | sessionSet => exact carried_act (carried_serve keeps_sessionSetRule s) h
  | timeSet => exact carried_act (carried_serve keeps_timeSetRule s) h
  | schedSet => exact carried_act (carried_serve keeps_schedSetRule s) h
  | secondPulse => exact carried_act (keeps_secondPulse s).carried h
  | referenceWatchExpiry => exact carried_act (keeps_watchExpiry s).carried h
  | internalSecond => exact carried_act (keeps_internalSecond s).carried h
  | formatSet => exact carried_act (carried_serve keeps_formatSetRule s) h
  | boardJobCompletion => exact carried_act (keeps_completeBoard s).carried h
  | ribbonJobCompletion => exact carried_act (keeps_completeRibbon s).carried h
  | terminalJobCompletion => exact carried_act (keeps_completeTerminal s).carried h
  | bind => exact carried_act (carried_serve keeps_bindRule s) h
  | unbind => exact carried_act (carried_serve keeps_unbindRule s) h
  | hold => exact carried_act (carried_serve keeps_holdRule s) h
  | release => exact carried_act (carried_serve keeps_releaseRule s) h
  | boardSet => exact carried_act (carried_serve keeps_boardSetRule s) h
  | flashExpiry line slot => exact carried_act (keeps_flashExpiry (cellNo line slot) s).carried h
  | lineSet => exact carried_act (carried_serve_lineSet s) h
  | lineWake => exact carried_act (carried_serve keeps_lineWakeRule s) h
  | frameEnd line answers => exact carried_act (keeps_frameEnd line answers s).carried h
  | frameItemSend line taken => exact carried_act (keeps_sendItem line taken s).carried h
  | darkExpiry line => exact carried_act (keeps_darkExpiry line s).carried h
  | ribbonSet => exact carried_act (carried_serve keeps_ribbonSetRule s) h
  | characterPeriod ribbon => exact carried_act (keeps_characterPeriod ribbon s).carried h
  | termAdmit => exact carried_act (carried_serve keeps_termAdmitRule s) h
  | termRetire => exact carried_act (carried_serve keeps_termRetireRule s) h
  | tlineSet => exact carried_act (carried_serve keeps_tlineSetRule s) h
  | roundStart line => exact carried_act (keeps_roundStart line s).carried h
  | slotStart line => exact carried_act (keeps_slotStart line s).carried h
  | terminalAnswer line message => exact carried_act (keeps_terminalAnswer line message s).carried h
  | slotTimeLimit line => exact carried_act (keeps_slotTimeLimit line s).carried h
  | attention line => exact carried_act (keeps_raiseAttention line s).carried h
  | quietIntervalExpiry line => exact carried_act (keeps_quietExpiry line s).carried h
  | terminalLapse line address => exact carried_act (keeps_lapseExpiry (termNo line address) s).carried h
  | page line message => exact carried_act (keeps_dealerAnswer .page line message s).carried h
  | resync line message => exact carried_act (keeps_dealerAnswer .resync line message s).carried h
  | watchAdd line message => exact carried_act (keeps_dealerAnswer .watchAdd line message s).carried h
  | watchDrop line message => exact carried_act (keeps_dealerAnswer .watchDrop line message s).carried h
  | quoteAsk line message => exact carried_act (keeps_dealerAnswer .quoteAsk line message s).carried h
  | alertSet line message => exact carried_act (keeps_dealerAnswer .alertSet line message s).carried h
  | alertClear line message => exact carried_act (keeps_dealerAnswer .alertClear line message s).carried h
  | windowSet => exact carried_act (carried_serve keeps_windowSetRule s) h
  | referAnswer => exact carried_act (carried_serve keeps_referAnswerRule s) h
  | referralExpiry window => exact carried_act (keeps_referralExpiry window s).carried h
  | askStatus => exact carried_actUndecided (carried_serve keeps_askStatusRule s) h
  | askInstrument => exact carried_act (carried_serve keeps_askInstrumentRule s) h
  | askCell => exact carried_actUndecided (carried_serve keeps_askCellRule s) h
  | askTerminal => exact carried_actUndecided (carried_serve keeps_askTerminalRule s) h
  | askRibbon => exact carried_actUndecided (carried_serve keeps_askRibbonRule s) h
  | askCounters => exact carried_actUndecided (carried_serve (fun _ u => .refl u) s) h
  | clearCounters => exact carried_act (carried_serve (fun _ u => keeps_clearCounters u) s) h
  | restart => exact carried_actUndecided (carried_serve keeps_restartRule s) h
  | firstSyncByte => exact carried_act (carried_ite (fun _ => carried_receiveByte ..) fun _ => .refl s) h
  | secondSyncMissing byte => exact carried_act (carried_ite (fun _ => carried_receiveByte ..) fun _ => .refl s) h
  | unknownRequestKind => exact carried_act (carried_serveHead (fun _ u => .refl u) s) h

theorem carried_step {s t : State} (h : step s = .next t) : BoundsCarried s t := by
  unfold step at h
  split at h
  · cases h; exact .refl s
  · next c rest _ =>
    have k : BoundsCarried s { s with pending := rest } := (Keeps.of_frame rfl).carried
    exact k.trans (carried_exec h)

/-- Settles O6: each command's writes keep the bounds and forms (`Keeps`), those of the link keep its own (`BoundsCarried`). -/
theorem boundsKept : Obligations.BoundsKept :=
  ⟨fun _ _ g h => (carried_step h).link g, fun _ _ g h => (carried_step h).notices g,
    fun _ _ g h => (carried_step h).prints g, fun _ _ g h => (carried_step h).counters g,
    fun _ _ g h => (carried_step h).refresh g, fun _ _ g h => (carried_step h).enabled g,
    fun _ _ g h => (carried_step h).rows g, fun _ _ g h => (carried_step h).directory g,
    fun _ _ g h => (carried_step h).fifos g, fun _ _ g h => (carried_step h).watches g,
    fun _ _ g h => (carried_step h).cells g⟩

/-- Settles O8: the state after reset is a cold state, and its tables are empty. -/
theorem invariantsAtReset : Obligations.InvariantsAtReset := by
  obtain ⟨h1, h2, h3, h4, h5, h6, h7, h8, h9, h10, h11⟩ := coldState_bounded false State.reset
  exact ⟨h1, h2, h3, h4, h5, h6, h7, h8, ⟨rfl, rfl, rfl, rfl, rfl, rfl, rfl, rfl, rfl, rfl, rfl, fun _ => rfl⟩, h9, h10, h11⟩

end Sys2Proof.Machine
end

section
/-! Proofs: the state right after reset (R207). -/

namespace Sys2Proof.Machine

/-- Settles O4: every block of `State.reset` is its cold value, and its tables are empty. -/
theorem resetIsTheColdState : Obligations.ResetIsTheColdState := by
  refine ⟨rfl, ⟨rfl, rfl, rfl, rfl⟩, fun _ => ⟨rfl, rfl, rfl⟩, ⟨rfl, rfl, rfl⟩, rfl, fun _ => ⟨rfl, rfl, rfl⟩, rfl, rfl,
    fun _ => rfl, rfl, fun _ => rfl, fun _ => ⟨rfl, rfl, rfl, rfl, rfl, rfl, rfl, rfl⟩, fun _ => rfl, fun id => ?_,
    fun _ => ⟨rfl, rfl, rfl, rfl, rfl, rfl, rfl, rfl, rfl, rfl⟩, fun _ => ⟨rfl, rfl, rfl, rfl, rfl, fun _ => rfl⟩,
    fun _ => ⟨rfl, rfl, rfl, rfl, rfl, rfl, rfl⟩, fun _ => rfl⟩
  have h : State.reset.ribbon id = Ribbon.cold := by cases id <;> rfl
  rw [h]
  exact ⟨rfl, rfl, rfl, rfl, rfl, rfl, rfl, rfl, rfl, rfl, rfl, rfl, rfl, rfl, rfl, rfl⟩

end Sys2Proof.Machine
end

section
/-! Proofs: the checks of the feed requests, and what LIST and DELIST do (R25, R31 to R38, R42, R43). -/

namespace Sys2Proof.Machine

/-! ### Symbols and the directory (0.4.5, R25, R26) -/

theorem isCapital_iff (c : Char) : isCapital c = true ↔ 'A' ≤ c ∧ c ≤ 'Z' := by
  simp [isCapital, Char.le_def, UInt32.le_iff_toNat_le]

/-- R32: the form check is the symbol form of the statements. -/
theorem symbolForm_iff (t : Text) : symbolForm t = true ↔ isSymbol t := by
  simp only [symbolForm, isSymbol, ← isCapital_iff, Bool.and_eq_true, decide_eq_true_eq]
  constructor
  · rintro ⟨⟨h1, h5⟩, hrest⟩
    refine ⟨t.takeWhile isCapital, t.dropWhile isCapital, List.takeWhile_append_dropWhile.symm, h1, h5,
      fun c hc => List.mem_takeWhile_imp hc, ?_⟩
    split at hrest
    · next e => exact .inl e
    · next c e => exact .inr ⟨c, e, hrest⟩
    · cases hrest
  · rintro ⟨letters, tail, rfl, h1, h5, hcap, htail⟩
    have stop : tail.takeWhile isCapital = [] ∧ tail.dropWhile isCapital = tail := by
      rcases htail with rfl | ⟨c, rfl, -⟩
      · exact ⟨rfl, rfl⟩
      · have dot : isCapital '.' = false := by decide
        simp [dot]
    rw [List.takeWhile_append_of_pos hcap, List.dropWhile_append_of_pos hcap, stop.1, stop.2, List.append_nil]
    refine ⟨⟨h1, h5⟩, ?_⟩
    rcases htail with rfl | ⟨c, rfl, hc⟩
    · rfl
    · exact hc

/-- R26: a symbol is found exactly when it stands in the directory. -/
theorem lookup_isSome_iff (sym : Text) (d : List (Text × Nat)) : (lookup sym d).isSome = true ↔ ∃ i, (sym, i) ∈ d := by
  induction d with
  | nil => simp [lookup]
  | cons p d ih =>
    obtain ⟨t, j⟩ := p
    rw [lookup]
    split_ifs with h
    · exact ⟨fun _ => ⟨j, by simp [h]⟩, fun _ => rfl⟩
    · rw [ih]
      exact exists_congr fun i => by simp [Ne.symm h]

/-- R42: some HELD slot names an instrument. -/
theorem heldInstrument_iff (i : Nat) (s : State) :
    heldInstrument i s = true ↔ ∃ w h, w < 4 ∧ (s.window w).slot = some h ∧ h.index = i := by
  simp only [heldInstrument, windowNos, List.any_eq_true, List.mem_range]
  refine exists_congr fun w => ?_
  cases (s.window w).slot with
  | none => simp
  | some h => simp

/-! ### The checks of each rule (TABLE 2-2) -/

theorem tradeRule_refused (b : TradeBody) (s : State) :
    (1023 < b.index → tradeRule b s = Served.refuse .range s) ∧
    (b.index ≤ 1023 → (s.entry b.index).status = .free → tradeRule b s = Served.refuse .unknown s) ∧
    (b.index ≤ 1023 → (s.entry b.index).status = .halted → tradeRule b s = Served.refuse .halted s) ∧
    (b.index ≤ 1023 → (s.entry b.index).status = .listed → s.session.state ≠ .opened →
      tradeRule b s = Served.refuse .session s) ∧
    (b.index ≤ 1023 → (s.entry b.index).status = .listed → s.session.state = .opened →
      (checkPrice (s.entry b.index).denom b.price = none ∨ checkSize b.size = none) →
      tradeRule b s = Served.refuse .range s) := by
  unfold tradeRule
  refine ⟨fun h => if_pos h, fun h hs => ?_, fun h hs => ?_, fun h hs hx => ?_, fun h hs hx hc => ?_⟩ <;>
    rw [if_neg (by omega)]
  · rw [if_pos hs]
  · rw [if_neg (by simp [hs]), if_pos hs]
  · rw [if_neg (by simp [hs]), if_neg (by simp [hs]), if_pos hx]
  · rw [if_neg (by simp [hs]), if_neg (by simp [hs]), if_neg (by simp [hx])]
    rcases hc with hc | hc <;> rw [hc]
    cases checkPrice (s.entry b.index).denom b.price <;> rfl

theorem ListBody.inRange_iff (b : ListBody) : b.inRange = true ↔ isSymbol b.symbol ∧
    (b.denom = 8 ∨ b.denom = 16 ∨ b.denom = 32 ∨ b.denom = 64) ∧ (b.lot = 10 ∨ b.lot = 100) ∧ b.cls ≤ 7 := by
  simp only [ListBody.inRange, Bool.and_eq_true, decide_eq_true_eq, symbolForm_iff, and_assoc]

theorem listRule_refused (b : ListBody) (s : State) :
    ((1023 < b.index ∨ ¬b.inRange = true) → listRule b s = Served.refuse .range s) ∧
    (b.index ≤ 1023 → b.inRange = true → (s.entry b.index).status ≠ .free → listRule b s = Served.refuse .state s) ∧
    (b.index ≤ 1023 → b.inRange = true → (s.entry b.index).status = .free → (lookup b.symbol s.directory).isSome = true →
      listRule b s = Served.refuse .duplicate s) := by
  unfold listRule
  refine ⟨fun h => ?_, fun h hr hs => ?_, fun h hr hs hd => ?_⟩
  · by_cases hi : 1023 < b.index
    · exact if_pos hi
    · rw [if_neg hi, if_pos (by simpa using h.resolve_left hi)]
  · rw [if_neg (by omega), if_neg (by simp [hr]), if_pos hs]
  · rw [if_neg (by omega), if_neg (by simp [hr]), if_neg (by simp [hs]), if_pos hd]

/-- R1, R3: a side that one of its checks refuses. -/
theorem checkSide_refused {denom : Nat} {y : Side} (h : checkPrice denom y.price = none ∨ checkSize y.size = none) :
    checkSide denom (some y) = none := by
  unfold checkSide
  rcases h with h | h <;> simp only [h]
  cases checkPrice denom y.price <;> rfl

theorem quoteRule_refused (b : QuoteBody) (s : State) :
    (1023 < b.index → quoteRule b s = Served.refuse .range s) ∧
    (b.index ≤ 1023 → (s.entry b.index).status = .free → quoteRule b s = Served.refuse .unknown s) ∧
    (b.index ≤ 1023 → (s.entry b.index).status ≠ .free →
      (checkSide (s.entry b.index).denom b.bid = none ∨ checkSide (s.entry b.index).denom b.ask = none) →
      quoteRule b s = Served.refuse .range s) := by
  unfold quoteRule
  refine ⟨fun h => if_pos h, fun h hs => ?_, fun h hs hc => ?_⟩ <;> rw [if_neg (by omega)]
  · rw [if_pos hs]
  · rw [if_neg hs]
    rcases hc with hc | hc <;> rw [hc]
    cases checkSide (s.entry b.index).denom b.bid <;> rfl

theorem closeSetRule_refused (i : Nat) (close : Option Nat) (s : State) :
    (1023 < i → closeSetRule (i, close) s = Served.refuse .range s) ∧
    (i ≤ 1023 → (s.entry i).status = .free → closeSetRule (i, close) s = Served.refuse .unknown s) ∧
    (i ≤ 1023 → (s.entry i).status ≠ .free → (∃ p, close = some p ∧ checkPrice (s.entry i).denom p = none) →
      closeSetRule (i, close) s = Served.refuse .range s) := by
  unfold closeSetRule
  refine ⟨fun h => if_pos h, fun h hs => ?_, fun h hs ⟨p, hp, hc⟩ => ?_⟩ <;> dsimp only <;> rw [if_neg (by omega)]
  · rw [if_pos hs]
  · rw [if_neg hs, hp, checkClose, hc]
    rfl

theorem delistRule_refused (i : Nat) (s : State) :
    (1023 < i → delistRule i s = Served.refuse .range s) ∧
    (i ≤ 1023 → (s.entry i).status = .free → delistRule i s = Served.refuse .unknown s) ∧
    (i ≤ 1023 → (s.entry i).status ≠ .free → heldInstrument i s = true → delistRule i s = Served.refuse .state s) := by
  unfold delistRule
  refine ⟨fun h => if_pos h, fun h hs => ?_, fun h hs hh => ?_⟩ <;> rw [if_neg (by omega)]
  · rw [if_pos hs]
  · rw [if_neg hs, if_pos hh]

theorem haltRule_refused (i : Nat) (s : State) :
    (1023 < i → haltRule i s = Served.refuse .range s) ∧
    (i ≤ 1023 → (s.entry i).status ≠ .listed → haltRule i s = Served.refuse .state s) :=
  ⟨fun h => if_pos h, fun h hs => (if_neg (by omega)).trans (if_pos hs)⟩

theorem resumeRule_refused (i : Nat) (s : State) :
    (1023 < i → resumeRule i s = Served.refuse .range s) ∧
    (i ≤ 1023 → (s.entry i).status ≠ .halted → resumeRule i s = Served.refuse .state s) :=
  ⟨fun h => if_pos h, fun h hs => (if_neg (by omega)).trans (if_pos hs)⟩

/-- Settles O16: the checks of each rule, in the frame of a request that is REFUSED. -/
theorem feedChecksInOrder : Obligations.FeedChecksInOrder := by
  refine ⟨fun r rest s b h hb => ?_, fun r rest s b h hb => ?_, fun r rest s b h hb => ?_,
    fun r rest s i close h hb => ?_, fun r rest s i hb => ?_⟩
  · obtain ⟨range, unknown, halted, session, figures⟩ := tradeRule_refused b (beginService r rest s)
    exact ⟨fun h1 => act_of_refused h hb (range h1), fun h1 h2 => act_of_refused h hb (unknown h1 h2),
      fun h1 h2 => act_of_refused h hb (halted h1 h2), fun h1 h2 h3 => act_of_refused h hb (session h1 h2 h3),
      fun h1 h2 h3 h4 => act_of_refused h hb (figures h1 h2 h3 h4)⟩
  · obtain ⟨range, state, duplicate⟩ := listRule_refused b (beginService r rest s)
    rw [b.inRange_iff] at range state duplicate
    exact ⟨fun h1 => act_of_refused h hb (range h1), fun h1 h2 h3 => act_of_refused h hb (state h1 h2 h3),
      fun h1 h2 h3 h4 => act_of_refused h hb (duplicate h1 h2 h3 ((lookup_isSome_iff ..).2 h4))⟩
  · obtain ⟨range, unknown, figures⟩ := quoteRule_refused b (beginService r rest s)
    have bad : ∀ {d : Nat} {x : Option Side},
        (∃ y, x = some y ∧ (checkPrice d y.price = none ∨ checkSize y.size = none)) → checkSide d x = none := by
      rintro d x ⟨y, rfl, hy⟩; exact checkSide_refused hy
    exact ⟨fun h1 => act_of_refused h hb (range h1), fun h1 h2 => act_of_refused h hb (unknown h1 h2),
      fun h1 h2 h3 => act_of_refused h hb (figures h1 h2 (h3.imp bad bad))⟩
  · obtain ⟨range, unknown, figures⟩ := closeSetRule_refused i close (beginService r rest s)
    exact ⟨fun h1 => act_of_refused h hb (range h1), fun h1 h2 => act_of_refused h hb (unknown h1 h2),
      fun h1 h2 h3 => act_of_refused h hb (figures h1 h2 h3)⟩
  · obtain ⟨dRange, dUnknown, dState⟩ := delistRule_refused i (beginService r rest s)
    obtain ⟨hRange, hState⟩ := haltRule_refused i (beginService r rest s)
    obtain ⟨rRange, rState⟩ := resumeRule_refused i (beginService r rest s)
    refine ⟨?_, fun h h1 h2 => act_of_refused h hb (dUnknown h1 h2),
      fun h h1 h2 h3 => act_of_refused h hb (dState h1 h2 ((heldInstrument_iff ..).2 h3)),
      fun h h1 h2 => act_of_refused h hb (hState h1 h2), fun h h1 h2 => act_of_refused h hb (rState h1 h2)⟩
    rintro k (rfl | rfl | rfl) h h1
    · exact act_of_refused h hb (dRange h1)
    · exact act_of_refused h hb (hRange h1)
    · exact act_of_refused h hb (rRange h1)

end Sys2Proof.Machine
end

section
/-! Proofs: what an accepted LIST and DELIST do (R25, R32, R43, R161). -/

namespace Sys2Proof.Machine

/-! ### LIST (R25, R32) -/

/-- R25, R32: the effect of an accepted LIST. -/
theorem listInstrument_spec (b : ListBody) (s : State) (hd : lookup b.symbol s.directory = none) :
    let v := listInstrument b s
    v = { s with entries := v.entries, queues := v.queues, directory := v.directory } ∧
      v.entry b.index = (s.entry b.index).listed b s.dayNumber ∧ (∀ j, j ≠ b.index → v.entry j = s.entry j) ∧
      Offered (s.entry b.index).cells s v ∧
      ∃ before after, s.directory = before ++ after ∧ v.directory = before ++ (b.symbol, b.index) :: after ∧
        (s.directoryRising → (∀ p ∈ before, symbolBelow p.1 b.symbol) ∧ ∀ p ∈ after, symbolBelow b.symbol p.1) := by
  intro v
  obtain ⟨a, ha⟩ : ∃ a, a = (s.setEntry b.index ((s.entry b.index).listed b s.dayNumber)).setDirectory
    (insertSymbol b.symbol b.index s.directory) := ⟨_, rfl⟩
  obtain ⟨hcells, hframe⟩ := fanCells_spec b.index a
  have hv : v = fanCells b.index a := by rw [ha]; rfl
  rw [← hv] at hcells hframe
  have same : a.entry b.index = (s.entry b.index).listed b s.dayNumber := by
    rw [ha, State.setDirectory_entry]; exact State.entry_setEntry_same ..
  have other : ∀ j, j ≠ b.index → a.entry j = s.entry j := fun j hj => by
    rw [ha, State.setDirectory_entry]; exact State.entry_setEntry_other _ hj _
  have entries : ∀ j, v.entry j = a.entry j := entry_of_entries (by rw [hframe])
  refine ⟨by rw [hframe, ha]; rfl, (entries _).trans same, fun j hj => (entries j).trans (other j hj), ?_, ?_⟩
  · rw [same] at hcells
    exact hcells.of_eq (by rw [ha]; rfl) (by rw [ha]; rfl) rfl
  · obtain ⟨before, after, h1, h2, h3⟩ := insertSymbol_spec b.symbol b.index s.directory hd
    exact ⟨before, after, h1, by rw [← h2, hframe, ha]; rfl, h3⟩

/-- Settles O17: the effect (`listInstrument_spec`) in the frame of a request that is DONE. -/
theorem listMakesAnEntry : Obligations.ListMakesAnEntry := by
  intro r rest s b h hr hi hg hs hd
  have rule : listRule b (beginService r rest s) = Served.reply [] (listInstrument b (beginService r rest s)) := by
    unfold listRule
    rw [if_neg (by omega), if_neg (by simp [hg]), beginService_entry, if_neg (by simp [hs]),
      if_neg (by rw [show (beginService r rest s).directory = s.directory from rfl, hd]; decide)]
    rfl
  have spec := listInstrument_spec b (beginService r rest s) hd
  generalize listInstrument b (beginService r rest s) = v at rule spec
  obtain ⟨hf, he, ho, hc, hdir⟩ := spec
  have hl : v.link = (beginService r rest s).link := by rw [hf]
  refine ⟨_, act_of_done h hr rule (by rw [hl]), ?_, he, ho, hc.served, hdir⟩
  rw [hl, hf]; rfl

/-! ### A dropped instrument (R43, R161, R167, R169) -/

/-- The first place of a member. -/
theorem idxOf?_eq_some_iff_first {l : List Nat} {i k : Nat} :
    l.idxOf? i = some k ↔ l[k]? = some i ∧ ∀ j, j < k → l[j]? ≠ some i := by
  rw [List.idxOf?_eq_some_iff]
  constructor
  · rintro ⟨hk, e, first⟩
    refine ⟨by rw [List.getElem?_eq_getElem hk, e], fun j hj => ?_⟩
    rw [List.getElem?_eq_getElem (hj.trans hk)]
    exact fun h => first j hj (Option.some.inj h)
  · rintro ⟨e, first⟩
    obtain ⟨hk, e⟩ := List.getElem?_eq_some_iff.1 e
    refine ⟨hk, e, fun j hj h => first j hj ?_⟩
    rw [List.getElem?_eq_getElem (hj.trans hk), h]

/-- R43, R161: what removing an instrument does to a terminal. -/
theorem dropInstrument_spec (i : Nat) (t : Terminal) :
    let y := t.dropInstrument i
    y = { t with watchList := t.watchList.erase i, rows := y.rows } ∧ (i ∉ t.watchList → y = t) ∧
      ∀ k, t.watchList[k]? = some i → (∀ j, j < k → t.watchList[j]? ≠ some i) → ∀ row, row ∈ y.rows ↔
        row ∈ t.rows ∨ row < 12 ∧ k ≤ 12 * t.page + row ∧ (k < 12 * t.page ∨ 12 * t.page + row < t.watchList.length) := by
  intro y
  have hy : y = match t.watchList.idxOf? i with
      | some k => Terminal.markFrom k t.watchList.length { t with watchList := t.watchList.eraseIdx k }
      | none => t := by
    rw [← placeOf_eq]; rfl
  have herase := List.erase_eq_eraseIdx t.watchList i
  cases hk : t.watchList.idxOf? i with
  | none =>
    rw [hk] at hy herase
    have hy : y = t := hy
    have hnone : ∀ k, t.watchList[k]? ≠ some i := fun k e => by
      have hm : i ∈ t.watchList := List.mem_of_getElem? e
      rw [List.idxOf?_eq_none_iff] at hk
      exact hk hm
    exact ⟨by rw [herase, hy], fun _ => hy, fun k e => absurd e (hnone k)⟩
  | some k =>
    rw [hk] at hy herase
    have hy : y = Terminal.markFrom k t.watchList.length { t with watchList := t.watchList.eraseIdx k } := hy
    obtain ⟨e, first⟩ := idxOf?_eq_some_iff_first.1 hk
    refine ⟨by rw [herase, hy]; rfl, fun hi => absurd (List.mem_of_getElem? e) hi, fun k' e' first' row => ?_⟩
    obtain rfl : k = k' := Option.some.inj (hk.symm.trans (idxOf?_eq_some_iff_first.2 ⟨e', first'⟩))
    rw [hy, mem_markFrom]

/-- R43, step 2: an alert made EMPTY if it names an instrument. -/
def Alert.without (i : Nat) (a : Alert) : Alert := if a.instrument = some i then Alert.cold else a

theorem Alert.without_without (i : Nat) (a : Alert) : (a.without i).without i = a.without i := by
  by_cases h : a.instrument = some i
  · rw [show a.without i = Alert.cold from if_pos h]; rfl
  · rw [show a.without i = a from if_neg h, show a.without i = a from if_neg h]

/-- R43, step 2: the alerts of a terminal that name an instrument made EMPTY, and nothing else of it changed. -/
theorem dropAlerts_spec (i : Nat) (t : Terminal) :
    t.dropAlerts i = { t with alerts := (t.dropAlerts i).alerts } ∧
      ∀ k, k < 4 → (t.dropAlerts i).alert k = (t.alert k).without i := by
  have one : ∀ (t : Terminal) (n k : Nat),
      (if (t.alert n).instrument = some i then t.setAlert n Alert.cold else t).alert k =
        if k = n then (t.alert k).without i else t.alert k := by
    intro t n k
    unfold Alert.without
    by_cases e : k = n
    · subst e
      rw [if_pos rfl]
      split_ifs
      · exact Table.get_set_same Alert.cold t.alerts k Alert.cold
      · rfl
    · rw [if_neg e]
      split_ifs
      · exact Table.get_set_other Alert.cold t.alerts e Alert.cold
      · rfl
  have all : ∀ (l : List Nat) (t : Terminal),
      let u := l.foldl (fun t n => if (t.alert n).instrument = some i then t.setAlert n Alert.cold else t) t
      u = { t with alerts := u.alerts } ∧ ∀ k, u.alert k = if k ∈ l then (t.alert k).without i else t.alert k := by
    intro l
    induction l with
    | nil => exact fun t => ⟨rfl, fun k => by simp⟩
    | cons n l ih =>
      intro t
      obtain ⟨h1, h2⟩ := ih (if (t.alert n).instrument = some i then t.setAlert n Alert.cold else t)
      refine ⟨?_, fun k => ?_⟩
      · rw [List.foldl_cons, h1]
        split_ifs <;> rfl
      · rw [List.foldl_cons, h2, one]
        by_cases e : k = n <;> simp [e, Alert.without_without]
  obtain ⟨h1, h2⟩ := all (List.range 4) t
  exact ⟨h1, fun k hk => by rw [Terminal.dropAlerts, h2]; simp [hk]⟩

/-! ### DELIST (R43) -/

/-- R43: some cells unbound and offered. -/
theorem unbindAll_spec (cells : List Nat) (s : State) :
    let u := forEach cells unbindOffer s
    Offered cells s u ∧
      (∀ c, u.cell c = if c ∈ cells then { (s.cell c).fresh with binding := none } else s.cell c) ∧
      u = { s with cells := u.cells, queues := u.queues } := by
  induction cells generalizing s with
  | nil => exact ⟨.refl s _ rfl, fun c => rfl, rfl⟩
  | cons d l ih =>
    obtain ⟨h1, h2, h3⟩ := ih (unbindOffer d s)
    have hcell : ∀ c, (unbindOffer d s).cell c =
        if c = d then { (s.cell c).fresh with binding := none } else s.cell c := by
      intro c
      rw [show (unbindOffer d s).cell c = (unbindRecord d s).cell c from cell_of_cells (cells_offerCell ..) c]
      by_cases e : c = d
      · subst e; simp [unbindRecord]
      · rw [unbindRecord, State.cell_setCell_other _ e, if_neg e]
    have flags : ∀ c, ((unbindOffer d s).cell c).needsFull = (s.cell c).needsFull := by
      intro c; rw [hcell]; split <;> rfl
    have one : Offered [d] s (unbindOffer d s) := by
      refine (offered_offerCell d (unbindRecord d s)).of_flags (fun c => ?_) rfl rfl
      rw [← flags, show (unbindOffer d s).cell c = (unbindRecord d s).cell c from cell_of_cells (cells_offerCell ..) c]
    rw [forEach_cons]
    refine ⟨one.append_of_flags h1 flags, fun c => ?_, ?_⟩
    · rw [h2, hcell]
      by_cases e : c = d
      · simp [e, Cell.fresh]
      · simp [e]
    · rw [h3]
      unfold unbindOffer
      rcases offerCell_cases false d (unbindRecord d s) with ⟨-, h⟩ | ⟨-, -, h⟩ | ⟨-, -, -, h⟩ <;> rw [h] <;> rfl

/-- R43: the effect of an accepted DELIST, with the terminals' part as its two steps leave it. -/
theorem delistInstrument_spec (i : Nat) (s : State) :
    let v := delistInstrument i s
    v = { s with
        entries := v.entries, queues := v.queues, cells := v.cells, terms := v.terms
        directory := s.directory.filter (fun p => decide (p.2 ≠ i)) } ∧
      v.entry i = { s.entry i with status := .free, cells := [], watchers := 0 } ∧
      (∀ j, j ≠ i → v.entry j = s.entry j) ∧ Offered (s.entry i).cells s v ∧
      (∀ c, v.cell c = if c ∈ (s.entry i).cells then { (s.cell c).fresh with binding := none } else s.cell c) ∧
      ∀ n, v.term n = if n < 64 then ((s.term n).dropInstrument i).dropAlerts i else s.term n := by
  intro v
  obtain ⟨a, ha⟩ : ∃ a, a = dropFromTerminals i s := ⟨_, rfl⟩
  have fa : a = { s with terms := a.terms } := by
    rw [ha]; exact forEach_setTerm_frame (fun t => (t.dropInstrument i).dropAlerts i) termNos s
  have ta : ∀ n, a.term n = if n < 64 then ((s.term n).dropInstrument i).dropAlerts i else s.term n := fun n => by
    rw [ha]
    exact (term_forEach_setTerm (fun t => (t.dropInstrument i).dropAlerts i) termNos List.nodup_range s n).trans
      (by simp only [termNos, List.mem_range])
  have ea : ∀ j, a.entry j = s.entry j := entry_of_entries (by rw [fa])
  obtain ⟨w, hw⟩ : ∃ w, w = forEach (s.entry i).cells unbindOffer a := ⟨_, rfl⟩
  obtain ⟨hoff, hcell, fw⟩ := unbindAll_spec (s.entry i).cells a
  rw [← hw] at hoff hcell fw
  have ew : ∀ j, w.entry j = s.entry j := fun j => (entry_of_entries (by rw [fw]) j).trans (ea j)
  have hv : v = (w.setEntry i { w.entry i with cells := [], watchers := 0, status := .free }).setDirectory
      (removeIndex i w.directory) := by
    rw [hw, ← ea i, ha]; rfl
  refine ⟨?_, ?_, fun j hj => ?_, ?_, fun c => ?_, fun n => ?_⟩
  · rw [hv, fw, fa]; rfl
  · rw [hv, ← ew i]; exact State.entry_setEntry_same ..
  · rw [hv, ← ew j]; exact State.entry_setEntry_other _ hj _
  · exact hoff.of_eq (by rw [fa]) (by rw [fa]) (by rw [hv]; rfl)
  · have : v.cell c = w.cell c := cell_of_cells (by rw [hv]; rfl) c
    rw [this, hcell, cell_of_cells (show a.cells = s.cells by rw [fa])]
  · have h1 : v.terms = w.terms := by rw [hv]; rfl
    have h2 : w.terms = a.terms := by rw [fw]
    rw [term_of_terms (h1.trans h2), ta]

/-- Settles O18: the effect (`delistInstrument_spec`) in the frame of a request that is DONE; of each terminal, what its two
steps do (`dropInstrument_spec`, `dropAlerts_spec`). -/
theorem delistCascade : Obligations.DelistCascade := by
  intro r rest s i h hr hi hs hheld
  have free : heldInstrument i (beginService r rest s) = false := by
    rw [← Bool.not_eq_true, heldInstrument_iff]
    rintro ⟨w, x, hw, hx, rfl⟩
    exact hheld w x hw hx rfl
  have rule : delistRule i (beginService r rest s) = Served.reply [] (delistInstrument i (beginService r rest s)) := by
    unfold delistRule
    rw [if_neg (by omega), beginService_entry, if_neg hs, if_neg (by simp [free])]
    rfl
  have spec := delistInstrument_spec i (beginService r rest s)
  generalize delistInstrument i (beginService r rest s) = v at rule spec
  simp only [beginService_entry, beginService_cell, beginService_term] at spec
  obtain ⟨hf, he, ho, hc, hcell, hterm⟩ := spec
  have hl : v.link = (beginService r rest s).link := by rw [hf]
  refine ⟨_, act_of_done h hr rule (by rw [hl]), ?_, he, ho, fun c hm => ?_, fun c hm => ?_, hc.served, fun n hn => ?_,
    fun n hn => ?_⟩
  · rw [hl, hf]; rfl
  · exact (hcell c).trans (if_pos hm)
  · exact (hcell c).trans (if_neg hm)
  · intro x y
    have hy : y = (x.dropInstrument i).dropAlerts i := (hterm n).trans (if_pos hn)
    obtain ⟨hdrop, absent, marked⟩ := dropInstrument_spec i x
    obtain ⟨hempty, alerts⟩ := dropAlerts_spec i (x.dropInstrument i)
    have rows : y.rows = (x.dropInstrument i).rows := by rw [hy, hempty]
    have hx : ∀ k, (x.dropInstrument i).alert k = x.alert k := fun k => by rw [hdrop]; rfl
    refine ⟨?_, fun hn => by rw [rows, absent hn], fun row hrow => ?_, fun k hk first row h1 h2 h3 => ?_,
      fun k hk first row hrow => ?_, fun k hk => by rw [hy, alerts k hk, hx]; rfl⟩
    · rw [rows, hy, hempty, hdrop]
    · rw [rows]
      by_cases hm : i ∈ x.watchList
      · obtain ⟨k, hk⟩ := Option.isSome_iff_exists.1 (List.isSome_idxOf?.2 hm)
        obtain ⟨e, first⟩ := idxOf?_eq_some_iff_first.1 hk
        exact (marked k e first row).2 (.inl hrow)
      · rw [absent hm]; exact hrow
    · rw [rows, marked k hk first]
      exact .inr ⟨h1, h2, .inr h3⟩
    · rw [rows, marked k hk first] at hrow
      exact hrow.imp id fun ⟨h1, h2, _⟩ => ⟨h1, h2⟩
  · exact (hterm n).trans (if_neg (by omega))

end Sys2Proof.Machine
end

section
/-! Proofs: the roll walk (R28, R29). -/

namespace Sys2Proof.Machine

/-- R27: when an entry is stale. -/
theorem stale_iff (day : Nat) (e : Entry) : e.stale day = true ↔ e.status ≠ .free ∧ e.dayStamp ≠ day := by
  simp [Entry.stale]

/-- R28, R30: the entry at an index as a reader finds it, its figures written out. -/
theorem current_eq (i : Nat) (s : State) : s.current i =
    if (s.entry i).status ≠ .free ∧ (s.entry i).dayStamp ≠ s.dayNumber then
      { s.entry i with
        prevClose := if (s.entry i).last = none then (s.entry i).prevClose else (s.entry i).last
        last := none, opening := none, high := none, low := none, bid := none, ask := none
        dayVolume := 0, lastSize := 0, tick := .none, firstPending := true, dayStamp := s.dayNumber }
    else s.entry i := by
  unfold State.current
  simp only [stale_iff]
  congr 1
  cases h : (s.entry i).last <;> simp [Entry.rolled, h]

/-- R29: a visit reads the entry at the position, and moves the walk on or ends it. -/
theorem walkVisit_spec {s : State} (h : s.walkActive = true) :
    let u := walkVisit s
    let t := touch s.walkPos s
    u = { t with walkActive := u.walkActive, walkPos := u.walkPos, free := u.free } ∧
      (s.walkPos < 1023 → u.walkActive = true ∧ u.walkPos = s.walkPos + 1) ∧ (1023 ≤ s.walkPos → u.walkActive = false) := by
  intro u t
  have hu : u = if s.walkPos < 1023 then t.setWalk true (s.walkPos + 1) else endWalk t := if_pos h
  by_cases hp : s.walkPos < 1023
  · rw [hu, if_pos hp]
    exact ⟨rfl, fun _ => ⟨rfl, rfl⟩, fun h => absurd hp (by omega)⟩
  · rw [hu, if_neg hp]
    exact ⟨rfl, fun h => absurd h hp, fun _ => rfl⟩

/-- Settles O23: the entry is read (`touch_read`), and the walk moves on. -/
theorem rollWalkVisit : Obligations.RollWalkVisit := by
  intro s hreset hwalk e
  obtain ⟨hu, hnext, hend⟩ := walkVisit_spec hwalk
  have hread := touch_read s.walkPos s
  refine ⟨walkVisit s, act_of_released hreset _, ?_, ?_, fun j hj => ?_, fun h1 h2 => ⟨?_, ?_⟩, fun hs => ?_, hnext, hend⟩
  · rw [hu, hread.frame]
  · rw [entry_of_entries (show (walkVisit s).entries = (touch s.walkPos s).entries by rw [hu]), hread.entry, current_eq]
  · rw [entry_of_entries (show (walkVisit s).entries = (touch s.walkPos s).entries by rw [hu]), hread.others j hj]
  · exact (hread.cells ((stale_iff ..).2 ⟨h1, h2⟩)).of_eq rfl rfl (by rw [hu])
  · exact (hread.rows ((stale_iff ..).2 ⟨h1, h2⟩)).to_eq (by rw [hu])
  · have fresh : e.stale s.dayNumber = false := by
      rw [← Bool.not_eq_true, stale_iff]
      rintro ⟨h1, h2⟩
      exact hs.elim h1 h2
    rw [hu, hread.fresh fresh]
    exact ⟨rfl, rfl⟩

end Sys2Proof.Machine
end

section
/-! Proofs: SESSION-SET (R55 to R58, R107, R109, R115, R120, R151). -/

namespace Sys2Proof.Machine

/-! ### The same change of each of several objects -/

/-- Each object of a list without repetitions changed by `g`, the others kept. -/
theorem read_forEach {β : Type} (read : State → Nat → β) (g : β → β) {f : Nat → State → State}
    (same : ∀ n s, read (f n s) n = g (read s n)) (other : ∀ n s m, m ≠ n → read (f n s) m = read s m) (l : List Nat)
    (hl : l.Nodup) (s : State) (m : Nat) : read (forEach l f s) m = if m ∈ l then g (read s m) else read s m := by
  induction l generalizing s with
  | nil => simp
  | cons n l ih =>
    obtain ⟨hn, hl⟩ := List.nodup_cons.1 hl
    rw [forEach_cons, ih hl]
    by_cases e : m = n
    · subst e; simp [hn, same]
    · simp [e, other n s m e]

/-! ### The board lines and the terminals (R107, R109, R151) -/

/-- R107: the line after the entry into AFTER. -/
def BoardLine.timed (l : BoardLine) : BoardLine :=
  if l.state = .lit ∧ l.darkDelay ≠ 0 then { l with darkTimer := some (l.darkDelay * 60) } else l

/-- R109: the line after the entry into PRE_OPEN. -/
def BoardLine.woken (l : BoardLine) : BoardLine :=
  if l.state ≠ .off then { l with state := .lit, darkTimer := none } else l

theorem line_startDarkTimers (s : State) {m : Nat} (hm : m < 8) : (startDarkTimers s).line m = (s.line m).timed := by
  refine (read_forEach State.line BoardLine.timed (fun n s => ?_) (fun n s m h => ?_) lineNos List.nodup_range s m).trans
    (if_pos (List.mem_range.2 hm))
  · unfold BoardLine.timed
    split_ifs
    · exact State.line_setLine_same ..
    · rfl
  · split_ifs
    · exact State.line_setLine_other _ h _
    · rfl

theorem line_wakeLine (n : Nat) (s : State) (m : Nat) :
    (wakeLine n s).line m = (s.setLine n { s.line n with state := .lit, darkTimer := none }).line m := by
  rw [wakeLine, forEach_offerCell_frame]; rfl

theorem line_wakeLines (s : State) {m : Nat} (hm : m < 8) : (wakeLines s).line m = (s.line m).woken := by
  refine (read_forEach State.line BoardLine.woken (fun n s => ?_) (fun n s m h => ?_) lineNos List.nodup_range s m).trans
    (if_pos (List.mem_range.2 hm))
  · unfold BoardLine.woken
    cases h : (s.line n).state with
    | dark => rw [line_wakeLine, State.line_setLine_same]; rfl
    | lit => rw [State.line_setLine_same, if_pos (by decide), ← h]
    | off => rfl
  · cases (s.line n).state with
    | dark => rw [line_wakeLine, State.line_setLine_other _ h]
    | lit => exact State.line_setLine_other _ h _
    | off => rfl

/-- R107, R109: the lines after a transition. -/
theorem line_boardsOnSession (tgt : SessionState) (s : State) {m : Nat} (hm : m < 8) : (boardsOnSession tgt s).line m =
    if tgt = .after ∧ (s.line m).state = .lit ∧ (s.line m).darkDelay ≠ 0 then
      { s.line m with darkTimer := some ((s.line m).darkDelay * 60) }
    else if tgt = .preOpen ∧ (s.line m).state ≠ .off then { s.line m with state := .lit, darkTimer := none }
    else s.line m := by
  cases tgt with
  | after => simpa [boardsOnSession, BoardLine.timed] using line_startDarkTimers s hm
  | preOpen => simpa [boardsOnSession, BoardLine.woken] using line_wakeLines s hm
  | closed => simp [boardsOnSession]
  | opened => simp [boardsOnSession]
  | haltedAll => simp [boardsOnSession]

theorem queues_boardsOnSession {tgt : SessionState} (h : tgt ≠ .preOpen) (s : State) :
    (boardsOnSession tgt s).queues = s.queues := by
  cases tgt with
  | after => rw [boardsOnSession, startDarkTimers_frame]
  | preOpen => exact absurd rfl h
  | closed => rfl
  | opened => rfl
  | haltedAll => rfl

/-- R151: the terminals after a transition. -/
theorem term_oweStatus (s : State) {k : Nat} (hk : k < 64) :
    (oweStatus s).term k = { s.term k with statusOwed := (s.term k).statusOwed || (s.term k).served } := by
  refine (read_forEach State.term (fun t => { t with statusOwed := t.statusOwed || t.served }) (fun n s => ?_)
    (fun n s m h => ?_) termNos List.nodup_range s k).trans (if_pos (List.mem_range.2 hk))
  · cases h : (s.term n).served with
    | true => simp
    | false => simp
  · split_ifs
    · exact State.term_setTerm_other _ h _
    · rfl

/-! ### The ribbons (R115, R116, R120, R132) -/

/-- R124: the notices of changes of mode depend on the modes alone. -/
theorem modeNotices_of_modes {s s' u u' : State} (hs : ∀ id, (s'.ribbon id).mode = (s.ribbon id).mode)
    (hu : ∀ id, (u'.ribbon id).mode = (u.ribbon id).mode) : modeNotices s' u' = modeNotices s u := by
  simp only [modeNotices, hs, hu]

theorem modeNotices_self (s : State) : modeNotices s s = [] := by simp [modeNotices]

/-- R120: the offers of a transition's banner, if it has one. -/
theorem offerBanner_noticed (left entered : SessionState) (s : State) :
    let u := offerBanner left entered s
    Noticed (modeNotices s u) s u ∧ s.onlyCounted u [.rbDropped, .rbModeRises] ∧ u = { s with
      ribbonA := u.ribbonA, ribbonB := u.ribbonB, counters := u.counters
      link := { s.link with notices := u.link.notices } } := by
  intro u
  cases h : bannerFor left entered with
  | none =>
    have hu : u = s := by simp only [u, offerBanner, h]
    rw [hu, modeNotices_self]
    exact ⟨.refl s, fun _ _ => rfl, rfl⟩
  | some b =>
    have clock : (offerPrint .a (.banner b) s.clock.second s).clock = s.clock := by
      rw [(offerPrint_offered .a (.banner b) s.clock.second s).1.frame]
    have hu : u = offerPrint .b (.banner b) s.clock.second (offerPrint .a (.banner b) s.clock.second s) := by
      simp only [u, offerBanner, h, ribbonIds, forEach_cons, forEach_nil]
      rw [clock]
    obtain ⟨-, hn, hc, hf⟩ := offers_spec (fun _ => true) (.banner b) s
    simp only [if_true, ← hu] at hn hc hf
    exact ⟨hn, hc, hf⟩

/-- R115: a ribbon starts at the entry into a session state with nothing in its FIFO and something in its queue. -/
def startsEmpty (entered : SessionState) (r : Ribbon) : Bool :=
  decide (entered = .preOpen) && decide (r.state = .stopped) && r.fifo.isEmpty && !r.queue.isEmpty

/-- R132, R133: a start of a ribbon advances Rb_underrun when its FIFO is empty and its queue is not. -/
theorem startRibbon_underrun (id : RibbonId) (s : State) : s.advancedBy (startRibbon id s) .rbUnderrun
    (if (s.ribbon id).fifo.isEmpty && !(s.ribbon id).queue.isEmpty then 1 else 0) := by
  unfold startRibbon periodStart
  simp only [State.ribbon_setRibbon_same]
  cases hf : (s.ribbon id).fifo with
  | cons c rest => simp [State.advancedBy]
  | nil => cases hq : (s.ribbon id).queue <;> simp [State.advancedBy, State.counter_count_same, Config.maxCounter]

/-- R115, R116: a hand-off to one ribbon keeps its mode, and counts its underrun. -/
theorem ribbonOnSession_counted (entered : SessionState) (id : RibbonId) (s : State) :
    ((ribbonOnSession entered id s).ribbon id).mode = (s.ribbon id).mode ∧
      s.advancedBy (ribbonOnSession entered id s) .rbUnderrun (if startsEmpty entered (s.ribbon id) then 1 else 0) := by
  unfold ribbonOnSession
  by_cases h : entered = .preOpen ∧ (s.ribbon id).state = .stopped
  · rw [if_pos h]
    refine ⟨by rw [startRibbon_spec], ?_⟩
    simpa [startsEmpty, h.1, h.2] using startRibbon_underrun id s
  · have stands : startsEmpty entered (s.ribbon id) = false := by
      simp only [startsEmpty, Bool.and_eq_false_iff, decide_eq_false_iff_not]
      exact .inl (.inl (not_and_or.1 h))
    have same : (s.ribbon id).mode = (s.ribbon id).mode ∧ s.advancedBy s .rbUnderrun 0 := ⟨rfl, State.advancedBy_zero rfl⟩
    rw [if_neg h, stands, if_neg Bool.false_ne_true]
    by_cases hc : closedOrAfter entered = true
    · rw [if_pos hc, stopTest]
      by_cases hm : mayStop id s = true
      · rw [if_pos hm]
        exact ⟨by rw [State.ribbon_setRibbon_same], State.advancedBy_zero (counter_of_counters (by simp) _)⟩
      · rw [if_neg hm]; exact same
    · rw [if_neg hc]; exact same

/-- R115, R116: the hand-off to both ribbons keeps their modes, and counts the underruns of those that start. -/
theorem ribbonsOnSession_counted (entered : SessionState) (s : State) :
    let u := forEach ribbonIds (ribbonOnSession entered) s
    (∀ id, (u.ribbon id).mode = (s.ribbon id).mode) ∧
      s.advancedBy u .rbUnderrun ([RibbonId.a, .b].countP (fun id => startsEmpty entered (s.ribbon id))) := by
  intro u
  have a := ownRibbonChanged_ribbonOnSession entered .a s
  have b := ownRibbonChanged_ribbonOnSession entered .b (ribbonOnSession entered .a s)
  obtain ⟨ma, ca⟩ := ribbonOnSession_counted entered .a s
  obtain ⟨mb, cb⟩ := ribbonOnSession_counted entered .b (ribbonOnSession entered .a s)
  have hb : (ribbonOnSession entered .a s).ribbon .b = s.ribbon .b := a.other .b (by decide)
  rw [hb] at mb cb
  refine ⟨fun id => ?_, ?_⟩
  · cases id with
    | a => exact (congrArg Ribbon.mode (b.other .a (by decide))).trans ma
    | b => exact mb
  · have hu : u = ribbonOnSession entered .b (ribbonOnSession entered .a s) := rfl
    rw [hu]
    simpa [List.countP_cons, Nat.add_comm] using State.advancedBy_trans ca cb

/-! ### The whole transition (R57) -/

/-- R27, R56: the day number and the roll walk after a transition. -/
theorem beginDay_frame (tgt : SessionState) (s : State) : (if tgt = .preOpen then beginDay s else s) = { s with
    dayNumber := if tgt = .preOpen then (s.dayNumber + 1) % 256 else s.dayNumber
    walkActive := if tgt = .preOpen then true else s.walkActive
    walkPos := if tgt = .preOpen then 0 else s.walkPos } := by
  split_ifs <;> rfl

/-- R57: a transition from the present state into a target. -/
theorem makeTransition_spec (tgt : SessionState) (s : State) :
    let u := makeTransition tgt s
    u = { s with
        session := { state := tgt, left := s.session.state, entered := tgt, second := s.clock.second }
        dayNumber := if tgt = .preOpen then (s.dayNumber + 1) % 256 else s.dayNumber
        walkActive := if tgt = .preOpen then true else s.walkActive
        walkPos := if tgt = .preOpen then 0 else s.walkPos
        lines := u.lines, queues := u.queues, ribbonA := u.ribbonA, ribbonB := u.ribbonB, terms := u.terms
        counters := u.counters, link := { s.link with notices := u.link.notices } } ∧
      Noticed (.session :: modeNotices s u) s u ∧ s.onlyCounted u [.rbDropped, .rbModeRises, .rbUnderrun] ∧
      s.advancedBy u .rbUnderrun ([RibbonId.a, .b].countP (fun id => startsEmpty tgt (s.ribbon id))) ∧
      (∀ k, k < 64 → u.term k = { s.term k with statusOwed := (s.term k).statusOwed || (s.term k).served }) ∧
      (∀ m, m < 8 → u.line m =
        if tgt = .after ∧ (s.line m).state = .lit ∧ (s.line m).darkDelay ≠ 0 then
          { s.line m with darkTimer := some ((s.line m).darkDelay * 60) }
        else if tgt = .preOpen ∧ (s.line m).state ≠ .off then { s.line m with state := .lit, darkTimer := none }
        else s.line m) ∧
      (tgt ≠ .preOpen → u.queues = s.queues) ∧
      (tgt = .preOpen → Forced (((List.range 8).filter (fun m => decide ((s.line m).state = .dark))).flatMap
        (fun m => liveCells m s)) s u) := by
  intro u
  obtain ⟨x, ex⟩ : ∃ x : Session, x = { state := tgt, left := s.session.state, entered := tgt, second := s.clock.second } :=
    ⟨_, rfl⟩
  -- the session, the day, the board lines, the banner, the ribbons, the terminals
  obtain ⟨a, ea⟩ : ∃ a, a = (s.setSession x).raise .session := ⟨_, rfl⟩
  obtain ⟨d, ed⟩ : ∃ d, d = if tgt = .preOpen then beginDay a else a := ⟨_, rfl⟩
  obtain ⟨t, et⟩ : ∃ t, t = boardsOnSession tgt d := ⟨_, rfl⟩
  obtain ⟨o, eo⟩ : ∃ o, o = offerBanner s.session.state tgt t := ⟨_, rfl⟩
  obtain ⟨v, ev⟩ : ∃ v, v = forEach ribbonIds (ribbonOnSession tgt) o := ⟨_, rfl⟩
  have hu : u = oweStatus v := by rw [ev, eo, et, ed, ea, ex]; rfl
  have fa : a = { s with session := x, link := { s.link with notices := a.link.notices } } := by
    rw [ea]
    rcases (s.setSession x).raise_cases .session with ⟨-, h⟩ | ⟨-, h⟩ <;> rw [h] <;> rfl
  have na : Noticed [.session] s a := by
    rw [ea]; exact (noticed_raise (s.setSession x) .session).of_notices rfl rfl
  have fd := beginDay_frame tgt a
  rw [← ed] at fd
  have ft := boardsOnSession_frame tgt d
  rw [← et] at ft
  obtain ⟨no, co, fo⟩ := offerBanner_noticed s.session.state tgt t
  rw [← eo] at no co fo
  obtain ⟨fv, cv, -⟩ := ribbonsOnSession_own tgt o
  obtain ⟨modes, under⟩ := ribbonsOnSession_counted tgt o
  rw [← ev] at fv cv modes under
  have fu := oweStatus_frame v
  rw [← hu] at fu
  have tr : ∀ id, t.ribbon id = s.ribbon id := ribbon_of_ribbons (by rw [ft, fd, fa]) (by rw [ft, fd, fa])
  have ur : ∀ id, u.ribbon id = v.ribbon id := ribbon_of_ribbons (by rw [fu]) (by rw [fu])
  have tc : ∀ c, t.counter c = s.counter c := counter_of_counters (by rw [ft, fd, fa])
  have uc : ∀ c, u.counter c = v.counter c := counter_of_counters (by rw [fu])
  have dl : ∀ m, d.line m = s.line m := fun m => by simp only [State.line]; rw [fd, fa]
  have dq : d.queues = s.queues := by rw [fd, fa]
  have uq : u.queues = t.queues := by rw [fu, fv, fo]
  refine ⟨?_, ?_, fun k hk => ?_, ?_, fun k hk => ?_, fun m hm => ?_, fun hne => ?_, fun he => ?_⟩
  · rw [fu, fv, fo, ft, fd, fa, ex]
  · have hmode : modeNotices s u = modeNotices t o :=
      modeNotices_of_modes (fun id => by rw [tr]) fun id => by rw [ur, modes]
    rw [hmode]
    have nt : Noticed [.session] s t := na.of_notices rfl (by rw [ft, fd])
    exact (nt.append no).of_notices rfl (by rw [fu, fv])
  · simp only [List.mem_cons, List.not_mem_nil, or_false, not_or] at hk
    rw [uc, cv k (by simpa using hk.2.2), co k (by simpa using ⟨hk.1, hk.2.1⟩), tc]
  · have before : o.counter .rbUnderrun = s.counter .rbUnderrun := (co .rbUnderrun (by decide)).trans (tc _)
    have same : [RibbonId.a, .b].countP (fun id => startsEmpty tgt (o.ribbon id)) =
        [RibbonId.a, .b].countP (fun id => startsEmpty tgt (s.ribbon id)) := by
      by_cases he : tgt = .preOpen
      · have hot : o = t := by rw [eo, offerBanner, he, bannerFor_preOpen]
        simp only [hot, tr]
      · simp [startsEmpty, he]
    unfold State.advancedBy at under ⊢
    rw [uc, under, same, before]
  · have hterm : v.term k = s.term k := term_of_terms (by rw [fv, fo, ft, fd, fa]) k
    rw [hu, term_oweStatus v hk, hterm]
  · have hline : u.line m = t.line m := by simp only [State.line]; rw [fu, fv, fo]
    rw [hline, et, line_boardsOnSession tgt d hm, dl]
  · rw [uq, et, queues_boardsOnSession hne, dq]
  · have hw : t = wakeLines d := by rw [et, he]; rfl
    have live : ∀ m, liveCells m d = liveCells m s := fun m => by simp only [liveCells, State.cell]; rw [fd, fa]
    have forced := wakeLines_forced d
    simp only [dl, live] at forced
    rw [← hw] at forced
    exact forced.of_queues dq.symm uq

/-! ### SESSION-SET (R58) -/

theorem legalTransition_iff (x y : SessionState) : legalTransition x y = true ↔ (x, y) ∈
    [(SessionState.closed, SessionState.preOpen), (.preOpen, .opened), (.preOpen, .closed), (.opened, .haltedAll),
     (.opened, .after), (.opened, .closed), (.haltedAll, .opened), (.haltedAll, .after), (.haltedAll, .closed),
     (.after, .preOpen), (.after, .closed)] := by
  cases x <;> cases y <;> decide

theorem legalTransition_self (x : SessionState) : legalTransition x x = false := by cases x <;> rfl

/-- R58: the cases in which a SESSION-SET makes no transition. -/
theorem sessionSetRule_refused (n : Nat) (s : State) :
    (4 < n → sessionSetRule n s = Served.refuse .range s) ∧
    ∀ tgt, sessionStateOf n = some tgt →
      (tgt = s.session.state → sessionSetRule n s = sessionDone s) ∧
      (tgt ≠ s.session.state → legalTransition s.session.state tgt = false →
        sessionSetRule n s = Served.refuse .state s) ∧
      (tgt ≠ s.session.state → tgt = .preOpen → s.walkActive = true → sessionSetRule n s = Served.refuse .state s) := by
  unfold sessionSetRule
  refine ⟨fun h => ?_, fun tgt ht => ⟨fun h => ?_, fun h hl => ?_, fun h hp hw => ?_⟩⟩
  · have none : sessionStateOf n = none := by simp [sessionStateOf]; omega
    rw [none]
  · rw [ht]; exact if_pos h
  · rw [ht]; dsimp only; rw [if_neg h, if_pos (by simp [hl])]
  · rw [ht]; dsimp only
    rw [if_neg h, if_pos (show tgt = .preOpen ∧ s.walkActive = true from ⟨hp, hw⟩), ite_self]

/-- Settles O24: the checks of the rule, and the effect of a transition (`makeTransition_spec`) in the frame of a request that
is DONE. -/
theorem sessionSetMakesATransition : Obligations.SessionSetMakesATransition := by
  refine ⟨legalTransition_iff, fun r rest s n h hr => ?_, fun r rest s n tgt h hr hn hl hw => ?_⟩
  · obtain ⟨range, cases⟩ := sessionSetRule_refused n (beginService r rest s)
    refine ⟨fun h1 => act_of_refused h hr (range h1), fun tgt ht => ?_⟩
    obtain ⟨equal, illegal, walking⟩ := cases tgt ht
    refine ⟨fun h1 => ?_, fun h1 h2 => act_of_refused h hr (illegal h1 h2),
      fun h1 h2 h3 => act_of_refused h hr (walking h1 h2 h3)⟩
    have done : sessionSetRule n (beginService r rest s) = Served.reply [byteOf tgt.code] (beginService r rest s) := by
      rw [equal h1, sessionDone, enumByte, numBytes_one, h1]; rfl
    exact act_of_done (v := beginService r rest s) h hr done rfl
  · have spec := makeTransition_spec tgt (beginService r rest s)
    have rule : sessionSetRule n (beginService r rest s) =
        Served.reply [byteOf tgt.code] (makeTransition tgt (beginService r rest s)) := by
      obtain ⟨hf, -⟩ := spec
      have hs : (makeTransition tgt (beginService r rest s)).session.state = tgt := by rw [hf]
      unfold sessionSetRule
      rw [hn]
      dsimp only
      rw [if_neg ?_, if_neg (by simpa using hl), beginService_walkActive, if_neg hw, sessionDone, hs, enumByte, numBytes_one]
      · rintro rfl
        rw [beginService_session, legalTransition_self] at hl
        cases hl
    generalize makeTransition tgt (beginService r rest s) = v at spec rule
    obtain ⟨hf, hn, hc, hund, hterm, hline, hq, hforced⟩ := spec
    refine ⟨_, act_of_done h hr rule (by rw [hf]), ?_, ?_, hc, ?_, hterm, hline, hq, fun he => ?_⟩
    · rw [hf]; rfl
    · rw [modeNotices_served]
      exact hn.of_notices rfl rfl
    · simp only [startsEmpty, beginService_ribbon] at hund
      exact hund
    · exact (hforced he).of_queues rfl rfl

end Sys2Proof.Machine
end

section
/-! Proofs: PAGE, RESYNC and WATCH-DROP, and the referable requests that a window restricts (R148, R163 to R169, R180, R181). -/

namespace Sys2Proof.Machine

/-! ### What the answer itself leaves (R145 to R147) -/

/-- R145: the end of a slot leaves the clock and Rf_held alone. -/
structure ClockAndHeldKept (s u : State) : Prop where
  clock : u.clock = s.clock
  held : u.counter .rfHeld = s.counter .rfHeld

theorem goSilent_clock (line addr : Nat) (s : State) : ClockAndHeldKept s (goSilent line addr s) := by
  refine ⟨?_, ?_⟩
  · rw [goSilent, State.raise_frame]; rfl
  · rw [goSilent, State.counter_count_other _ (by decide)]
    exact counter_of_counters (by rw [State.raise_counters]; rfl) _

theorem slotFailed_clock (line addr : Nat) (s : State) : ClockAndHeldKept s (slotFailed line addr s) := by
  obtain ⟨v, hv⟩ : ∃ v, v = (s.setTerm (termNo line addr) { s.term (termNo line addr) with
    retry := (s.term (termNo line addr)).retry + 1 }).count .tmRetries := ⟨_, rfl⟩
  have retried : ClockAndHeldKept s v := by
    rw [hv]; exact ⟨rfl, State.counter_count_other _ (by decide)⟩
  unfold slotFailed
  dsimp only
  rw [← hv]
  split_ifs
  · obtain ⟨h1, h2⟩ := goSilent_clock line addr v
    exact ⟨h1.trans retried.clock, h2.trans retried.held⟩
  · exact retried

theorem slotAcked_clock (line addr : Nat) (tx : Transmission) (s : State) : ClockAndHeldKept s (slotAcked line addr tx s) := by
  cases tx with
  | output r b => exact ⟨rfl, State.counter_count_other _ (by decide)⟩
  | poll r => exact ⟨rfl, rfl⟩

theorem terminalJoins_clock (line addr : Nat) (s : State) : ClockAndHeldKept s (terminalJoins line addr s) :=
  ⟨by rw [terminalJoins, State.raise_frame]; rfl, counter_of_counters (by rw [terminalJoins, State.raise_counters]; rfl) _⟩

theorem answerOutcome_clock (line : Nat) (x : TermSlot) (ack : Bool) (s : State) :
    ClockAndHeldKept s (answerOutcome line x ack s) := by
  have served : ClockAndHeldKept s (if ack then slotAcked line x.address x.tx s else slotFailed line x.address s) := by
    split
    · exact slotAcked_clock ..
    · exact slotFailed_clock ..
  unfold answerOutcome
  split
  · exact served
  · exact served
  · exact terminalJoins_clock ..
  · exact terminalJoins_clock ..
  · exact ⟨rfl, rfl⟩

theorem dropSlot_keeps (line n : Nat) (s : State) : OutcomeKeeps n s (dropSlot line s) := ⟨rfl, rfl, rfl, rfl, rfl, rfl, rfl⟩

/-! ### A request taken, and its symbol looked up (R148, R163) -/

theorem taken_setTerm (n : Nat) (q : DealerRequest) (b : State) :
    RequestTaken n q b (b.setTerm n ((b.term n).takeRequest q)) :=
  ⟨rfl, fun _ hm => State.term_setTerm_other _ hm _, State.term_setTerm_same ..⟩

/-- R163: `d` is the state in which the request of a slot's answer has been taken and the entry it names read: `b` is what the
answer itself leaves, and `e` what the reading of the entry alone would. -/
structure SymbolRead (n i : Nat) (q : DealerRequest) (s b e d : State) : Prop where
  read : EntryRead i b e
  taken : RequestTaken n q e d
  exempt : (d.term n).exempt = (s.term n).exempt
  list : (d.term n).watchList = (s.term n).watchList
  page : (d.term n).page = (s.term n).page
  rows : (d.term n).rows = (e.term n).rows
  window : ∀ w, d.window w = s.window w
  entries : d.entries = e.entries
  denom : (d.entry i).denom = (s.entry i).denom

theorem symbolRead {n i : Nat} (q : DealerRequest) {s b : State} (kept : OutcomeKeeps n s b) :
    SymbolRead n i q s b (touch i b) (touch i (b.setTerm n ((b.term n).takeRequest q))) := by
  have read : EntryRead i b (touch i b) := touch_read i b
  have taken := touch_taken i n q b
  generalize touch i (b.setTerm n ((b.term n).takeRequest q)) = d at taken
  generalize touch i b = e at read taken
  have desk : (d.term n).exempt = (s.term n).exempt ∧ (d.term n).watchList = (s.term n).watchList ∧
      (d.term n).page = (s.term n).page ∧ (d.term n).rows = (e.term n).rows := by
    rw [taken.term, takeRequest_eq, Terminal.tookRequest, (read.grown n).1]
    exact ⟨kept.exempt, kept.watchList, kept.page, rfl⟩
  obtain ⟨hexempt, hlist, hpage, hrows⟩ := desk
  have entries : d.entries = e.entries := by rw [taken.frame]
  have windows : d.windows = s.windows := by rw [taken.frame, read.frame]; exact kept.windows
  refine ⟨read, taken, hexempt, hlist, hpage, hrows, fun w => by simp only [State.window, windows], entries, ?_⟩
  obtain ⟨-, -, -, -, -, hden⟩ := current_keeps i b
  rw [entry_of_entries entries, read.entry, hden, entry_of_entries kept.entries]

/-- R165: a result given to a request just taken, with a change of its terminal that keeps the record. -/
theorem RequestTaken.given {n : Nat} {q : DealerRequest} {r : DealerResult} {e d v : State} (hd : RequestTaken n q e d)
    {t : Terminal} (hv : v = giveResult n r (d.setTerm n t)) (ht : t.record = (d.term n).record) :
    v = { e with terms := v.terms, entries := v.entries } ∧ (∀ m, m ≠ n → v.term m = e.term m) ∧ v.entries = e.entries ∧
      v.term n = { t with record := { state := .answered, request := some q, result := some r } } := by
  have hw : d.setTerm n t = { d.setTerm n t with entries := (d.setTerm n t).entries } := rfl
  have ha : Answered n r d v := hv ▸ Answered.of_setTerm ht hw
  obtain ⟨⟨frame, others⟩, record⟩ := ha.of_taken hd
  have hterm : v.term n = { t with record := (v.term n).record } := by
    rw [hv, giveResult_eq, State.term_setTerm_same, State.term_setTerm_same]
  refine ⟨frame, others, ?_, ?_⟩
  · rw [hv, hd.frame]; rfl
  · rw [hterm, record]

/-! ### PAGE and RESYNC (R166, R167) -/

theorem dealTaken_page {line addr p : Nat} {q : DealerRequest} (hk : q.kind = some .page) (hq : q.page = some p)
    (hp : p ≤ 1) (s : State) : dealTaken line addr q s = carryPage (termNo line addr) p s := by
  unfold dealTaken
  rw [hk]
  dsimp only
  unfold dealPage
  rw [hq]
  exact if_pos hp

theorem dealTaken_resync {line addr : Nat} {q : DealerRequest} (hk : q.kind = some .resync) (s : State) :
    dealTaken line addr q s = carryResync (termNo line addr) s := by
  unfold dealTaken
  rw [hk]
  rfl

/-! ### WATCH-DROP (R169) -/

theorem dealTaken_watchDrop {line addr i : Nat} {q : DealerRequest} {sym : Text} {s : State}
    (hk : q.kind = some .watchDrop) (hs : q.symbol = some sym) (hl : lookup sym s.directory = some i) :
    dealTaken line addr q s = if i ∈ ((touch i s).term (termNo line addr)).watchList then
      carryWatchDrop (termNo line addr) i (touch i s) else giveCode (termNo line addr) .unknown (touch i s) := by
  unfold dealTaken
  rw [hk]
  dsimp only
  unfold dealWatchDrop withSymbol
  rw [hs]
  dsimp only
  rw [hl]

theorem erase_eq_eraseIdx_of_first {l : List Nat} {i k : Nat} (e : l[k]? = some i) (first : ∀ j, j < k → l[j]? ≠ some i) :
    l.erase i = l.eraseIdx k := by
  rw [List.erase_eq_eraseIdx, idxOf?_eq_some_iff_first.2 ⟨e, first⟩]

/-- R44, R161, R169: what an accepted WATCH-DROP does with the list, the rows and the watchers. -/
theorem carryWatchDrop_spec {n i k : Nat} {s : State} (hk : (s.term n).watchList[k]? = some i)
    (first : ∀ j, j < k → (s.term n).watchList[j]? ≠ some i) :
    let u := carryWatchDrop n i s
    Answered n { code := .accepted, position := none, index := none, conditions := none } s u ∧
      u.term n = { s.term n with
        record := (u.term n).record, watchList := (s.term n).watchList.eraseIdx k, rows := (u.term n).rows } ∧
      (∀ row, row ∈ (u.term n).rows ↔ row ∈ (s.term n).rows ∨ row < 12 ∧ k ≤ 12 * (s.term n).page + row ∧
        (k < 12 * (s.term n).page ∨ 12 * (s.term n).page + row < (s.term n).watchList.length)) ∧
      u.entry i = { s.entry i with watchers := (s.entry i).watchers - 1 } ∧ ∀ j, j ≠ i → u.entry j = s.entry j := by
  intro u
  obtain ⟨hdrop, -, marked⟩ := dropInstrument_spec i (s.term n)
  obtain ⟨t1, ht1⟩ : ∃ t1, t1 = (s.term n).dropInstrument i := ⟨_, rfl⟩
  rw [← ht1] at hdrop marked
  obtain ⟨x, hx⟩ : ∃ x : DealerResult, x = ⟨.accepted, none, none, none⟩ := ⟨_, rfl⟩
  have hu : u = giveResult n x (dropWatcher i (s.setTerm n t1)) := by rw [hx, ht1]; rfl
  have hterm : u.term n = { t1 with record := { t1.record with state := .answered, result := some x } } := by
    rw [hu, giveResult_eq, State.term_setTerm_same]
    have : (dropWatcher i (s.setTerm n t1)).term n = t1 := State.term_setTerm_same ..
    rw [this]
  have hentry : ∀ j, u.entry j = (dropWatcher i (s.setTerm n t1)).entry j := entry_of_entries (by rw [hu]; rfl)
  refine ⟨?_, ?_, fun row => by rw [hterm]; exact marked k hk first row, ?_, fun j hj => ?_⟩
  · rw [hu, ← hx]
    exact Answered.of_setTerm (by rw [hdrop]) rfl
  · rw [hterm, hdrop, erase_eq_eraseIdx_of_first hk first]
  · rw [hentry]; exact State.entry_setEntry_same ..
  · rw [hentry]; exact State.entry_setEntry_other _ hj _

/-- Settles O53: PAGE and RESYNC change the terminal that has taken its request; a WATCH-DROP is dealt with on the state in
which the request is taken and its entry read (`symbolRead`). -/
theorem pageResyncAndDrop : Obligations.PageResyncAndDrop := by
  intro line m s x q hands n b took ends
  have kept : OutcomeKeeps n s b := (dropSlot_keeps line n s).trans (answerOutcome_keeps line x m.ack _)
  have taken : RequestTaken n q b (b.setTerm n ((b.term n).takeRequest q)) := taken_setTerm n q b
  have exec_eq : ∀ {kind : DealerKind} {c : Instr} {v : State}, exec c s = act (dealerAnswer kind line m) s →
      q.kind = some kind → dealTaken line x.address q (b.setTerm n ((b.term n).takeRequest q)) = v →
      exec c s = .next (finish s (endRoundIfDone line v)) := by
    intro kind c v hc hk hv
    rw [hc, act_of_released hands.1.1, dealerAnswer_eq hands hk, hv]
  refine ⟨fun p hk hp h1 => ?_, fun hk => ?_, fun sym i hk hs hl => ?_⟩
  · obtain ⟨frame, others, entries, term⟩ := taken.given
      (v := carryPage n p (b.setTerm n ((b.term n).takeRequest q))) rfl rfl
    refine ⟨_, ⟨exec_eq rfl hk (dealTaken_page hk hp h1 _), frame, others⟩, entries.trans kept.entries, term.trans ?_⟩
    exact congrArg (fun y : Terminal => { y with page := p, rows := [], fullPage := true }) (taken.with_record _)
  · obtain ⟨frame, others, entries, term⟩ := taken.given
      (v := carryResync n (b.setTerm n ((b.term n).takeRequest q))) rfl rfl
    refine ⟨_, ⟨exec_eq rfl hk (dealTaken_resync hk _), frame, others⟩, entries.trans kept.entries, term.trans ?_⟩
    exact congrArg (fun y : Terminal => { y with fullPage := true }) (taken.with_record _)
  · have dir : lookup sym (b.setTerm n ((b.term n).takeRequest q)).directory = some i := by
      rw [← hl, ← kept.directory]; rfl
    have deal := dealTaken_watchDrop (line := line) (addr := x.address) hk hs dir
    have looked := symbolRead (i := i) q kept
    generalize touch i (b.setTerm n ((b.term n).takeRequest q)) = d at deal looked
    generalize touch i b = e at looked
    refine ⟨e, looked.read, fun hi => ?_, fun k hkth first => ?_⟩
    · rw [if_neg (show i ∉ (d.term n).watchList by rw [looked.list]; exact hi)] at deal
      obtain ⟨ha, hent, hterm⟩ := giveResult_spec n (DealerResult.ofCode .unknown) d
      obtain ⟨⟨frame, others⟩, record⟩ := ha.of_taken looked.taken
      refine ⟨_, ⟨exec_eq rfl hk deal, frame, others⟩, hent.trans looked.entries, hterm.trans ?_⟩
      rw [record]; exact looked.taken.with_record _
    · have mem : i ∈ (d.term n).watchList := by rw [looked.list]; exact List.mem_of_getElem? hkth
      rw [if_pos mem] at deal
      rw [← looked.list] at hkth first
      obtain ⟨ha, term, marked, entry, entries⟩ := carryWatchDrop_spec hkth first
      generalize carryWatchDrop n i d = v at deal ha term marked entry entries
      rw [looked.list, looked.page, looked.rows] at marked
      rw [entry_of_entries looked.entries] at entry
      obtain ⟨⟨frame, others⟩, record⟩ := ha.of_taken looked.taken
      refine ⟨v, ⟨exec_eq rfl hk deal, frame, others⟩, ?_, fun row h1 h2 h3 => (marked row).2 (.inr ⟨h1, h2, .inr h3⟩),
        fun row h => (marked row).2 (.inl h), fun row h => ((marked row).1 h).imp id fun ⟨h1, h2, _⟩ => ⟨h1, h2⟩, entry,
        fun j hj => (entries j hj).trans (entry_of_entries looked.entries j)⟩
      rw [looked.list] at term
      have answered : ({ d.term n with record := (v.term n).record } : Terminal) = took e .accepted := by
        rw [record]; exact looked.taken.with_record _
      exact term.trans (congrArg (fun y : Terminal => { y with
        watchList := (s.term n).watchList.eraseIdx k, rows := (v.term n).rows }) answered)

/-! ### Referral (R180, R181) -/

/-- R180: the lowest-numbered window that restricts a request decides it. -/
theorem decidingWindow_eq {kind : ReferralKind} {i w : Nat} {s : State} (hw : w < 4)
    (h : (s.window w).restricts kind i = true) (low : ∀ v, v < w → (s.window v).restricts kind i = false) :
    decidingWindow kind i s = some w :=
  List.find?_range_eq_some.2 ⟨h, List.mem_range.2 hw, fun v hv => by simp [low v hv]⟩

theorem refer_of_restricted {line addr i w : Nat} {kind : ReferralKind} {s : State}
    (he : (s.term (termNo line addr)).exempt = false) (hd : decidingWindow kind i s = some w) (carry : State → State) :
    refer line addr kind i carry s = if (s.window w).slot.isSome then giveCode (termNo line addr) .wait s
      else holdRequest w line addr kind i s := by
  unfold refer
  rw [if_neg (by rw [he]; decide), hd]

/-- R181: a request held. -/
theorem holdRequest_spec (w line addr : Nat) (kind : ReferralKind) (i : Nat) (s : State) :
    let n := termNo line addr
    let u := holdRequest w line addr kind i s
    u = { s with
        terms := u.terms, windows := u.windows, counters := u.counters
        link := { s.link with notices := u.link.notices } } ∧
      u.window w = { s.window w with
        slot := some { line := line, addr := addr, kind := kind, index := i, start := s.clock.second
                       limit := (s.window w).limit, elapsed := 0 } } ∧
      (∀ k, k ≠ w → u.window k = s.window k) ∧
      u.term n = { s.term n with record := { (s.term n).record with state := .referred, result := none } } ∧
      (∀ k, k ≠ n → u.term k = s.term k) ∧
      u.counter .rfHeld = min 4294967295 (s.counter .rfHeld + 1) ∧ s.onlyCounted u [.rfHeld] ∧
      Noticed [.referral w] s u := by
  intro n u
  obtain ⟨a, ha⟩ : ∃ a, a = s.setWindow w { s.window w with
    slot := some { line := line, addr := addr, kind := kind, index := i, start := s.clock.second
                   limit := (s.window w).limit, elapsed := 0 } } := ⟨_, rfl⟩
  obtain ⟨c, hc⟩ : ∃ c, c = (a.setTerm n { a.term n with
    record := { (a.term n).record with state := .referred, result := none } }).count .rfHeld := ⟨_, rfl⟩
  have hu : u = c.raise (.referral w) := by rw [hc, ha]; rfl
  have raised := noticed_raise c (.referral w)
  rw [← hu] at raised
  have frame : u = { c with link := { c.link with notices := u.link.notices } } := by
    rw [hu]
    rcases c.raise_cases (.referral w) with ⟨-, h⟩ | ⟨-, h⟩
    · rw [h]
    · rw [h]; rfl
  have windows : u.windows = a.windows := by rw [frame, hc]; rfl
  have window : ∀ k, u.window k = a.window k := fun k => by simp only [State.window, windows]
  have at' : ∀ k, a.term k = s.term k := fun k => by rw [ha]; rfl
  have terms : ∀ k, u.term k = c.term k := term_of_terms (by rw [frame])
  have counters : ∀ k, u.counter k = c.counter k := counter_of_counters (by rw [frame])
  refine ⟨?_, ?_, fun k hk => ?_, ?_, fun k hk => ?_, ?_, fun k hk => ?_, ?_⟩
  · rw [frame, hc, ha]; rfl
  · rw [window, ha]; exact State.window_setWindow_same ..
  · rw [window, ha]; exact State.window_setWindow_other _ hk _
  · rw [terms, hc, ← at' n]; exact State.term_setTerm_same ..
  · rw [terms, hc, ← at' k]; exact State.term_setTerm_other _ hk _
  · rw [counters, hc, State.counter_count_same, ha]; rfl
  · rw [counters, hc, State.counter_count_other _ (by simpa using hk), ha]; rfl
  · exact raised.of_notices (by rw [hc, ha]; rfl) rfl

/-- Settles O55: the request is offered to the windows on the state in which it is taken and its entry read (`symbolRead`). -/
theorem referralHoldsOrWaits : Obligations.ReferralHoldsOrWaits := by
  intro line m s x q sym i w c kind hands hs hl n t b hexempt hw hrestricts low hcase
  have kept : OutcomeKeeps n s b := (dropSlot_keeps line n s).trans (answerOutcome_keeps line x m.ack _)
  obtain ⟨clock, held⟩ := answerOutcome_clock line x m.ack (dropSlot line s)
  have dir : lookup sym (b.setTerm n ((b.term n).takeRequest q)).directory = some i := by
    rw [← hl, ← kept.directory]; rfl
  have looked := symbolRead (i := i) q kept
  obtain ⟨d, hd⟩ : ∃ d, d = touch i (b.setTerm n ((b.term n).takeRequest q)) := ⟨_, rfl⟩
  rw [← hd] at looked
  generalize touch i b = e at looked
  -- the command is the answer, and its request comes to the windows
  have offered : ∃ carry, exec c s = .next (finish s (endRoundIfDone line (refer line x.address kind i carry d))) := by
    rcases hcase with ⟨rfl, rfl, hk, hp, hnew, hroom⟩ | ⟨rfl, rfl, hk⟩ | ⟨rfl, rfl, hk, ⟨k, hslot, h3⟩, hc⟩
    all_goals
      change ∃ carry, act (dealerAnswer _ line m) s = _
      rw [act_of_released hands.1.1, dealerAnswer_eq hands hk, dealTaken, hk]
      dsimp only
    · rw [dealWatchAdd_eq hs dir hp, ← hd, checkedWatchAdd_of_room (by rw [looked.list]; exact hnew)
        (by rw [looked.list]; exact hroom)]
      exact ⟨_, rfl⟩
    · rw [dealQuoteAsk_eq hs dir, ← hd]
      exact ⟨_, rfl⟩
    · obtain ⟨y, hy⟩ := Option.ne_none_iff_exists'.1 hc
      have items : q.above ≠ none ∧ q.below ≠ none ∧ q.minSize ≠ none := by
        refine ⟨fun h => hc ?_, fun h => hc ?_, fun h => hc ?_⟩ <;> unfold checkConditions <;> rw [h]
        · cases q.above <;> rfl
        · cases q.above <;> cases q.below <;> rfl
      rw [dealAlertSet_eq hs dir hslot h3 items.1 items.2.1 items.2.2, ← hd,
        checkedAlertSet_of_passes (by rw [looked.denom]; exact hy)]
      exact ⟨_, rfl⟩
  obtain ⟨carry, hexec⟩ := offered
  have deciding : decidingWindow kind i d = some w :=
    decidingWindow_eq hw (by rw [looked.window]; exact hrestricts) fun v hv => by rw [looked.window]; exact low v hv
  rw [refer_of_restricted (by rw [looked.exempt]; exact hexempt) deciding, looked.window] at hexec
  have taken := looked.taken
  have record : ∀ r, ({ d.term n with record := r } : Terminal) = (e.term n).tookRequest r := taken.with_record
  cases hslot : (s.window w).slot with
  | some h =>
    rw [hslot, Option.isSome_some, if_pos rfl] at hexec
    obtain ⟨ha, hent, hterm⟩ := giveResult_spec n (DealerResult.ofCode .wait) d
    obtain ⟨⟨frame, others⟩, hrec⟩ := ha.of_taken taken
    refine ⟨e, _, looked.read, hexec, others, fun g => absurd g (Option.some_ne_none h), fun _ => ⟨?_, ?_⟩⟩
    · refine frame.trans ?_
      rw [hent.trans looked.entries]
      rfl
    · rw [show (giveCode n .wait d).term n = _ from hterm, hrec]; exact record _
  | none =>
    rw [hslot, Option.isSome_none, if_neg Bool.false_ne_true] at hexec
    have seconds : d.clock = s.clock := by rw [taken.frame, looked.read.frame]; exact clock
    have counts : ∀ k, d.counter k = e.counter k := counter_of_counters (by rw [taken.frame])
    have held' : e.counter .rfHeld = s.counter .rfHeld :=
      (counter_of_counters (by rw [looked.read.frame]) _).trans held
    obtain ⟨frame, window, windows, term, others, count, only, noticed⟩ := holdRequest_spec w line x.address kind i d
    refine ⟨e, _, looked.read, hexec, fun k hk => (others k hk).trans (taken.others k hk), fun _ => ⟨?_, ?_, ?_, ?_, ?_, ?_, ?_⟩,
      fun g => absurd rfl g⟩
    · exact frame.trans (by rw [taken.frame])
    · rw [window, looked.window, seconds]
    · exact fun k hk => (windows k hk).trans (looked.window k)
    · have sent : (d.term n).record.request = some q := by rw [taken.term, takeRequest_eq]; rfl
      refine (term.trans ?_).trans (record _)
      rw [← sent]
    · rw [count, counts, held']
    · exact fun k hk => (only k hk).trans (counts k)
    · exact noticed.of_notices (by rw [taken.frame]) rfl

end Sys2Proof.Machine
end

section
/-! Proofs: what the replies to the queries carry (R45, R92, R136, R157, R177, R191, R202, R203; TABLE 11-2). -/

namespace Sys2Proof.Machine

/-! ### The items of the replies in the fields of TABLE 11-2 -/

theorem indexBytes_eq : indexBytes = beField 2 := funext (numBytes_eq 2)

theorem enumByte_num : enumByte = beField 1 := funext (numBytes_eq 1)

/-- TABLE 11-2, R73: a flag as a number. -/
theorem flagByte_num (b : Bool) : flagByte b = beField 1 (if b then 1 else 0) := by cases b <;> rfl

theorem sideBytes_eq (x : Option Side) : sideBytes x = markedField (x.map Side.price) ++ markedField (x.map Side.size) := by
  rw [sideBytes, markedBytes_eq, markedBytes_eq]

/-- TABLE 5-1: a hold. -/
theorem holdBytes_eq (h : Option Hold) : holdBytes h = holdField h := by
  cases h with
  | none => rfl
  | some x =>
    rw [holdBytes, holdField, boardTextBytes_eq, flagByte_eq, withAttributes,
      enumByte_eq [Hue.white, .green, .red] Hue.code _ (by cases x.hue <;> rfl)]

/-- TABLE 5-1: the field of a cell. -/
theorem cellFieldByte_eq (x : Field) :
    enumByte x.code = tableField [Field.symbol, .last, .change, .volume, .tick, .high, .low, .close] x :=
  enumByte_eq _ _ _ (by cases x <;> rfl)

/-- TABLE 2-1: the state of an entry. -/
theorem entryStatus_eq (x : EntryStatus) : enumByte x.code = tableField [EntryStatus.free, .listed, .halted] x :=
  enumByte_eq _ _ _ (by cases x <;> rfl)

/-- TABLE 2-1: the tick of an entry. -/
theorem tick_eq (x : Tick) : enumByte x.code = tableField [Tick.none, .up, .down, .level] x :=
  enumByte_eq _ _ _ (by cases x <;> rfl)

/-- TABLE 9-2: the kind of a dealer request. -/
theorem dealerKind_eq (x : DealerKind) : enumByte (DealerKind.code x) =
    tableField [DealerKind.page, .resync, .watchAdd, .watchDrop, .quoteAsk, .alertSet, .alertClear] x :=
  enumByte_eq _ _ _ (by cases x <;> rfl)

/-- TABLE 9-3: the code of a result. -/
theorem replyCode_eq (x : ReplyCode) : enumByte x.code =
    tableField [ReplyCode.accepted, .unknown, .full, .duplicate, .denied, .noAnswer, .wait] x :=
  enumByte_eq _ _ _ (by cases x <;> rfl)

/-- 6.2: the state of a board line. -/
theorem lineState_eq (x : LineState) : enumByte x.code = tableField [LineState.off, .lit, .dark] x :=
  enumByte_eq _ _ _ (by cases x <;> rfl)

/-- TABLE 8-1: the poll mode of a terminal line. -/
theorem pollMode_eq (x : PollMode) : enumByte x.code = tableField [PollMode.continuous, .quiet] x :=
  enumByte_eq _ _ _ (by cases x <;> rfl)

/-- TABLE 10-2: a held slot. -/
theorem heldBytes_eq (h : HeldSlot) : heldBytes h = heldField h := by
  rw [heldBytes, heldField, enumByte_eq [ReferralKind.watch, .quote, .alert] ReferralKind.code _ (by cases h.kind <;> rfl)]
  simp only [numBytes_eq, indexBytes_eq]

/-- R157: the slot in progress on a line is a terminal's own. -/
theorem slotInProgress_eq (line addr : Nat) (s : State) :
    slotInProgress line addr s = (s.tline line).slot.any (fun x => decide (x.address = addr)) := by
  unfold slotInProgress
  cases (s.tline line).slot <;> rfl

/-- TABLE 8-2: an absent request or result is sent as 0. -/
theorem zeros_of_absent (item : FreeItem) : ∃ k, 0 :: 0 :: zeroBytes item = List.replicate (k + 2) 0 :=
  ⟨_, rfl⟩

/-- TABLE 7-3: the number of a print's kind is the byte of its row. -/
theorem kindCode_eq_iff {k : Nat} (hk : k ≤ 3) (x : PrintBody) : x.kindCode = k ↔ printField x = [BitVec.ofNat 8 k] := by
  interval_cases k <;> cases x <;> simp [PrintBody.kindCode, printField]

/-- R136: the queued records of each kind, after the bytes before them. -/
theorem kindCounts_eq (bytes : List Byte) (r : Ribbon) : bytes ++ numBytes 2 (kindCount 0 r) ++
    numBytes 2 (kindCount 1 r) ++ numBytes 2 (kindCount 2 r) ++ numBytes 2 (kindCount 3 r) =
      bytes ++ ([0, 1, 2, 3] : List Byte).flatMap (fun k => beField 2 (printsOf k r)) := by
  have counted : ∀ k, k ≤ 3 → kindCount k r = printsOf (BitVec.ofNat 8 k) r := fun k hk => kindCount_eq (kindCode_eq_iff hk) r
  rw [counted 0 (by decide), counted 1 (by decide), counted 2 (by decide), counted 3 (by decide)]
  simp only [numBytes_eq, List.flatMap_cons, List.flatMap_nil, List.append_assoc, List.append_nil]
  rfl

/-! ### The parts of the replies -/

/-- The bytes of a list of indices, which no table lays out (log entry 13). -/
def freeIndices (item : FreeItem) (width : Nat) (l : List Nat) : List Byte := freeBytes item (l.map (numBytes width))

/-- The byte of a round's address before its first slot (log entry 13). -/
def roundAddressBefore : Byte := (freeBytes .roundBeforeSlot []).headD 0

/-- TABLE 8-1: a round, idle or with the last address a slot was taken for. -/
def roundField : Option Round → List Byte
  | none => [0, 0]
  | some r =>
    1 :: match r.last with
      | none => [roundAddressBefore]
      | some a => beField 1 a

theorem roundBytes_eq (x : Option Round) : roundBytes x = roundField x := by
  cases x with
  | none => rfl
  | some r =>
    rcases r with ⟨_ | a, wide⟩
    · rfl
    · exact congrArg (List.cons 1) (numBytes_eq 1 a)

/-- R45: the fields of an entry that is not FREE. -/
theorem instrumentBytes_eq {e : Entry} (h : e.status ≠ .free) : instrumentBytes e =
    tableField [EntryStatus.free, .listed, .halted] e.status ++ symbolField e.symbol ++ beField 1 e.denom ++
      beField 1 e.lot ++ beField 1 e.cls ++ markedField e.prevClose ++ markedField e.last ++ markedField e.opening ++
      markedField e.high ++ markedField e.low ++ beField 4 e.dayVolume ++ beField 3 e.lastSize ++
      tableField [Tick.none, .up, .down, .level] e.tick ++ markedField (e.bid.map Side.price) ++
      markedField (e.bid.map Side.size) ++ markedField (e.ask.map Side.price) ++ markedField (e.ask.map Side.size) ++
      flagField e.firstPending ++ beField 1 e.dayStamp ++ beField 1 e.watchers ++ freeIndices .cellList 2 e.cells := by
  unfold instrumentBytes
  dsimp only
  rw [if_neg h]
  simp only [entryStatus_eq, tick_eq, symbolBytes_eq, numBytes_eq, markedBytes_eq, sideBytes_eq, flagByte_eq, freeIndices,
    List.append_assoc]

/-- R92: the cell part. -/
theorem cellBytes_eq (line slot : Nat) (s : State) : cellBytes line slot s =
    let c := s.cell (cellNo line slot)
    optField 2 (c.binding.map (beField 2)) ++
      tableField [Field.symbol, .last, .change, .volume, .tick, .high, .low, .close] c.field ++ beField 1 c.width ++
      holdField c.hold ++ beField 1 c.flashCount ++ flagField c.tradeMark ++
      optField c.width (c.prevChars.map (fun cs => cs.map boardCharField)) ++ flagField c.needsFull ++
      optField 1 (((s.refreshQueue line).idxOf? (cellNo line slot)).map (beField 1)) := by
  simp only [cellBytes, optBytes_eq, indexBytes_eq, cellFieldByte_eq, numBytes_eq, funext (numBytes_eq 1), holdBytes_eq,
    flagByte_eq, funext boardCharByte_eq, placeOf_eq]

/-- R111: the slot part. -/
theorem slotBytes_eq (line slot : Nat) (s : State) : slotBytes line slot s =
    let x := s.slotState (cellNo line slot)
    flagField (decide (slot ∈ (s.line line).enabled)) ++ beField 1 ((s.line line).offset + slot) ++
      boardTextField x.staging ++ boardTextField x.shown ++ presenceField x.presence ++ flagField x.changed := by
  simp only [slotBytes, flagByte_eq, numBytes_eq, boardTextBytes_eq, presence_eq]

/-- R157: the terminal part. -/
theorem terminalBytes_eq (line addr : Nat) (s : State) : terminalBytes line addr s =
    let t := s.term (termNo line addr)
    termStateField t.state ++ flagField t.exempt ++ beField 1 t.retry ++ beField 2 t.lapse ++
      optField 1 (t.outBlock.map blockField) ++ recordField t.record.state ++ recordRequestBytes t.record.request ++
      dealerResultBytes t.record.result ++ flagField t.fullPage ++ flagField t.statusOwed ++ flagField t.idleOwed ++
      flagField t.readySent ++ flagField t.changed ++
      flagField ((s.tline line).slot.any (fun x => decide (x.address = addr))) := by
  simp only [terminalBytes, termState_eq, flagByte_eq, numBytes_eq, optBytes_eq, funext blockKind_eq, recordState_eq,
    slotInProgress_eq]

/-- TABLE 9-2: a stored request of a kind. -/
theorem recordRequestBytes_of_kind {q : DealerRequest} {k : DealerKind} (h : q.kind = some k) :
    recordRequestBytes (some q) = 1 ::
      tableField [DealerKind.page, .resync, .watchAdd, .watchDrop, .quoteAsk, .alertSet, .alertClear] k ++
        dealerRequestBytes q := by
  rw [recordRequestBytes, kindedRequestBytes, h, ← dealerKind_eq]
  rfl

/-- TABLE 9-3: a stored result. -/
theorem dealerResultBytes_some (x : DealerResult) : dealerResultBytes (some x) = 1 ::
    tableField [ReplyCode.accepted, .unknown, .full, .duplicate, .denied, .noAnswer, .wait] x.code ++
      resultDetailBytes x := by
  rw [dealerResultBytes, ← replyCode_eq]

/-- R177: the watch part. -/
theorem watchBytes_eq (t : Terminal) : watchBytes t =
    freeIndices .watchList 2 t.watchList ++ beField 1 t.page ++ freeIndices .rowSet 1 t.rows ++
      (List.range 4).flatMap (fun k => alertField (t.alert k)) := by
  simp only [watchBytes, numBytes_eq, alertBytes_eq, freeIndices, List.flatMap]
  rfl

/-- R21: the backlog and the projected lag. -/
theorem backlog_eq (r : Ribbon) : backlog r = backlogOf r := rfl

theorem projectedLag_eq (r : Ribbon) : projectedLag r = backlogOf r / r.rate := rfl

/-- R136. -/
theorem ribbonBytes_eq (id : RibbonId) (s : State) : ribbonBytes id s =
    let r := s.ribbon id
    ribbonStateField r.state ++ [r.mask] ++ beField 1 r.rate ++ beField 2 r.up1 ++ beField 2 r.up2 ++ beField 2 r.up3 ++
      beField 1 r.trim ++ modeField r.mode ++ beField 1 r.dwell ++ beField 2 r.queue.length ++
      ([0, 1, 2, 3] : List Byte).flatMap (fun k => beField 2 (printsOf k r)) ++
      optField 4 (r.queue.head?.map (fun p => printField p.body ++ beField 3 p.arrival)) ++ beField 1 r.fifo.length ++
      beField 2 (backlogOf r) ++ beField 2 (backlogOf r / r.rate) ++ flagField (ribbonJobInFlight id s) ++
      optField 2 (r.preceding.map (beField 2)) ++ beField 2 r.anchors.length ++
      optField 2 (r.lateFigure.map (beField 2)) ++ beField 1 r.lateAge := by
  unfold ribbonBytes
  dsimp only
  generalize s.ribbon id = r
  rw [kindCounts_eq]
  simp only [ribbonState_eq, mode_eq, numBytes_eq, funext (numBytes_eq 2), optBytes_eq, printKind_eq, flagByte_eq,
    indexBytes_eq, backlog_eq, projectedLag_eq]

/-- R73. -/
theorem formatUnitBytes_eq (f : FormatUnit) : formatUnitBytes f =
    beField 1 (if f.job.isSome then 1 else 0) ++ optField 2 (f.job.map jobField) ++ beField 1 f.pointer ++
      optField 1 (f.holder.map (beField 1)) ++ beField 1 f.runCount ++ beField 1 f.runLength := by
  rw [formatUnitBytes, show (fun j => enumByte (Job.requester j) ++ enumByte (Job.kindCode j)) = jobField from funext job_eq]
  simp only [flagByte_num, optBytes_eq, numBytes_eq, enumByte_num]

/-- R202, part 0. -/
theorem statusPart0_eq (s : State) : statusPart0 s =
    loadField s.loader ++ beField 2 s.loader.pos ++ beField 2 s.loader.lineCount ++ beField 2 s.loader.slotCount ++
      beField 1 s.link.requests.length ++ beField 1 s.link.replies.length ++ beField 2 s.link.notices.length ++
      beField 1 s.link.noticeSeq ++ timeField s.clock ++ clockStateField s.clock ++ sessionField s.session ++
      beField 1 s.dayNumber ++ flagField s.walkActive ++ beField 2 s.walkPos ++ formatUnitBytes s.fu ++
      beField 1 s.flashPeriod := by
  simp only [statusPart0, loadBytes_eq, timeBytes_eq, sessionBytes_eq, numBytes_eq, flagByte_eq, ← clockBytes_eq,
    List.append_assoc]

/-- R111: a board line. -/
theorem lineBytes_eq (n : Nat) (s : State) : lineBytes n s =
    let l := s.line n
    beField 1 l.size ++ beField 1 l.offset ++ beField 8 ((l.enabled.map (fun k => 2 ^ k)).sum) ++ beField 1 l.rate ++
      beField 1 l.darkDelay ++ tableField [LineState.off, .lit, .dark] l.state ++
      optField 2 (l.darkTimer.map (beField 2)) ++ optField 1 (l.scrub.map (beField 1)) ++
      beField 1 (s.refreshQueue n).length ++ flagField l.frame.isSome := by
  simp only [lineBytes, slotSetBytes, lineState_eq, numBytes_eq, funext (numBytes_eq 1), funext (numBytes_eq 2),
    optBytes_eq, flagByte_eq]

/-- R191: a referral window. -/
theorem windowBytes_eq (w : Window) : windowBytes w =
    flagField w.enabled ++ beField 1 w.k ++ beField 2 w.base ++ [w.kinds] ++ beField 1 w.limit ++
      optField 10 (w.slot.map heldField) ++ outcomeField w.outcome := by
  simp only [windowBytes, flagByte_eq, numBytes_eq, indexBytes_eq, optBytes_eq, funext heldBytes_eq, outcome_eq]

/-- R137: a terminal line. -/
theorem tlineBytes_eq (l : TermLine) : tlineBytes l =
    tableField [PollMode.continuous, .quiet] l.poll ++ beField 1 l.quietInterval ++ beField 1 l.slotLimit ++
      beField 1 l.retryLimit ++ beField 1 l.lapseTime ++
      roundField l.round ++ beField 1 l.roundCount := by
  simp only [tlineBytes, pollMode_eq, numBytes_eq, roundBytes_eq]

/-- R45, R92, R136, R157, R177, R202: what the replies carry, gathered from their parts. -/
theorem repliesCarry (s : State) : RepliesCarry (freeIndices .cellList 2) (freeIndices .watchList 2) (freeIndices .rowSet 1)
    roundAddressBefore s where
  free e he := by
    unfold instrumentBytes
    dsimp only
    rw [if_pos he, he]
    rfl
  instrument e he := instrumentBytes_eq he
  cell line slot := cellBytes_eq line slot s
  slot line slot := slotBytes_eq line slot s
  terminal line addr := by
    refine ⟨_, _, terminalBytes_eq line addr s, fun h => ?_, fun q k hq hk => ?_, fun h => ?_, fun x hx => ?_⟩
    · rw [h]; exact zeros_of_absent _
    · rw [hq]; exact ⟨_, dealerRequestBytes_sent q, recordRequestBytes_of_kind hk⟩
    · rw [h]; exact zeros_of_absent _
    · rw [hx]; exact ⟨_, dealerResultBytes_some x⟩
  watch := watchBytes_eq
  ribbon id := ribbonBytes_eq id s
  part0 := by
    rw [statusBytes, statusPart0_eq, formatUnitBytes_eq]
    simp only [List.append_assoc]
  part1 := by simp only [statusBytes, schedBytes_eq, List.flatMap]
  part2 := by simp only [statusBytes, schedBytes_eq, List.flatMap]
  part3 := by simp only [statusBytes, lineBytes_eq, List.flatMap, lineNos]
  part4 := by simp only [statusBytes, windowBytes_eq, List.flatMap, statusBytes.windowNos]
  part5 := by
    simp only [statusBytes, tlineBytes_eq, List.flatMap, tlineNos]
    rfl

/-! ### The queries as requests served (R197, R198) -/

section
variable {α : Type} {s : State} {k : HostKind} {r : LinkFrame} {rest : List LinkFrame} {read : List Byte → Option α} {x : α}
  {rule : α → State → Served}

/-- R198: a query that is answered without a change; the arbiter makes no decision. -/
theorem actUndecided_of_reply {bytes : List Byte} (h : s.ready k r rest) (hr : read r.body = some x)
    (hd : rule x (beginService r rest s) = Served.reply bytes (beginService r rest s)) :
    actUndecided (serve k read rule) s = .next (noteTogether s { s with link := s.link.replied r rest bytes }) := by
  rw [actUndecided_of_released h.1, serve_of_ready h, shaped_of_read hr, hd]
  rfl

/-- R197: a query that is refused. -/
theorem actUndecided_of_refused {reason : Reason} (h : s.ready k r rest) (hr : read r.body = some x)
    (hd : rule x (beginService r rest s) = Served.refuse reason (beginService r rest s)) :
    actUndecided (serve k read rule) s = .next (noteTogether s (s.refusedHead r rest reason)) := by
  rw [actUndecided_of_released h.1, serve_of_ready h, shaped_of_read hr, hd, endService_refuse]

/-- R202: a query whose range check decides between the two. -/
theorem actUndecided_of_check {good : Prop} [Decidable good] {bytes : List Byte} (h : s.ready k r rest)
    (hr : read r.body = some x) (hgood : good → rule x (beginService r rest s) = Served.reply bytes (beginService r rest s))
    (hbad : ¬good → rule x (beginService r rest s) = Served.refuse .range (beginService r rest s)) :
    actUndecided (serve k read rule) s =
      if good then .next (noteTogether s { s with link := s.link.replied r rest bytes })
      else .next (noteTogether s (s.refusedHead r rest .range)) := by
  by_cases g : good
  · rw [if_pos g]; exact actUndecided_of_reply h hr (hgood g)
  · rw [if_neg g]; exact actUndecided_of_refused h hr (hbad g)

end

/-- R30: the reading of an entry leaves the Link Interface as it is, so it may be said with any other. -/
theorem EntryRead.relinked {i : Nat} {s v : State} {l : Link} (h : EntryRead i { s with link := l } v) :
    EntryRead i s { v with link := s.link } where
  fresh hs := by rw [h.fresh hs]
  frame := by rw [h.frame]
  entry := h.entry
  others := h.others
  cells hs := (h.cells hs).of_eq rfl rfl rfl
  rows hs := by
    have rows : RowsMarked i s v := (h.rows hs).of_eq rfl rfl
    exact rows.to_eq rfl

/-- R203: the 24 counters. -/
theorem allCounterBytes_eq (s : State) :
    allCounterBytes s = (List.range 24).flatMap (fun n => beField 4 (Table.get 0 s.counters n)) := by
  simp only [allCounterBytes, numBytes_eq, List.flatMap]

/-- Settles O58: the bytes are those of `repliesCarry`; the queries are requests served. -/
theorem queriesReport : Obligations.QueriesReport := by
  refine ⟨fun r rest s n => ?_, ⟨_, _, _, _, repliesCarry⟩, fun r rest s hbody => ?_⟩
  · intro x done outOfRange
    refine ⟨fun h hb => ?_, fun h hb => ⟨fun hn => ?_, fun hn => ?_⟩, fun h hb => ⟨fun hn => ?_, fun hn => ?_, fun hn => ?_⟩,
      fun a b hb => ⟨fun h => ?_, fun h => ?_⟩⟩
    · refine actUndecided_of_check h hb (fun hn => ?_) fun hn => if_pos (by omega)
      rw [askStatusRule, if_neg (by omega), numBytes_one]
      rfl
    · exact act_of_refused h hb (if_pos hn)
    · have read : EntryRead n x (touch n x) := touch_read n x
      refine ⟨_, read.relinked, ?_⟩
      have rule : askInstrumentRule n x = Served.reply (instrumentBytes ((touch n x).entry n)) (touch n x) :=
        if_neg (by omega)
      refine (act_of_done h hb rule (by rw [read.frame])).trans ?_
      rw [read.entry, read.frame]
      rfl
    · subst hn; exact actUndecided_of_reply h hb rfl
    · subst hn; exact actUndecided_of_reply h hb rfl
    · refine actUndecided_of_refused h hb ?_
      have : ribbonOf n = none := List.getElem?_eq_none hn
      rw [askRibbonRule, this]
    · refine actUndecided_of_check h hb (fun g => if_neg ?_) fun g => if_pos ?_
      · simpa [slotInRange] using g
      · simpa [slotInRange, imp_iff_not_or] using g
    · refine actUndecided_of_check h hb (fun g => if_neg ?_) fun g => if_pos ?_
      · simpa [termInRange] using g
      · simpa [termInRange, imp_iff_not_or] using g
  · intro bytes
    have none : readNone r.body = some () := by rw [hbody]; rfl
    have counters : allCounterBytes (beginService r rest s) = bytes := allCounterBytes_eq s
    refine ⟨fun h => ?_, fun h => ?_⟩
    · exact actUndecided_of_reply h none (by rw [askCountersRule, counters])
    · refine ⟨{ s with counters := [], link := s.link.replied r rest bytes }, ?_, rfl, fun c => rfl⟩
      have rule : clearCountersRule () (beginService r rest s) =
          Served.reply bytes (beginService r rest s).clearCounters := by rw [← counters]; rfl
      exact act_of_done h none rule rfl

end Sys2Proof.Machine
end

section
/-! Proofs: the transmitter, and what the notices carry (R199 to R201, TABLE 11-4). -/

namespace Sys2Proof.Machine

/-! ### What the notices carry (TABLE 11-4) -/

theorem ribbonId_eq (id : RibbonId) : beField 1 (RibbonId.code id) = tableField [RibbonId.a, .b] id := by
  cases id <;> rfl

theorem referralKind_eq (k : ReferralKind) : enumByte k.code = tableField [ReferralKind.watch, .quote, .alert] k :=
  enumByte_eq _ _ _ (by cases k <;> rfl)

/-- R189: the part of a REFERRAL notice about a HELD slot. -/
def heldNoticePart (w : Window) (s : State) : List Byte :=
  match w.slot with
  | some h => heldNotice h s
  | none => []

/-- R189: a REFERRAL notice with the bytes of its items. -/
theorem referralNotice_eq (n : Nat) (s : State) : referralNotice n s =
    let w := s.window n
    beField 1 n ++ flagField w.enabled ++ beField 2 w.base ++ beField 2 (2 ^ w.k) ++ [w.kinds] ++ beField 1 w.limit ++
      beField 1 (if w.slot.isSome then 1 else 0) ++ heldNoticePart w s ++ outcomeField w.outcome ++
      beField 4 (s.counter .rfHeld) ++ beField 4 (s.counter .rfExpired) := by
  simp only [← numBytes_eq, ← outcome_eq, ← flagByte_eq]
  rfl

/-- R189: what a REFERRAL notice says of a HELD slot, its dealer request last. -/
theorem heldNotice_eq (h : HeldSlot) (s : State) : heldNotice h s =
    beField 1 h.line ++ beField 1 h.addr ++ tableField [ReferralKind.watch, .quote, .alert] h.kind ++
      beField 2 h.index ++ symbolField (s.entry h.index).symbol ++ beField 3 h.start ++
      beField 1 (h.limit - h.elapsed) ++
      dealerRequestBytes ((s.term (termNo h.line h.addr)).record.request.getD DealerRequest.blank) := by
  simp only [heldNotice, numBytes_eq, referralKind_eq, indexBytes_eq, symbolBytes_eq]

theorem noticesCarry (s : State) : NoticesCarry s where
  boardModule line slot := by
    simp only [noticeBody, moduleNotice, numBytes_eq, presence_eq, boardTextBytes_eq, optBytes_eq, indexBytes_eq,
      counterBytes]
  terminal line addr := by
    simp only [noticeBody, terminalNotice, numBytes_eq, termState_eq, flagByte_eq, recordState_eq, counterBytes]
  referral n := by
    refine ⟨heldNoticePart (s.window n) s, referralNotice_eq n s, fun hs => ?_, fun h hs => ?_⟩
    · rw [heldNoticePart, hs]
    · refine ⟨_, by rw [heldNoticePart, hs]; exact heldNotice_eq h s, fun q hq => ?_⟩
      rw [hq]
      exact dealerRequestBytes_sent q
  ribbon id := by
    simp only [noticeBody, ribbonNotice, ribbonId_eq, ribbonState_eq, mode_eq, projectedLag_eq, numBytes_eq, counterBytes]
  session := sessionBytes_eq s.session
  scheduleSkip n := by rw [noticeBody, numBytes_eq, schedBytes_eq]
  clock := by rw [noticeBody, clockBytes_eq, timeBytes_eq]
  layout := by rw [noticeBody, loadBytes_eq, numBytes_eq, numBytes_eq]

/-! ### The transmitter's choice (R199, R201) -/

/-- R199: the head reply starts. -/
theorem sendReply_of_replies {s : State} {r : LinkFrame} {rest : List LinkFrame} (h : s.link.replies = r :: rest) :
    sendReply s = { s with link := { s.link with replies := rest, tx := some r, noticeMayLead := false } } := by
  rw [sendReply, h]
  rfl

/-- R199: with no notice listed none starts. -/
theorem sendNotice_of_none {s : State} (h : s.link.notices = []) : sendNotice s = s := by
  rw [sendNotice, h]

/-- R105, R155, R199, R201: the oldest notice starts. -/
theorem sendNotice_started {s : State} {n : NoticeItem} {rest : List NoticeItem} (h : s.link.notices = n :: rest) :
    NoticeStarted n rest s (sendNotice s) := by
  have sent : sendNotice s =
      clearChanged n (s.setLink { s.link with notices := rest, tx := some (noticeFrame n s), noticeMayLead := false }) := by
    rw [sendNotice, h]
  rw [sent]
  cases n with
  | boardModule line slot =>
    refine ⟨rfl, fun l k e => ?_, nofun, fun none => absurd rfl (none line slot)⟩
    cases e
    exact ⟨rfl, State.slotState_setSlot_same .., fun c hc => State.slotState_setSlot_other _ hc _⟩
  | terminal line addr =>
    refine ⟨rfl, nofun, fun l a e => ?_, fun _ none => absurd rfl (none line addr)⟩
    cases e
    exact ⟨rfl, State.term_setTerm_same .., fun k hk => State.term_setTerm_other _ hk _⟩
  | referral | ribbon | session | scheduleSkip | clock | layout => exact ⟨rfl, nofun, nofun, fun _ _ => ⟨rfl, rfl⟩⟩

/-- R199: an idle transmitter takes the head reply. -/
theorem transmitReply_of_idle {s : State} (h : s.link.tx = none) : transmitReply s = sendReply s := by
  rw [transmitReply, h]
  rfl

/-- R199: an idle transmitter takes the oldest notice when no reply is queued, or the two appeared together. -/
theorem transmitNotice_of_idle {s : State} (h : s.link.tx = none)
    (lead : s.link.replies = [] ∨ s.link.noticeMayLead = true) : transmitNotice s = sendNotice s := by
  rw [transmitNotice, h, if_pos (by simpa using lead)]

/-- R199: a queued reply that did not appear together with the notice goes first. -/
theorem transmitNotice_of_reply {s : State} (h : s.link.replies ≠ []) (lead : s.link.noticeMayLead = false) :
    transmitNotice s = s := by
  rw [transmitNotice, if_neg (by simp [h, lead])]

/-- R199, R201: at the end of a frame the head reply goes next, and a notice's end moves the notice sequence on. -/
theorem frameSent_of_reply {s : State} {f r : LinkFrame} {rest : List LinkFrame} (h : s.link.tx = some f)
    (hq : s.link.replies = r :: rest) : frameSent s = { s with link := { s.link with
      replies := rest, tx := some r, noticeMayLead := false
      noticeSeq := if f.isNotice then (s.link.noticeSeq + 1) % 256 else s.link.noticeSeq } } := by
  simp [frameSent, sendReply, h, hq, State.setLink, seqAfter]

/-- R199, R201: with no reply queued the oldest notice goes next, tagged with the sequence as moved on. -/
theorem frameSent_of_noReply {s : State} {f : LinkFrame} (h : s.link.tx = some f) (hq : s.link.replies = []) :
    frameSent s = sendNotice { s with link := { s.link with
      tx := none, noticeSeq := if f.isNotice then (s.link.noticeSeq + 1) % 256 else s.link.noticeSeq } } := by
  simp [frameSent, h, hq, State.setLink, seqAfter]

/-- R199: when a notice may lead a reply (log entry 21). -/
theorem finish_noticeMayLead (s u : State) : (finish s u).link.noticeMayLead = true ↔
    (finish s u).link.tx = none ∧ (finish s u).link.replies ≠ [] ∧ (finish s u).link.notices ≠ [] ∧
      (s.link.noticeMayLead = true ∨ s.link.tx = none ∧ s.link.replies = [] ∧ s.link.notices = []) := by
  simp [finish, noteTogether, quietLink, and_assoc]

/-- Settles O12: a reply's start and a notice's start, each at an idle transmitter and at the end of a frame. -/
theorem transmitterChooses : Obligations.TransmitterChooses := by
  refine ⟨⟨fun s r rest hr hq => ⟨fun htx => ?_, fun htx hl => ?_, fun f htx => ?_⟩, ?_⟩, ?_, ?_, noticesCarry,
    finish_noticeMayLead⟩
  · exact (act_of_released hr transmitReply).trans (by rw [transmitReply_of_idle htx, sendReply_of_replies hq])
  · exact (act_of_released hr transmitNotice).trans (by rw [transmitNotice_of_reply (by simp [hq]) hl])
  · exact (act_of_released hr frameSent).trans (by rw [frameSent_of_reply htx hq])
  · intro s f hr htx hq seq
    let idle : State := { s with link := { s.link with tx := none, noticeSeq := seq } }
    have sent : exec .frameSent s = .next (finish s (sendNotice idle)) :=
      (act_of_released hr frameSent).trans (by rw [frameSent_of_noReply htx hq])
    refine ⟨fun hn => ?_, fun n rest hn => ⟨_, sent, sendNotice_started hn⟩⟩
    have silent : sendNotice idle = idle := sendNotice_of_none hn
    rw [sent, silent]
  · intro s n rest hr htx lead hn
    exact ⟨_, (act_of_released hr transmitNotice).trans (by rw [transmitNotice_of_idle htx lead]), sendNotice_started hn⟩
  · intros
    rfl

end Sys2Proof.Machine
end

section
/-! Proofs: TIME-SET, SCHED-SET and what advances the clock (R46 to R52, TABLES 3-1 and 3-2). -/

namespace Sys2Proof.Machine

/-! ### Changes of the clock state (R49, R200) -/

/-- R200: a raise, as the notice list it leaves. -/
theorem State.raise_eq (s : State) (n : NoticeItem) : s.raise n = { s with link := { s.link with
    notices := if n ∈ s.link.notices then s.link.notices else s.link.notices ++ [n] } } := by
  unfold State.raise
  split_ifs <;> rfl

/-- R49: the clock state set, with its notice when it changes. -/
theorem setClockState_eq (x : ClockState) (s : State) : setClockState x s = { s with
    clock := { s.clock with state := x }
    link := { s.link with
      notices := if s.clock.state = x ∨ .clock ∈ s.link.notices then s.link.notices
        else s.link.notices ++ [.clock] } } := by
  unfold setClockState
  by_cases h : s.clock.state = x
  · subst h
    simp
  · rw [if_neg h, State.raise_eq]
    by_cases hn : NoticeItem.clock ∈ s.link.notices <;> simp [h, hn, State.setClock]

/-- R48, R49: the indication PRESENT. -/
theorem referencePresent_eq (s : State) : referencePresent s = { s with
    clock := { s.clock with
      present := true, watchExpired := false
      state := if s.clock.state = .freeRunning then .running else s.clock.state }
    link := { s.link with
      notices := if s.clock.state = .freeRunning ∧ .clock ∉ s.link.notices then s.link.notices ++ [.clock]
        else s.link.notices } } := by
  unfold referencePresent
  by_cases h : s.clock.state = .freeRunning
  · by_cases hn : NoticeItem.clock ∈ s.link.notices <;> simp [h, hn, setClockState_eq, State.setClock]
  · simp [h, State.setClock]

/-- R48, R49: the indication LOST. -/
theorem referenceLost_eq (s : State) : referenceLost s = { s with
    clock := { s.clock with
      present := false, watchExpired := true
      state := if s.clock.state = .running then .freeRunning else s.clock.state }
    link := { s.link with
      notices := if s.clock.state = .running ∧ .clock ∉ s.link.notices then s.link.notices ++ [.clock]
        else s.link.notices } } := by
  unfold referenceLost
  by_cases h : s.clock.state = .running
  · by_cases hn : NoticeItem.clock ∈ s.link.notices <;> simp [h, hn, setClockState_eq, State.setClock]
  · simp [h, State.setClock]

/-! ### TIME-SET (R50) -/

theorem TimeBody.inRange_iff (b : TimeBody) : b.inRange = true ↔ b.second < 86400 ∧ b.weekday ≤ 6 ∧ 1 ≤ b.month ∧
    b.month ≤ 12 ∧ b.year ≤ 99 ∧ 1 ≤ b.day ∧ b.day ≤ monthLength b.month b.year := by
  simp only [TimeBody.inRange, Bool.and_eq_true, decide_eq_true_eq, and_assoc]
  rfl

/-! ### SCHED-SET (R52) -/

theorem sessionStateOf_eq_none_iff (n : Nat) : sessionStateOf n = none ↔ 4 < n := by
  simp [sessionStateOf]
  omega

/-- R52: the bodies that ask for no entry. -/
theorem SchedBody.toEntry_eq_none {b : SchedBody} (skip : Option SkipRecord)
    (h : 15 < b.entry ∨ 23 < b.hour ∨ 59 < b.minute ∨ 4 < b.target ∨
      (b.dayMatch = true ∧ b.selectorType = 0 ∧ b.selectorByte = 0) ∨
      (b.selectorType = 1 ∧ (b.selectorByte = 0 ∨ 31 < b.selectorByte.toNat))) : b.toEntry skip = none := by
  unfold SchedBody.toEntry
  rcases h with h | h | h | h | ⟨hd, ht, hb⟩ | ⟨ht, hb⟩
  · split
    · exact if_pos (.inl h)
    · rfl
  · split
    · exact if_pos (.inr (.inl h))
    · rfl
  · split
    · exact if_pos (.inr (.inr (.inl h)))
    · rfl
  · rw [(sessionStateOf_eq_none_iff _).2 h]
    cases b.selector <;> rfl
  · have sel : b.selector = some (.weekdays 0) := by simp [SchedBody.selector, ht, hb]
    rw [sel]
    split
    · next e _ => exact if_pos (.inr (.inr (.inr ⟨hd, by cases e; rfl⟩)))
    · rfl
  · have sel : b.selector = none := by
      have out : ¬(1 ≤ b.selectorByte.toNat ∧ b.selectorByte.toNat ≤ 31) := by
        rcases hb with hb | hb
        · simp [hb]
        · omega
      rw [SchedBody.selector, if_neg (by omega), if_pos ht, if_neg out]
    rw [sel]

/-- TABLE 3-2: the day selectors that a body may ask for. -/
theorem SchedBody.selector_of_range {b : SchedBody} {sel : DaySelector}
    (h : b.selectorType = 0 ∧ b.selectorByte.toNat < 128 ∧ (b.dayMatch = true → b.selectorByte ≠ 0) ∧
        sel = .weekdays b.selectorByte ∨
      b.selectorType = 1 ∧ 1 ≤ b.selectorByte.toNat ∧ b.selectorByte.toNat ≤ 31 ∧ sel = .date b.selectorByte.toNat) :
    b.selector = some sel ∧ ¬(b.dayMatch = true ∧ sel = .weekdays 0) := by
  rcases h with ⟨ht, hb, hd, rfl⟩ | ⟨ht, h1, h2, rfl⟩
  · exact ⟨by simp [SchedBody.selector, ht, hb], fun ⟨hm, e⟩ => hd hm (DaySelector.weekdays.inj e)⟩
  · exact ⟨by simp [SchedBody.selector, ht, h1, h2], fun ⟨_, e⟩ => by cases e⟩

/-- R52: the entry that a body within its ranges asks for. -/
theorem SchedBody.toEntry_of_range {b : SchedBody} {sel : DaySelector} {tgt : SessionState} (skip : Option SkipRecord)
    (he : b.entry ≤ 15) (hh : b.hour ≤ 23) (hm : b.minute ≤ 59) (ht : sessionStateOf b.target = some tgt)
    (hs : b.selector = some sel) (hd : ¬(b.dayMatch = true ∧ sel = .weekdays 0)) : b.toEntry skip =
      some { enabled := b.enabled, hour := b.hour, hourMatch := b.hourMatch, minute := b.minute,
             minuteMatch := b.minuteMatch, selector := sel, dayMatch := b.dayMatch, target := tgt, skip := skip } := by
  unfold SchedBody.toEntry
  rw [hs, ht]
  exact if_neg (by rintro (h | h | h | h) <;> [omega; omega; omega; exact hd h])

/-- R52: the entry that a body asks for replaces the one there. -/
theorem schedSetRule_of_entry {b : SchedBody} {s : State} {e : SchedEntry}
    (h : b.toEntry (s.schedEntry b.entry).skip = some e) : schedSetRule b s = Served.reply [] (s.setSched b.entry e) := by
  rw [schedSetRule, h]
  rfl

/-- Settles O26: the checks of the two rules, and their effects in the frame of a request that is DONE. -/
theorem timeAndScheduleAreSet : Obligations.TimeAndScheduleAreSet := by
  refine ⟨fun r rest s b h hr => ?_, fun r rest s b h hr => ?_⟩
  · intro good x
    have inRange : b.inRange = true ↔ good := b.inRange_iff
    refine ⟨fun hg => ?_, fun hg => ?_⟩
    · exact act_of_refused h hr (if_pos (by simpa [← inRange] using hg))
    · have rule : timeSetRule b (beginService r rest s) =
          Served.reply [] (setStateAfterTime (loadTime b (beginService r rest s))) :=
        if_neg (by simpa using inRange.2 hg)
      rw [setStateAfterTime, setClockState_eq] at rule
      exact act_of_done h hr rule rfl
  · refine ⟨fun bad => ?_, fun sel tgt he hh hm ht hsel => ?_⟩
    · refine act_of_refused h hr ?_
      rw [schedSetRule, SchedBody.toEntry_eq_none _ bad]
    · obtain ⟨hs, hd⟩ := SchedBody.selector_of_range hsel
      have rule := schedSetRule_of_entry (s := beginService r rest s) (SchedBody.toEntry_of_range _ he hh hm ht hs hd)
      exact ⟨_, act_of_done h hr rule rfl, rfl, Table.get_set_same .., fun n hn => Table.get_set_other _ _ hn _⟩

end Sys2Proof.Machine
end

section
/-! Proofs: second ticks, the SECOND input and the reference watch (R46 to R49, R53, R54). -/

namespace Sys2Proof.Machine

/-! ### The arbiter's decision (R64, R65, R72) -/

theorem jobFrame_goIdle (s : State) : JobFrame s (goIdle s) := jobFrame_setFU s _

theorem jobFrame_grantIdle (p : Nat) (s : State) : JobFrame s (grantIdle p s) := by
  unfold grantIdle
  split
  · exact jobFrame_grantUrgent s p
  · exact jobFrame_grantRound s p

theorem jobFrame_arbitrate (s : State) : JobFrame s (arbitrate s) := by
  unfold arbitrate
  split
  · exact jobFrame_grantUrgent s 8
  · split
    · exact jobFrame_grantUrgent s 9
    · split
      · exact jobFrame_grantRun s _
      · split
        · exact jobFrame_grantRound s _
        · exact jobFrame_goIdle s

theorem jobFrame_settle (before s : State) : JobFrame s (settle before s) := by
  rcases settle_cases before s with ⟨-, h⟩ | ⟨-, -, h⟩ | ⟨-, -, -, h⟩ | ⟨p, -, -, -, h⟩ | ⟨p, -, -, -, -, h⟩ <;> rw [h]
  · exact .refl s
  · exact jobFrame_arbitrate s
  · exact jobFrame_goIdle s
  · exact jobFrame_grantIdle p s
  · exact (jobFrame_setFree s _).trans (jobFrame_grantIdle p _)

/-! ### Schedule entries applied (R53, R54) -/

/-- R54: an entry skipped: its record set, its notice raised, and nothing else changed. -/
theorem skipEntry_spec (n : Nat) (reason : SkipReason) (s : State) :
    let u := skipEntry n reason s
    u = { s with sched := u.sched, link := { s.link with notices := u.link.notices } } ∧
      u.schedEntry n = { s.schedEntry n with
        skip := some { second := s.clock.second, found := s.session.state, reason := reason } } ∧
      (∀ m, m ≠ n → u.schedEntry m = s.schedEntry m) ∧ Noticed [.scheduleSkip n] s u := by
  intro u
  have raised : u = State.raise _ _ := rfl
  have noticed : Noticed [.scheduleSkip n] s u := Noticed.of_notices (u := u) (noticed_raise _ _) rfl rfl
  rw [State.raise_eq] at raised
  refine ⟨by rw [raised]; rfl, ?_, fun m hm => ?_, noticed⟩
  · rw [raised]; exact Table.get_set_same ..
  · rw [raised]; exact Table.get_set_other _ _ hm _

/-- R54: a matching entry does nothing, is skipped, or makes its transition. -/
theorem applyEntry_cases (n : Nat) (s : State) : applyEntry n s = s ∨ (∃ reason, applyEntry n s = skipEntry n reason s) ∨
    applyEntry n s = makeTransition (s.schedEntry n).target s := by
  unfold applyEntry
  dsimp only
  split_ifs
  · exact .inl rfl
  · exact .inr (.inl ⟨_, rfl⟩)
  · exact .inr (.inl ⟨_, rfl⟩)
  · exact .inr (.inr rfl)

/-! ### What a second tick leaves alone (R47, R51) -/

/-- What neither the counts of a tick, nor a decision, nor a schedule entry changes. -/
structure TickKept (s u : State) : Prop where
  clock : u.clock = s.clock
  loader : u.loader = s.loader
  directory : u.directory = s.directory
  flashPeriod : u.flashPeriod = s.flashPeriod
  slots : u.slots = s.slots
  displays : u.displays = s.displays

theorem TickKept.refl (s : State) : TickKept s s := ⟨rfl, rfl, rfl, rfl, rfl, rfl⟩

theorem TickKept.trans {s t u : State} (h1 : TickKept s t) (h2 : TickKept t u) : TickKept s u where
  clock := h2.clock.trans h1.clock
  loader := h2.loader.trans h1.loader
  directory := h2.directory.trans h1.directory
  flashPeriod := h2.flashPeriod.trans h1.flashPeriod
  slots := h2.slots.trans h1.slots
  displays := h2.displays.trans h1.displays

theorem JobFrame.tickKept {s u : State} (h : JobFrame s u) : TickKept s u :=
  ⟨h.clock, h.loader, h.directory, h.flashPeriod, h.slots, h.displays⟩

theorem tickKept_tickCounts (s : State) : TickKept s (tickCounts s) := by
  obtain ⟨⟨frame, -⟩, -⟩ := tickCounts_frame s _ rfl
  rw [frame]
  exact ⟨rfl, rfl, rfl, rfl, rfl, rfl⟩

theorem tickKept_applyEntry (n : Nat) (s : State) : TickKept s (applyEntry n s) := by
  rcases applyEntry_cases n s with h | ⟨reason, h⟩ | h <;> rw [h]
  · exact .refl s
  · rw [(skipEntry_spec n reason s).1]
    exact ⟨rfl, rfl, rfl, rfl, rfl, rfl⟩
  · rw [(makeTransition_spec _ s).1]
    exact ⟨rfl, rfl, rfl, rfl, rfl, rfl⟩

theorem tickKept_minuteTest (s : State) : TickKept s (minuteTest s) := by
  unfold minuteTest
  split
  · exact forEach_rel TickKept.refl (fun _ _ _ => TickKept.trans) _
      (fun n t => (tickKept_applyEntry n t).trans (jobFrame_settle t _).tickKept) s
  · exact .refl s

/-- R47: of the parts that `TickKept` names, a second tick changes the clock alone, by one second. -/
theorem secondTick_kept (s : State) : TickKept { s with clock := s.clock.tick } (secondTick s) :=
  ((tickKept_tickCounts _).trans (jobFrame_settle s _).tickKept).trans (tickKept_minuteTest _)

/-- R48: three ticks in turn. -/
theorem secondTick_three_kept (s : State) : TickKept { s with clock := s.clock.tick.tick.tick }
    (secondTick (secondTick (secondTick s))) := by
  have one := secondTick_kept s
  generalize secondTick s = t at one ⊢
  have two := secondTick_kept t
  generalize secondTick t = u at two ⊢
  have three := secondTick_kept u
  generalize secondTick u = v at three ⊢
  refine ⟨?_, ?_, ?_, ?_, ?_, ?_⟩
  · rw [three.clock, two.clock, one.clock]
  · rw [three.loader, two.loader, one.loader]
  · rw [three.directory, two.directory, one.directory]
  · rw [three.flashPeriod, two.flashPeriod, one.flashPeriod]
  · rw [three.slots, two.slots, one.slots]
  · rw [three.displays, two.displays, one.displays]

theorem TickKept.parts {s u : State} {c : Clock} (h : TickKept { s with clock := c } u) :
    (u.loader, u.directory, u.flashPeriod, u.slots, u.displays) =
      (s.loader, s.directory, s.flashPeriod, s.slots, s.displays) := by
  rw [h.loader, h.directory, h.flashPeriod, h.slots, h.displays]

/-! ### The calendar (R47, TABLE 3-1) -/

theorem Clock.tick_within {c : Clock} (h : c.second ≠ 86399) : c.tick = { c with second := c.second + 1 } := if_neg h

theorem Clock.tick_midnight {c : Clock} (h : c.second = 86399) : c.tick = { c.nextDay with second := 0 } := if_pos h

theorem Clock.nextDay_sameMonth {c : Clock} (h : c.day < monthLength c.month c.year) :
    c.nextDay = { c with weekday := (c.weekday + 1) % 7, day := c.day + 1 } := if_pos h

theorem Clock.nextDay_sameYear {c : Clock} (hd : monthLength c.month c.year ≤ c.day) (hm : c.month < 12) :
    c.nextDay = { c with weekday := (c.weekday + 1) % 7, day := 1, month := c.month + 1 } :=
  (if_neg (by omega)).trans (if_pos hm)

theorem Clock.nextDay_newYear {c : Clock} (hd : monthLength c.month c.year ≤ c.day) (hm : 12 ≤ c.month) :
    c.nextDay = { c with weekday := (c.weekday + 1) % 7, day := 1, month := 1, year := (c.year + 1) % 100 } :=
  (if_neg (by omega)).trans (if_neg (by omega))

/-- Settles O27: `secondTick_kept`, once for a pulse and three times for an expiry of the watch. -/
theorem ticksAdvanceTheClock : Obligations.TicksAdvanceTheClock := by
  refine ⟨fun year => rfl, fun c => ⟨Clock.tick_within, fun h hd => ?_, fun h hd hm => ?_, fun h hd hm => ?_⟩,
    fun s hr => ?_⟩
  · rw [Clock.tick_midnight h, Clock.nextDay_sameMonth hd]
  · rw [Clock.tick_midnight h, Clock.nextDay_sameYear hd hm]
  · rw [Clock.tick_midnight h, Clock.nextDay_newYear hd hm]
  · intro kept noticed v lost w
    have kv : TickKept { s with clock := s.clock.tick } v := secondTick_kept s
    have kw : TickKept { lost with clock := lost.clock.tick.tick.tick } w := secondTick_three_kept lost
    have lost_eq : referenceLost s = lost := referenceLost_eq s
    have pulse : exec .secondPulse s = .next (finish s (referencePresent v)) := act_of_released hr secondPulse
    have internal : exec .internalSecond s = .next (finish s (if s.clock.present then s else v)) :=
      act_of_released hr internalSecond
    have expiry : exec .referenceWatchExpiry s = .next (finish s (if s.clock.watchExpired then s else w)) :=
      (act_of_released hr watchExpiry).trans (by rw [watchExpiry, lost_eq])
    clear_value w v
    refine ⟨⟨kv.clock, kv.parts, kw.clock, kw.parts⟩, ?_, fun hp => ?_, fun hp => ?_, fun hx => ?_, fun hx => ?_⟩
    · rw [pulse, referencePresent_eq]
    · rw [internal, if_neg (by simp [hp])]
    · rw [internal, if_pos hp]
    · rw [expiry, if_neg (by simp [hx])]
    · rw [expiry, if_pos hx]

end Sys2Proof.Machine
end

section
/-! Proofs: what a second tick hands to the blocks that count seconds (R47, R51, R53, R54, R88, R107, R123, R128, R143, R150,
R183). -/

namespace Sys2Proof.Machine

/-! ### Operations on one object after another -/

theorem forEach_append {α : Type} (a b : List α) (f : α → State → State) (s : State) :
    forEach (a ++ b) f s = forEach b f (forEach a f s) := List.foldl_append ..

/-- Where each operation changes its own object alone, an object reads after all of them as after its own, which finds it
as it was. -/
theorem read_forEach_turn {β : Type} {f : Nat → State → State} {read : State → Nat → β}
    (other : ∀ n s m, m ≠ n → read (f n s) m = read s m) {l : List Nat} (hl : l.Nodup) {n : Nat} (hn : n ∈ l) (s : State) :
    ∃ a b, l = a ++ n :: b ∧ read (forEach a f s) n = read s n ∧
      read (forEach l f s) n = read (f n (forEach a f s)) n := by
  obtain ⟨a, b, rfl⟩ := List.append_of_mem hn
  obtain ⟨out, -⟩ := List.nodup_cons.1 (List.nodup_middle.1 hl)
  rw [List.mem_append, not_or] at out
  refine ⟨a, b, rfl, forEach_others f read other a s n out.1, ?_⟩
  rw [forEach_append, forEach_cons]
  exact forEach_others f read other b _ n out.2

/-! ### The numbers a table lists -/

theorem Table.rising_of_rises {α : Type} {t : Table α} {lo : Nat} (h : Table.risesFrom (some lo) t = true) :
    (lo :: Table.keys t).Pairwise (· < ·) := by
  induction t generalizing lo with
  | nil => exact List.pairwise_singleton ..
  | cons e t ih =>
    obtain ⟨k, v⟩ := e
    simp only [Table.risesFrom, Bool.and_eq_true, decide_eq_true_eq] at h
    have rest : (k :: Table.keys t).Pairwise (· < ·) := ih h.2
    refine List.pairwise_cons.2 ⟨fun j hj => ?_, rest⟩
    rcases List.mem_cons.1 hj with rfl | hj
    · exact h.1
    · exact h.1.trans ((List.pairwise_cons.1 rest).1 j hj)

theorem Table.keys_nodup {α : Type} {t : Table α} (h : Table.risesFrom none t = true) : (Table.keys t).Nodup := by
  cases t with
  | nil => exact List.nodup_nil
  | cons e t => exact (Table.rising_of_rises (t := t) (lo := e.1) h).imp Nat.ne_of_lt

/-- A number that is not listed holds the default. -/
theorem Table.get_of_unlisted {α : Type} {d : α} {t : Table α} {i : Nat} (h : i ∉ Table.keys t) : Table.get d t i = d := by
  induction t with
  | nil => rfl
  | cons e t ih =>
    simp only [Table.keys, List.map_cons, List.mem_cons, not_or] at h
    exact (if_neg h.1).trans (ih h.2)

/-! ### The flash counts (R88) -/

/-- R88: a cell after one tick of a flash count that does not run out. -/
def Cell.flashTicked (r : Cell) : Cell := if 1 < r.flashCount then { r with flashCount := r.flashCount - 1 } else r

theorem Cell.flashTicked_needsFull (r : Cell) : r.flashTicked.needsFull = r.needsFull := by
  unfold Cell.flashTicked
  split <;> rfl

theorem Cell.flashTicked_of_ne {r : Cell} (h : r.flashCount ≠ 1) :
    r.flashTicked = { r with flashCount := r.flashCount - 1 } := by
  unfold Cell.flashTicked
  split
  · rfl
  · have none : r.flashCount = 0 := by omega
    rw [none]
    cases r
    cases none
    rfl

theorem Cell.flashTicked_over {r : Cell} (h : r.flashCount = 1) :
    { r.flashTicked with flashCount := 0 } = { r with flashCount := r.flashCount - 1 } := by
  simp [Cell.flashTicked, h]

theorem mem_expiringCells (s : State) (c : Nat) : c ∈ expiringCells s ↔ (s.cell c).flashCount = 1 := by
  simp only [expiringCells, List.mem_filter, decide_eq_true_eq, and_iff_right_iff_imp]
  intro h
  by_contra out
  rw [State.cell, Table.get_of_unlisted out] at h
  exact absurd h (by decide)

theorem tickFlash_cell_same (c : Nat) (s : State) : (tickFlash c s).cell c = (s.cell c).flashTicked := by
  unfold tickFlash Cell.flashTicked
  split
  · exact State.cell_setCell_same ..
  · rfl

theorem tickFlash_cell_other (c : Nat) (s : State) (d : Nat) (h : d ≠ c) : (tickFlash c s).cell d = s.cell d := by
  unfold tickFlash
  split
  · exact State.cell_setCell_other _ h _
  · rfl

theorem flashExpire_cell_same (c : Nat) (s : State) : (flashExpire c s).cell c = { s.cell c with flashCount := 0 } :=
  (cell_of_cells (cells_offerCell ..) c).trans (State.cell_setCell_same ..)

theorem flashExpire_cell_other (c : Nat) (s : State) (d : Nat) (h : d ≠ c) : (flashExpire c s).cell d = s.cell d :=
  (cell_of_cells (cells_offerCell ..) d).trans (State.cell_setCell_other _ h _)

theorem flashExpire_needsFull (c : Nat) (s : State) (d : Nat) :
    ((flashExpire c s).cell d).needsFull = (s.cell d).needsFull := by
  by_cases h : d = c
  · rw [h, flashExpire_cell_same]
  · rw [flashExpire_cell_other c s d h]

/-- R88: the cells whose flashes run out are offered. -/
theorem flashExpire_offered (l : List Nat) (s : State) : Offered l s (forEach l flashExpire s) := by
  induction l generalizing s with
  | nil => exact .refl s _ rfl
  | cons c l ih =>
    have one : Offered [c] s (flashExpire c s) :=
      (offered_offerCell c (s.setCell c { s.cell c with flashCount := 0 })).of_flags
        (fun d => ((flashExpire_needsFull c s d).symm.trans
          (congrArg Cell.needsFull (cell_of_cells (cells_offerCell ..) d)))) rfl rfl
    exact one.append_of_flags (ih (flashExpire c s)) (flashExpire_needsFull c s)

/-- R88: one tick of the flash counts: every count one down, and the cells whose counts run out offered. -/
theorem tickFlashes_spec {s : State} (hw : Table.wf Cell.cold s.cells = true) :
    (∀ c, (tickFlashes s).cell c = { s.cell c with flashCount := (s.cell c).flashCount - 1 }) ∧
      Offered (expiringCells s) s (tickFlashes s) := by
  have keys : (Table.keys s.cells).Nodup := Table.keys_nodup (Table.rises_of_wf hw)
  obtain ⟨t, et⟩ : ∃ t, t = (forEach (Table.keys s.cells) tickFlash s).setFree (s.free + (expiringCells s).length) := ⟨_, rfl⟩
  obtain ⟨l, el⟩ : ∃ l, l = freeOrder (expiringCells s).length s.free (expiringCells s) := ⟨_, rfl⟩
  have whole : tickFlashes s = forEach l flashExpire t := by rw [el, et]; rfl
  have order : l.Perm (expiringCells s) := el ▸ freeOrder_perm _ _ _ le_rfl
  have nodup : l.Nodup := order.nodup_iff.2 (keys.filter _)
  have running : ∀ c, t.cell c = (s.cell c).flashTicked := fun c => by
    have read := read_forEach State.cell Cell.flashTicked tickFlash_cell_same tickFlash_cell_other _ keys s c
    rw [et]
    refine read.trans (ite_eq_left_iff.2 fun out => ?_)
    rw [State.cell, Table.get_of_unlisted out]
    rfl
  have queues : t.queues = s.queues := by
    rw [et]
    exact forEach_rel (R := fun s t => t.queues = s.queues) (fun _ => rfl) (fun _ _ _ h1 h2 => h2.trans h1) _
      (fun c s => by unfold tickFlash; split <;> rfl) s
  rw [whole]
  refine ⟨fun c => ?_, ?_⟩
  · have out : c ∈ l ↔ (s.cell c).flashCount = 1 := order.mem_iff.trans (mem_expiringCells s c)
    rw [read_forEach State.cell (fun r => { r with flashCount := 0 }) flashExpire_cell_same flashExpire_cell_other l nodup,
      running]
    by_cases h : (s.cell c).flashCount = 1
    · rw [if_pos (out.2 h), Cell.flashTicked_over h]
    · rw [if_neg (mt out.1 h), Cell.flashTicked_of_ne h]
  · exact ((flashExpire_offered l t).of_mem fun c => order.mem_iff).of_flags
      (fun c => by rw [running, Cell.flashTicked_needsFull]) queues.symm rfl

/-! ### The dark timers (R107) -/

/-- R107: a board line after one tick of its dark timer. -/
def BoardLine.ticked (l : BoardLine) : BoardLine :=
  match l.darkTimer with
  | none => l
  | some k =>
    if k ≤ 1 then { l with darkTimer := none, state := if l.state = .lit then .dark else l.state }
    else { l with darkTimer := some (k - 1) }

theorem tickDark_line_same (n : Nat) (s : State) : (tickDark n s).line n = (s.line n).ticked := by
  unfold tickDark BoardLine.ticked
  cases (s.line n).darkTimer with
  | none => rfl
  | some k =>
    dsimp only
    split
    · exact State.line_setLine_same ..
    · exact State.line_setLine_same ..

/-! ### The quiet counts (R142, R143) -/

/-- The lapse times of the terminal lines stand. -/
def LapseTimesKept (s u : State) : Prop := ∀ n, (u.tline n).lapseTime = (s.tline n).lapseTime

theorem LapseTimesKept.refl (s : State) : LapseTimesKept s s := fun _ => rfl

theorem LapseTimesKept.trans {s t u : State} (h1 : LapseTimesKept s t) (h2 : LapseTimesKept t u) : LapseTimesKept s u :=
  fun n => (h2 n).trans (h1 n)

theorem lapseTimesKept_setTLine {s : State} {n : Nat} {l : TermLine} (h : l.lapseTime = (s.tline n).lapseTime) :
    LapseTimesKept s (s.setTLine n l) := fun m => by
  by_cases e : m = n
  · rw [e, State.tline_setTLine_same, h]
  · rw [State.tline_setTLine_other _ e]

theorem lapseTimesKept_startRounds (line fuel : Nat) (s : State) : LapseTimesKept s (startRounds line fuel s) := by
  induction fuel generalizing s with
  | zero => exact .refl s
  | succ fuel ih =>
    have begun : LapseTimesKept s (beginRound line s) := lapseTimesKept_setTLine rfl
    have ended : LapseTimesKept s (endRound line (beginRound line s)) := begun.trans (lapseTimesKept_setTLine rfl)
    unfold startRounds
    dsimp only
    split
    · split
      · exact ended.trans (ih _)
      · exact ended
    · exact begun

theorem lapseTimesKept_tickQuiet (n : Nat) (s : State) : LapseTimesKept s (tickQuiet n s) := by
  unfold tickQuiet
  dsimp only
  split
  · exact .refl s
  · have counted : LapseTimesKept s (s.setTLine n { s.tline n with quietCount := min 10 ((s.tline n).quietCount + 1) }) :=
      lapseTimesKept_setTLine rfl
    split
    · unfold startRoundIfIdle
      split
      · exact counted.trans (lapseTimesKept_startRounds n 8 _)
      · exact counted
    · exact counted

/-- R143: one tick of the quiet count of line `n`, and the round it begins. -/
structure QuietTicked (n : Nat) (s u : State) : Prop where
  busy : (s.tline n).round ≠ none → u.tline n = s.tline n
  counted : (s.tline n).round = none →
    ((s.tline n).poll = .continuous ∨ min 10 ((s.tline n).quietCount + 1) < (s.tline n).quietInterval ∨ ¬s.admitted n) →
    u.tline n = { s.tline n with quietCount := min 10 ((s.tline n).quietCount + 1) }
  due : (s.tline n).round = none → (s.tline n).poll = .quiet →
    (s.tline n).quietInterval ≤ min 10 ((s.tline n).quietCount + 1) → s.admitted n →
    RoundBegun { s.tline n with quietCount := min 10 ((s.tline n).quietCount + 1) } n u

/-- R143: an idle line begins a round when some terminal of it is admitted. -/
theorem startRoundIfIdle_setTLine {n : Nat} {s : State} {l : TermLine} (h : l.round = none) :
    startRoundIfIdle n (s.setTLine n l) =
      if anyAdmitted n s then startRound n (s.setTLine n l) else s.setTLine n l := by
  unfold startRoundIfIdle
  rw [State.tline_setTLine_same, anyAdmitted_setTLine, h]
  simp

/-- R143: a tick of an idle line counts, and begins a round that is due. -/
theorem tickQuiet_idle {n : Nat} {s : State} (h : (s.tline n).round = none) : tickQuiet n s =
    let v := s.setTLine n { s.tline n with quietCount := min 10 ((s.tline n).quietCount + 1) }
    if (s.tline n).poll = .quiet ∧ (s.tline n).quietInterval ≤ min 10 ((s.tline n).quietCount + 1) then
      if anyAdmitted n s then startRound n v else v
    else v := by
  have idle := startRoundIfIdle_setTLine (n := n) (s := s)
    (l := { s.tline n with quietCount := min 10 ((s.tline n).quietCount + 1) }) h
  dsimp only
  rw [← idle, tickQuiet, if_neg (by simp [h])]

theorem tickQuiet_ticked (n : Nat) (s : State) : QuietTicked n s (tickQuiet n s) := by
  refine ⟨fun h => ?_, fun h hk => ?_, fun h hp hq ha => ?_⟩
  · rw [tickQuiet, if_pos (Option.isSome_iff_ne_none.2 h)]
  · rw [tickQuiet_idle h]
    dsimp only
    rcases hk with hk | hk | hk
    · rw [if_neg (by simp [hk]), State.tline_setTLine_same]
    · rw [if_neg (by omega), State.tline_setTLine_same]
    · have vacant : ¬anyAdmitted n s = true := mt (anyAdmitted_iff s n).1 hk
      rw [if_neg vacant, ite_self, State.tline_setTLine_same]
  · rw [tickQuiet_idle h]
    dsimp only
    rw [if_pos ⟨hp, hq⟩, if_pos ((anyAdmitted_iff s n).2 ha)]
    have begun := startRound_begun
      (s.setTLine n { s.tline n with quietCount := min 10 ((s.tline n).quietCount + 1) }) n
    rwa [State.tline_setTLine_same] at begun

/-- R142, R150: what a round reads of a terminal stands: its out-block, and its state but for a lapse. -/
def Terminal.sameToRounds (a b : Terminal) : Prop :=
  b.outBlock = a.outBlock ∧ (b.state = a.state ∨ a.state = .active ∧ b.state = .lapsed)

/-- R142, R143: a round begun reads its own line, and of the terminals what a lapse leaves. -/
theorem RoundBegun.of_reads {l : TermLine} {n : Nat} {u v : State} (h : RoundBegun l n u) (ht : v.tline n = u.tline n)
    (same : ∀ k, Terminal.sameToRounds (u.term k) (v.term k)) : RoundBegun l n v := by
  have state : ∀ k, (v.term k).state = (u.term k).state ∨ (u.term k).state = .active ∧ (v.term k).state = .lapsed :=
    fun k => (same k).2
  have admitted : v.admitted n ↔ u.admitted n := by
    refine exists_congr fun a => and_congr_right fun _ => ?_
    rcases state (termNo n a) with e | ⟨e1, e2⟩
    · rw [e]
    · rw [e1, e2]; decide
  have holds : v.holdsBlock n ↔ u.holdsBlock n :=
    exists_congr fun a => and_congr_right fun _ => by rw [(same (termNo n a)).1]
  have finds : ∀ r, v.findsAddress n r ↔ u.findsAddress n r := fun r => by
    refine exists_congr fun a => and_congr_right fun _ => and_congr_right fun _ => ?_
    rcases state (termNo n a) with e | ⟨e1, e2⟩
    · rw [e]
    · simp [e1, e2]
  obtain ⟨visiting, goesOn, nobody⟩ := h
  exact ⟨by simpa only [finds, ht] using visiting, by simpa only [finds, admitted, holds, ht] using goesOn,
    by simpa only [finds, admitted, holds, ht] using nobody⟩

theorem QuietTicked.of_reads {n : Nat} {s s' u v : State} (h : QuietTicked n s u) (hs : s'.tline n = s.tline n)
    (hterms : s'.terms = s.terms) (ht : v.tline n = u.tline n)
    (same : ∀ k, Terminal.sameToRounds (u.term k) (v.term k)) : QuietTicked n s' v := by
  have admitted : s'.admitted n ↔ s.admitted n := by simp only [State.admitted, State.term, hterms]
  obtain ⟨busy, counted, due⟩ := h
  refine ⟨by rw [hs, ht]; exact busy, by rw [hs, ht, admitted]; exact counted, fun h1 h2 h3 h4 => ?_⟩
  rw [hs] at h1 h2 h3 ⊢
  exact (due h1 h2 h3 (admitted.1 h4)).of_reads ht same

/-! ### The lapse counts (R150) -/

theorem Terminal.tickLapse_sameToRounds (time : Nat) (t : Terminal) : Terminal.sameToRounds t (t.tickLapse time) := by
  unfold Terminal.tickLapse
  split
  · next active =>
    dsimp only
    split
    · exact ⟨rfl, .inr ⟨active, rfl⟩⟩
    · exact ⟨rfl, .inl rfl⟩
  · exact ⟨rfl, .inl rfl⟩

theorem Terminal.tickLapse_record (time : Nat) (t : Terminal) : (t.tickLapse time).record = t.record := by
  unfold Terminal.tickLapse
  split
  · dsimp only
    split <;> rfl
  · rfl

/-! ### The counts before the windows' (R51) -/

/-- R51: what the counts before the windows' make of each object. -/
structure SecondsTicked (s e : State) : Prop where
  cells : e.cells = (tickFlashes s).cells
  queues : e.queues = (tickFlashes s).queues
  lines : ∀ n, n < 8 → e.line n = (s.line n).ticked
  ribbons : ∀ id, e.ribbon id = (s.ribbon id).tick
  tlines : ∀ n, n < 4 → QuietTicked n s e
  terms : ∀ n, n < 64 → e.term n = (s.term n).tickLapse (s.tline (n / 16)).lapseTime

theorem tickDarks_frame (l : List Nat) (s : State) :
    forEach l tickDark s = { s with lines := (forEach l tickDark s).lines } :=
  forEach_rel (R := fun s t => t = { s with lines := t.lines }) (fun _ => rfl) (fun _ _ _ h1 h2 => by rw [h2, h1]) l
    (fun n s => (tickDark_frame n s).1) s

theorem tickQuiets_frame (l : List Nat) (s : State) :
    forEach l tickQuiet s = { s with tlines := (forEach l tickQuiet s).tlines } :=
  forEach_rel (R := fun s t => t = { s with tlines := t.tlines }) (fun _ => rfl) (fun _ _ _ h1 h2 => by rw [h2, h1]) l
    (fun n s => (tickQuiet_frame n s).1) s

theorem tickLapses_frame (l : List Nat) (s : State) :
    forEach l tickLapse s = { s with terms := (forEach l tickLapse s).terms } :=
  forEach_rel (R := fun s t => t = { s with terms := t.terms }) (fun _ => rfl) (fun _ _ _ h1 h2 => by rw [h2, h1]) l
    (fun n s => (tickLapse_frame n s).1) s

/-- R143: each line's quiet count ticks as it does alone. -/
theorem tickQuiets_ticked {n : Nat} (hn : n < 4) (s : State) : QuietTicked n s (forEach tlineNos tickQuiet s) := by
  obtain ⟨a, b, -, before, own⟩ := read_forEach_turn (fun n s m h => (tickQuiet_frame n s).2 m h) (read := State.tline)
    (List.nodup_range (n := 4)) (List.mem_range.2 hn) s
  have terms : (forEach a tickQuiet s).terms = s.terms := by rw [tickQuiets_frame]
  refine (tickQuiet_ticked n (forEach a tickQuiet s)).of_reads before.symm terms.symm own fun k => ?_
  have same : (forEach tlineNos tickQuiet s).term k = (tickQuiet n (forEach a tickQuiet s)).term k := by
    refine term_of_terms ?_ k
    rw [tickQuiets_frame, (tickQuiet_frame n _).1, terms]
  rw [same]
  exact ⟨rfl, .inl rfl⟩

/-- R150: each terminal's lapse count ticks as it does alone. -/
theorem tickLapses_term {n : Nat} (hn : n < 64) (s : State) :
    (forEach termNos tickLapse s).term n = (s.term n).tickLapse (s.tline (n / 16)).lapseTime := by
  obtain ⟨a, b, -, before, own⟩ := read_forEach_turn (fun n s m h => (tickLapse_frame n s).2.1 m h) (read := State.term)
    (List.nodup_range (n := 64)) (List.mem_range.2 hn) s
  have line : (forEach a tickLapse s).tline (n / 16) = s.tline (n / 16) := by
    simp only [State.tline]
    rw [tickLapses_frame]
  refine own.trans ((State.term_setTerm_same ..).trans ?_)
  rw [before, line]

theorem tickSeconds_ticked (s : State) : SecondsTicked s (tickSeconds s) := by
  obtain ⟨a, ea⟩ : ∃ a, a = tickFlashes s := ⟨_, rfl⟩
  obtain ⟨b, eb⟩ : ∃ b, b = forEach lineNos tickDark a := ⟨_, rfl⟩
  obtain ⟨c, ec⟩ : ∃ c, c = forEach ribbonIds (fun id s => s.setRibbon id (s.ribbon id).tick) b := ⟨_, rfl⟩
  obtain ⟨d, ed⟩ : ∃ d, d = forEach tlineNos tickQuiet c := ⟨_, rfl⟩
  obtain ⟨e, ee⟩ : ∃ e, e = forEach termNos tickLapse d := ⟨_, rfl⟩
  have whole : tickSeconds s = e := by rw [ee, ed, ec, eb, ea]; rfl
  have fa : a = { s with cells := a.cells, queues := a.queues, free := a.free } := ea ▸ tickFlashes_frame s
  have fb : b = { a with lines := b.lines } := eb ▸ tickDarks_frame _ a
  have fc : c = { b with ribbonA := c.ribbonA, ribbonB := c.ribbonB } := by rw [ec]; rfl
  have fd : d = { c with tlines := d.tlines } := ed ▸ tickQuiets_frame _ c
  have fe : e = { d with terms := e.terms } := ee ▸ tickLapses_frame _ d
  have cterms : c.terms = s.terms := by rw [fc, fb, fa]
  have ctlines : c.tlines = s.tlines := by rw [fc, fb, fa]
  have dterms : d.terms = s.terms := by rw [fd, cterms]
  have ctline : ∀ n, c.tline n = s.tline n := fun n => by simp only [State.tline, ctlines]
  have etline : ∀ n, e.tline n = d.tline n := fun n => by simp only [State.tline]; rw [fe]
  have times : ∀ n, (d.tline n).lapseTime = (s.tline n).lapseTime := fun n => by
    have kept : LapseTimesKept c d :=
      ed ▸ forEach_rel LapseTimesKept.refl (fun _ _ _ => LapseTimesKept.trans) _ lapseTimesKept_tickQuiet c
    rw [kept n, ctline]
  have eterm : ∀ n, n < 64 → e.term n = (s.term n).tickLapse (s.tline (n / 16)).lapseTime := fun n hn => by
    rw [ee, tickLapses_term hn, times, term_of_terms dterms]
  have lapsed : ∀ n, Terminal.sameToRounds (d.term n) (e.term n) := fun n => by
    rw [ee]
    by_cases hn : n < 64
    · rw [tickLapses_term hn]
      exact Terminal.tickLapse_sameToRounds ..
    · rw [forEach_others tickLapse State.term (fun n s m h => (tickLapse_frame n s).2.1 m h) _ _ _ (by simpa [termNos] using hn)]
      exact ⟨rfl, .inl rfl⟩
  rw [whole]
  refine ⟨by rw [fe, fd, fc, fb, ea], by rw [fe, fd, fc, fb, ea], fun n hn => ?_, fun id => ?_, fun n hn => ?_, eterm⟩
  · have line : e.line n = b.line n := by simp only [State.line]; rw [fe, fd, fc]
    have start : a.line n = s.line n := by simp only [State.line]; rw [fa]
    have own := read_forEach State.line BoardLine.ticked tickDark_line_same (fun n s m h => (tickDark_frame n s).2 m h)
      lineNos List.nodup_range a n
    rw [line, eb, own, if_pos (show n ∈ lineNos from List.mem_range.2 hn), start]
  · have ribbon : e.ribbon id = c.ribbon id := ribbon_of_ribbons (by rw [fe, fd]) (by rw [fe, fd]) id
    have start : b.ribbon id = s.ribbon id := ribbon_of_ribbons (by rw [fb, fa]) (by rw [fb, fa]) id
    rw [ribbon, ec, ← start]
    cases id <;> rfl
  · exact (ed ▸ tickQuiets_ticked hn c : QuietTicked n c d).of_reads (ctline n).symm cterms.symm (etline n) lapsed

theorem SecondsTicked.setFree {s e : State} (h : SecondsTicked s e) (k : Nat) : SecondsTicked s (e.setFree k) where
  cells := h.cells
  queues := h.queues
  lines := h.lines
  ribbons id := by rw [← h.ribbons id]; cases id <;> rfl
  tlines n hn := (h.tlines n hn).of_reads rfl rfl rfl fun _ => ⟨rfl, .inl rfl⟩
  terms := h.terms

/-! ### The holds of the referral windows (R183) -/

/-- R183: a request record given the result NO-ANSWER. -/
def RequestRecord.unanswered (r : RequestRecord) : RequestRecord :=
  { r with state := .answered, result := some (DealerResult.ofCode .noAnswer) }

/-- R183: every request record stands, or has been given the result NO-ANSWER. -/
def RecordsExpired (s u : State) : Prop :=
  ∀ n, (u.term n).record = (s.term n).record ∨ (u.term n).record = (s.term n).record.unanswered

theorem RecordsExpired.refl (s : State) : RecordsExpired s s := fun _ => .inl rfl

theorem RecordsExpired.trans {s t u : State} (h1 : RecordsExpired s t) (h2 : RecordsExpired t u) : RecordsExpired s u :=
  fun n => by
    rcases h1 n with e1 | e1 <;> rcases h2 n with e2 | e2 <;> rw [e2, e1]
    · exact .inl rfl
    · exact .inr rfl
    · exact .inr rfl
    · exact .inr rfl

/-- A record given NO-ANSWER once keeps it through other expiries. -/
theorem RecordsExpired.stays {s u : State} (h : RecordsExpired s u) {n : Nat} {r : RequestRecord}
    (hr : (s.term n).record = r.unanswered) : (u.term n).record = r.unanswered := by
  rcases h n with e | e <;> rw [e, hr]
  rfl

theorem tickReferral_held {w : Nat} {s : State} {h : HeldSlot} (hs : (s.window w).slot = some h) :
    tickReferral w s = if h.limit ≤ h.elapsed + 1 then expireHeld w h s
      else s.setWindow w { s.window w with slot := some { h with elapsed := h.elapsed + 1 } } := by
  rw [tickReferral, hs]

theorem expireHeld_window (w : Nat) (h : HeldSlot) (s : State) :
    (expireHeld w h s).window w = { s.window w with slot := none, outcome := .expired } := by
  rw [expireHeld, State.raise_frame]
  exact State.window_setWindow_same ..

theorem expireHeld_record (w : Nat) (h : HeldSlot) (s : State) :
    ((expireHeld w h s).term (termNo h.line h.addr)).record = (s.term (termNo h.line h.addr)).record.unanswered := by
  rw [expireHeld, State.raise_term]
  exact congrArg Terminal.record (State.term_setTerm_same ..)

theorem recordsExpired_tickReferral (w : Nat) (s : State) : RecordsExpired s (tickReferral w s) := by
  cases hs : (s.window w).slot with
  | none => rw [tickReferral, hs]; exact .refl s
  | some h =>
    rw [tickReferral_held hs]
    split
    · intro n
      by_cases e : n = termNo h.line h.addr
      · rw [e]
        exact .inr (expireHeld_record w h s)
      · refine .inl ?_
        rw [expireHeld, State.raise_term]
        exact congrArg Terminal.record (State.term_setTerm_other _ e _)
    · exact .refl _

/-- R51, R183: the windows' counts come last, each window with a held request once. -/
theorem tickCounts_windows (s : State) : ∃ l k, tickCounts s = forEach l tickReferral ((tickSeconds s).setFree k) ∧
    l.Nodup ∧ ∀ w, w ∈ l ↔ w < 4 ∧ (s.window w).slot ≠ none := by
  obtain ⟨e, he⟩ : ∃ e, e = tickSeconds s := ⟨_, rfl⟩
  obtain ⟨held, hh⟩ : ∃ held, held = windowNos.filter (fun w => (e.window w).slot.isSome) := ⟨_, rfl⟩
  have order := freeOrder_perm held.length e.free held le_rfl
  have frame : s.SecondsFrame e := he ▸ (tickSeconds_counted s).frame
  have window : ∀ w, e.window w = s.window w := fun w => by rw [frame]; rfl
  refine ⟨freeOrder held.length e.free held, e.free + held.length, by rw [tickCounts_eq, hh, he], ?_, fun w => ?_⟩
  · rw [order.nodup_iff, hh]
    exact List.nodup_range.filter _
  · rw [order.mem_iff, hh, List.mem_filter, window, windowNos, List.mem_range, Option.isSome_iff_ne_none]

/-- R183: what one tick makes of a window and of the record that its hold names. -/
structure WindowTicked (w : Nat) (s u : State) : Prop where
  empty : (s.window w).slot = none → u.window w = s.window w
  runs : ∀ h, (s.window w).slot = some h → h.elapsed + 1 < h.limit →
    u.window w = { s.window w with slot := some { h with elapsed := h.elapsed + 1 } }
  expires : ∀ h, (s.window w).slot = some h → h.limit ≤ h.elapsed + 1 →
    u.window w = { s.window w with slot := none, outcome := .expired } ∧
      (u.term (termNo h.line h.addr)).record = (s.term (termNo h.line h.addr)).record.unanswered

theorem tickReferrals_ticked {l : List Nat} (hl : l.Nodup) (s : State) (w : Nat)
    (listed : (s.window w).slot ≠ none → w ∈ l) : WindowTicked w s (forEach l tickReferral s) := by
  have other : ∀ n s m, m ≠ n → (tickReferral n s).window m = s.window m := fun n s m h =>
    (tickReferral_ticked n s).windows m (by simpa using h)
  have expired : ∀ l s, RecordsExpired s (forEach l tickReferral s) := fun l s =>
    forEach_rel RecordsExpired.refl (fun _ _ _ => RecordsExpired.trans) l recordsExpired_tickReferral s
  have turn : ∀ h, (s.window w).slot = some h → ∃ a b, l = a ++ w :: b ∧
      (forEach a tickReferral s).window w = s.window w ∧
      (forEach l tickReferral s).window w = (tickReferral w (forEach a tickReferral s)).window w := fun h hs =>
    read_forEach_turn (read := State.window) other hl (listed (by simp [hs])) s
  refine ⟨fun hs => ?_, fun h hs hlt => ?_, fun h hs hle => ?_⟩
  · by_cases hw : w ∈ l
    · obtain ⟨a, b, -, before, own⟩ := read_forEach_turn (read := State.window) other hl hw s
      have none : ((forEach a tickReferral s).window w).slot = .none := by rw [before, hs]
      rw [own, tickReferral, none]
      exact before
    · exact forEach_others tickReferral State.window other l s w hw
  · obtain ⟨a, b, -, before, own⟩ := turn h hs
    rw [own, tickReferral_held (before ▸ hs), if_neg (by omega), State.window_setWindow_same, before]
  · obtain ⟨a, b, el, before, own⟩ := turn h hs
    have step := tickReferral_held (before ▸ hs : ((forEach a tickReferral s).window w).slot = some h)
    rw [if_pos hle] at step
    refine ⟨by rw [own, step, expireHeld_window, before], ?_⟩
    have here : ((tickReferral w (forEach a tickReferral s)).term (termNo h.line h.addr)).record =
        (s.term (termNo h.line h.addr)).record.unanswered := by
      rw [step, expireHeld_record]
      rcases expired a s (termNo h.line h.addr) with e | e <;> rw [e]
      rfl
    rw [el, forEach_append, forEach_cons]
    exact (expired b _).stays here

/-! ### The schedule's test at a minute boundary (R53) -/

theorem guard_iff (b : Bool) (p : Prop) [Decidable p] : (!b || decide p) = true ↔ (b = true → p) := by
  cases b <;> simp

theorem DaySelector.holds_iff (c : Clock) (d : DaySelector) : d.holds c = true ↔
    (∃ set, d = .weekdays set ∧ set.getLsbD c.weekday = true) ∨ d = .date c.day := by
  cases d with
  | weekdays set => simp [DaySelector.holds]
  | date d => simpa [DaySelector.holds] using eq_comm

theorem mem_matchingEntries (s : State) (n : Nat) :
    let e := s.schedEntry n
    let c := s.clock
    n ∈ matchingEntries s ↔ n < 16 ∧ e.enabled = true ∧ (e.hourMatch = true → c.second / 3600 = e.hour) ∧
      (e.minuteMatch = true → c.second % 3600 / 60 = e.minute) ∧
      (e.dayMatch = true → (∃ set, e.selector = .weekdays set ∧ set.getLsbD c.weekday = true) ∨
        e.selector = .date c.day) := by
  intro e c
  have day : (!e.dayMatch || e.selector.holds c) = true ↔ (e.dayMatch = true → e.selector.holds c = true) := by
    cases e.dayMatch <;> simp
  rw [matchingEntries, List.mem_filter, schedNos, List.mem_range, SchedEntry.holds, Bool.and_eq_true, Bool.and_eq_true,
    Bool.and_eq_true, guard_iff, guard_iff, day, DaySelector.holds_iff, and_assoc, and_assoc]

/-! ### A second tick -/

/-- R53: a second that is no minute boundary of a set clock tests no entry. -/
theorem minuteTest_of_other {s : State} (h : s.clock.state = .unset ∨ s.clock.second % 60 ≠ 0) : minuteTest s = s :=
  if_neg (by simpa [minuteBoundary, imp_iff_not_or] using h)

/-- R53, R54: at a minute boundary of a set clock the matching entries are applied, each with its decision. -/
theorem minuteTest_of_boundary {s : State} (h : s.clock.state ≠ .unset) (h0 : s.clock.second % 60 = 0) :
    minuteTest s = (matchingEntries s).foldl (fun v n => settle v (applyEntry n v)) s :=
  if_pos (by simp [minuteBoundary, h, h0])

/-- R54: what each kind of matching entry does. -/
theorem applyEntry_spec (s : State) (n : Nat) :
    let e := s.schedEntry n
    (e.target = s.session.state → applyEntry n s = s) ∧
    (e.target ≠ s.session.state → legalTransition s.session.state e.target = false →
      applyEntry n s = skipEntry n .illegal s) ∧
    (legalTransition s.session.state e.target = true → e.target = .preOpen → s.walkActive = true →
      applyEntry n s = skipEntry n .walk s) ∧
    (legalTransition s.session.state e.target = true → ¬(e.target = .preOpen ∧ s.walkActive = true) →
      applyEntry n s = makeTransition e.target s) := by
  intro e
  have moves : legalTransition s.session.state e.target = true → e.target ≠ s.session.state := fun hl he => by
    rw [he, legalTransition_self] at hl
    cases hl
  have unfolded : applyEntry n s = if e.target = s.session.state then s
      else if !legalTransition s.session.state e.target then skipEntry n .illegal s
      else if e.target = .preOpen ∧ s.walkActive then skipEntry n .walk s
      else makeTransition e.target s := rfl
  rw [unfolded]
  refine ⟨fun he => if_pos he, fun he hl => ?_, fun hl hp hw => ?_, fun hl hw => ?_⟩
  · rw [if_neg he, if_pos (by simp [hl])]
  · rw [if_neg (moves hl), if_neg (by simp [hl]), if_pos ⟨hp, hw⟩]
  · rw [if_neg (moves hl), if_neg (by simp [hl]), if_neg hw]

/-- R51: what a tick's counts make of each object. -/
structure CountsTicked (s u : State) : Prop where
  cells : ∀ c, u.cell c = { s.cell c with flashCount := (s.cell c).flashCount - 1 }
  offered : Offered (expiringCells s) s u
  lines : ∀ n, n < 8 → u.line n = (s.line n).ticked
  ribbons : ∀ id, u.ribbon id = (s.ribbon id).tick
  tlines : ∀ n, n < 4 → QuietTicked n s u
  terms : ∀ n, n < 64 → u.term n = { (s.term n).tickLapse (s.tline (n / 16)).lapseTime with record := (u.term n).record }
  windows : ∀ w, w < 4 → WindowTicked w s u

theorem tickCounts_ticked {s : State} (hw : s.tablesWf) : CountsTicked s (tickCounts s) := by
  obtain ⟨-, -, cellsWf, -⟩ := hw
  obtain ⟨flashed, offered⟩ := tickFlashes_spec cellsWf
  obtain ⟨l, k, whole, nodup, listed⟩ := tickCounts_windows s
  have counted := (tickSeconds_counted s).setFree k
  have ticked := (tickSeconds_ticked s).setFree k
  generalize (tickSeconds s).setFree k = e at counted ticked whole
  rw [whole]
  have referrals := forEach_tickReferral l nodup e
  have window : ∀ w, e.window w = s.window w := fun w => by rw [counted.frame]; rfl
  have holds : ∀ w, w < 4 → WindowTicked w e (forEach l tickReferral e) := fun w hlt =>
    tickReferrals_ticked nodup e w fun hs => (listed w).2 ⟨hlt, by rwa [← window]⟩
  generalize forEach l tickReferral e = u at referrals holds
  have frame := referrals.frame
  have cells : u.cells = (tickFlashes s).cells := by rw [frame, ticked.cells]
  have queues : u.queues = (tickFlashes s).queues := by rw [frame, ticked.queues]
  refine ⟨fun c => ?_, offered.of_eq rfl rfl queues, fun n hn => ?_, fun id => ?_, fun n hn => ?_, fun n hn => ?_,
    fun w hw => ?_⟩
  · rw [cell_of_cells cells, flashed]
  · rw [← ticked.lines n hn, frame]; rfl
  · rw [← ticked.ribbons id]
    exact ribbon_of_ribbons (by rw [frame]) (by rw [frame]) id
  · refine (ticked.tlines n hn).of_reads rfl rfl (by rw [frame]; rfl) fun k => ?_
    rw [referrals.terms k]
    exact ⟨rfl, .inl rfl⟩
  · rw [← ticked.terms n hn]
    exact referrals.terms n
  · obtain ⟨empty, runs, expires⟩ := holds w hw
    rw [window] at empty runs expires
    exact ⟨empty, runs, by simpa only [counted.records] using expires⟩

/-- Settles O28: the parts of a tick (`tickCounts_frame`, `tickCounts_ticked`), and the minute-boundary test. -/
theorem tickReachesTheCounters : Obligations.TickReachesTheCounters := by
  refine ⟨fun s => ?_, fun s hw => ?_, mem_matchingEntries, fun s n => ?_⟩
  · intro s1 u
    have whole : secondTick s = minuteTest u := rfl
    rw [whole]
    exact ⟨minuteTest_of_other, fun h h0 => ⟨minuteTest_of_boundary h h0, List.pairwise_lt_range.filter _⟩⟩
  · intro u
    have parts := tickCounts_ticked hw
    obtain ⟨kept, others⟩ := tickCounts_frame s u rfl
    obtain ⟨-, -, -, noticed, -⟩ := id kept
    change CountsTicked s u at parts
    clear_value u
    refine ⟨⟨parts.cells, fun c hc hn => ?_, parts.offered.kept, fun n c hc => ?_, parts.offered.once⟩, kept, others,
      parts.lines, parts.ribbons, fun n hn => ?_, fun n hn => ?_, fun w hlt => ?_⟩
    · exact parts.offered.queued c ((mem_expiringCells s c).2 hc) hn
    · exact (parts.offered.others n c hc).imp id fun ⟨hm, hrest⟩ => ⟨(mem_expiringCells s c).1 hm, hrest⟩
    · obtain ⟨busy, counted, due⟩ := parts.tlines n hn
      exact ⟨busy, counted, due⟩
    · intro t count lapses
      have term := parts.terms n hn
      refine ⟨fun hs => ?_, fun hs hl => ?_, fun hs hl => ?_⟩
      · rwa [Terminal.tickLapse, if_neg hs] at term
      · rwa [Terminal.tickLapse, if_pos hs, if_neg hl] at term
      · rwa [Terminal.tickLapse, if_pos hs, if_pos hl] at term
    · obtain ⟨empty, runs, expires⟩ := parts.windows w hlt
      refine ⟨empty, fun h hs => ⟨runs h hs, fun hle => ?_⟩⟩
      obtain ⟨window, record⟩ := expires h hs hle
      have out : w ∈ (List.range 4).filter s.runsOut :=
        List.mem_filter.2 ⟨List.mem_range.2 hlt, by simp [State.runsOut, hs, hle]⟩
      exact ⟨window, noticed.listed _ (List.mem_map_of_mem out), record⟩
  · intro e skipped
    obtain ⟨same, illegal, walk, legal⟩ := applyEntry_spec s n
    refine ⟨same, fun he hl => ?_, fun hl hp hwalk => ?_, legal⟩
    · rw [illegal he hl]
      exact skipEntry_spec n .illegal s
    · rw [walk hl hp hwalk]
      exact skipEntry_spec n .walk s

end Sys2Proof.Machine
end

section
/-! Proofs: who requests the Format Unit, and the arbiter's decision (R61 to R65). -/

namespace Sys2Proof.Machine

/-! ### Requests (R61 to R63) -/

/-- R61. -/
theorem requests_board {n : Nat} (hn : n < 8) (s : State) :
    requests n s = true ↔ (s.line n).state = .lit ∧ s.refreshQueue n ≠ [] := by
  rw [requests, if_pos hn]
  simp [boardRequests]

/-- R62. -/
theorem requests_ribbon (id : RibbonId) (s : State) : requests (8 + RibbonId.code id) s = true ↔
    (s.ribbon id).state = .running ∧ (s.ribbon id).queue ≠ [] ∧ (s.ribbon id).fifo.length ≤ 22 := by
  have reads : requests (8 + RibbonId.code id) s = ribbonRequests id s := by cases id <;> rfl
  rw [reads]
  simp only [ribbonRequests, Bool.and_eq_true, decide_eq_true_eq, Bool.not_eq_true', List.isEmpty_eq_false_iff, and_assoc]
  exact Iff.rfl

/-- R63: a terminal line requests exactly when it has a terminal to serve. -/
theorem requests_tline (n : Nat) (s : State) : requests (10 + n) s = (nextEligible n s).isSome := by
  unfold requests
  rw [if_neg (by omega), if_neg (by omega), if_neg (by omega), Nat.add_sub_cancel_left, tlineRequests]

/-- R63: some address serves a ready terminal of the line. -/
theorem nextEligible_isSome_iff (n : Nat) (s : State) :
    (nextEligible n s).isSome = true ↔ ∃ a, a < 16 ∧ (s.term (termNo n a)).ready := by
  simp only [nextEligible, List.find?_isSome, afterPointer, List.mem_map, List.mem_range, Terminal.eligible_iff]
  constructor
  · rintro ⟨_, ⟨k, -, rfl⟩, h⟩
    exact ⟨_, Nat.mod_lt _ (by decide), h⟩
  · rintro ⟨a, ha, h⟩
    exact ⟨a, ⟨(a + 31 - (s.tline n).compose % 16) % 16, by omega, by omega⟩, h⟩

/-- R62: an URGENT ribbon. -/
theorem urgent_ribbon (id : RibbonId) (s : State) :
    urgent (8 + RibbonId.code id) s = true ↔ requests (8 + RibbonId.code id) s = true ∧ (s.ribbon id).fifo.length < 16 := by
  have reads : urgent (8 + RibbonId.code id) s = ribbonUrgent id s ∧ requests (8 + RibbonId.code id) s = ribbonRequests id s := by
    cases id <;> exact ⟨rfl, rfl⟩
  rw [reads.1, reads.2]
  rw [ribbonUrgent, Bool.and_eq_true, decide_eq_true_eq, Config.fifoUrgentLimit]

/-! ### The decision (R65) -/

/-- R65, step 2: the run goes on. -/
theorem runGoesOn_eq_some {s : State} {h : Nat} (hh : s.fu.holder = some h) (hr : requests h s = true)
    (hc : s.fu.runCount < s.fu.runLength) : runGoesOn s = some h := by
  simp [runGoesOn, hh, hr, hc]

theorem runGoesOn_eq_none {s : State}
    (h : ∀ p, s.fu.holder = some p → requests p s = true → s.fu.runLength ≤ s.fu.runCount) : runGoesOn s = none := by
  unfold runGoesOn
  cases hh : s.fu.holder with
  | none => rfl
  | some p => exact if_neg fun g => absurd (h p hh g.1) (Nat.not_le.2 g.2)

/-- R65, step 3: the requester with the least way to go after the pointer comes first in circular order. -/
theorem roundOrder_find {pointer p : Nat} {asks : Nat → Bool} (hptr : pointer < 14) (hp : p < 14) (ha : asks p = true)
    (hmin : ∀ q, q < 14 → asks q = true → (p + 13 - pointer) % 14 ≤ (q + 13 - pointer) % 14) :
    (roundOrder pointer).find? asks = some p := by
  unfold roundOrder
  rw [List.find?_map, Option.map_eq_some_iff]
  have place : (pointer + 1 + (p + 13 - pointer) % 14) % 14 = p := by omega
  refine ⟨(p + 13 - pointer) % 14, List.find?_range_eq_some.2 ⟨?_, by simp; omega, fun j hj => ?_⟩, place⟩
  · simpa only [Function.comp_apply, place] using ha
  · simp only [Function.comp_apply, Bool.not_eq_true', ← Bool.not_eq_true]
    intro g
    have := hmin _ (by omega) g
    omega

theorem mem_roundOrder_lt {pointer p : Nat} (h : p ∈ roundOrder pointer) : p < 14 := by
  obtain ⟨k, -, rfl⟩ := List.mem_map.1 h
  exact Nat.mod_lt _ (by decide)

/-- R65, step 1: an urgency grant, ribbon A first. -/
theorem arbitrate_urgentA {s : State} (h : urgent 8 s = true) : arbitrate s = grantUrgent 8 s := if_pos h

theorem arbitrate_urgentB {s : State} (ha : urgent 8 s = false) (hb : urgent 9 s = true) :
    arbitrate s = grantUrgent 9 s := by simp [arbitrate, ha, hb]

/-- R65, step 2: with nobody URGENT, the run goes on. -/
theorem arbitrate_run {s : State} {h : Nat} (ha : urgent 8 s = false) (hb : urgent 9 s = false)
    (hr : runGoesOn s = some h) : arbitrate s = grantRun h s := by simp [arbitrate, ha, hb, hr]

/-- R65, step 3: with no run, the first requester in circular order. -/
theorem arbitrate_round {s : State} {p : Nat} (ha : urgent 8 s = false) (hb : urgent 9 s = false)
    (hr : runGoesOn s = none) (hp : (roundOrder s.fu.pointer).find? (fun p => requests p s) = some p) :
    arbitrate s = grantRound p s := by simp [arbitrate, ha, hb, hr, hp]

/-- R64: with no requester, the unit is IDLE. -/
theorem arbitrate_idle {s : State} (ha : urgent 8 s = false) (hb : urgent 9 s = false) (hr : runGoesOn s = none)
    (hp : (roundOrder s.fu.pointer).find? (fun p => requests p s) = none) : arbitrate s = goIdle s := by
  unfold arbitrate
  rw [ha, hb, hr, hp]
  rfl

/-- Settles O31: the requests (`requests_board`, `requests_ribbon`, `nextEligible_isSome_iff`), and the steps of R65 in turn. -/
theorem arbiterGrantsInOrder : Obligations.ArbiterGrantsInOrder := by
  refine ⟨fun s => ⟨fun n hn => requests_board hn s, requests_ribbon .a s, requests_ribbon .b s, fun n _ => ?_,
    urgent_ribbon .a s, urgent_ribbon .b s, fun p h8 h9 => by simp [urgent, h8, h9]⟩, ?_⟩
  · rw [requests_tline]
    exact nextEligible_isSome_iff n s
  · intro s hptr granted
    refine ⟨fun h => arbitrate_urgentA h, fun ha hb => arbitrate_urgentB ha hb, fun ha hb => ⟨fun h hh hr hc => ?_,
      fun ended => ⟨fun p hp hr hmin => ?_, fun none => ?_⟩⟩⟩
    · exact arbitrate_run ha hb (runGoesOn_eq_some hh hr hc)
    · exact arbitrate_round ha hb (runGoesOn_eq_none ended) (roundOrder_find (asks := fun p => requests p s) hptr hp hr hmin)
    · exact arbitrate_idle ha hb (runGoesOn_eq_none ended)
        (List.find?_eq_none.2 fun p hp => by simp [none p (mem_roundOrder_lt hp)])

end Sys2Proof.Machine
end

section
/-! Proofs: what follows a command, and what the start of a job leaves its requester and the others (R64 to R69, R72). -/

namespace Sys2Proof.Machine

/-! ### BOARD jobs (R67) -/

/-- R67: the start of a BOARD job reads one entry at most: queues grow at the tail, and rows are marked. -/
theorem startBoardJob_grows {line c : Nat} {rest : List Nat} {s : State} (hq : s.refreshQueue line = c :: rest) :
    (∀ n, (s.setQueue line rest).refreshQueue n <+: (startBoardJob line s).refreshQueue n) ∧
      ∀ n, RowsGrown (s.term n) ((startBoardJob line s).term n) := by
  obtain ⟨-, -, -, -, -, -, -, -, -, -, fresh, stale, -⟩ := boardJobTakesTheHeadCell line c rest s hq
  by_cases h : ∃ i, (s.cell c).binding = some i ∧ (s.entry i).stale s.dayNumber = true
  · obtain ⟨i, hi, hs⟩ := h
    obtain ⟨-, -, offered, marked⟩ := stale i hi hs
    exact ⟨offered.kept, marked.grown⟩
  · obtain ⟨queues, -, terms⟩ := fresh fun i hi => Bool.not_eq_true _ ▸ fun hs => h ⟨i, hi, hs⟩
    refine ⟨fun n => ?_, fun n => ?_⟩
    · simp only [State.refreshQueue, queues]
      exact List.prefix_refl _
    · rw [term_of_terms terms]
      exact ⟨rfl, fun _ h => h⟩

theorem jobStarted_board {p : Nat} {s : State} (hp : p < 8) (hq : s.refreshQueue p ≠ []) :
    JobStarted p s (startBoardJob p s) := by
  obtain ⟨c, rest, hq⟩ := List.exists_cons_of_ne_nil hq
  obtain ⟨queues, grown⟩ := startBoardJob_grows hq
  obtain ⟨_, _, _, _, _, frame, -, others, -, ⟨-, -, counted⟩, -⟩ := boardJobTakesTheHeadCell p c rest s hq
  have job := jobFrame_startBoardJob s p
  generalize startBoardJob p s = u at *
  refine ⟨job, ⟨_, by rw [frame], rfl⟩, by rw [frame], by rw [frame], fun d hd => ?_, fun n hn => ?_, fun _ => ?_,
    fun id _ => ribbon_of_ribbons (by rw [frame]) (by rw [frame]) id, fun n _ => by rw [frame]; rfl,
    fun h => by omega, fun n _ => grown n, by rw [if_pos hp]; exact counted⟩
  · exact others d fun e => hd ⟨hp, by rw [hq, e]; rfl⟩
  · have := queues n
    rwa [State.refreshQueue_setQueue_other s (fun e => hn ⟨hp, e⟩)] at this
  · have := queues p
    rwa [State.refreshQueue_setQueue_same, ← show (s.refreshQueue p).tail = rest by rw [hq]; rfl] at this

/-! ### RIBBON jobs (R68, R126) -/

/-- R126: a queue is records that the head-skip discards, and one that it does not. -/
theorem exists_headSkip {q : List PrintRecord} (h : q ≠ []) : ∃ before rec rest, q = before ++ rec :: rest ∧
    ¬skipped rec rest ∧ ∀ a p b, before = a ++ p :: b → skipped p (b ++ rec :: rest) := by
  induction q with
  | nil => exact absurd rfl h
  | cons p l ih =>
    by_cases hs : skipped p l
    · have more : l ≠ [] := by
        obtain ⟨-, -, -, x, hx, -⟩ := hs
        exact List.ne_nil_of_mem hx
      obtain ⟨before, rec, rest, rfl, hrec, hbefore⟩ := ih more
      refine ⟨p :: before, rec, rest, rfl, hrec, fun a x b e => ?_⟩
      rcases List.cons_eq_append_iff.1 e with ⟨rfl, e⟩ | ⟨a', rfl, e⟩
      · obtain ⟨rfl, rfl⟩ := List.cons_eq_cons.1 e
        exact hs
      · exact hbefore a' x b (List.cons_eq_cons.1 e).2
    · exact ⟨[], p, l, rfl, hs, by simp⟩

/-- R122, R124: an evaluation counts rises alone. -/
theorem evalMode_counted (id : RibbonId) (s : State) : s.onlyCounted (evalMode id s) [.rbModeRises] := by
  obtain ⟨other, hne⟩ : ∃ other : RibbonId, other ≠ id := by cases id; exacts [⟨.b, by decide⟩, ⟨.a, by decide⟩]
  obtain ⟨-, -, counted, -⟩ := modeEvaluation id other s hne
  exact counted

/-- R68, R126: what the start of a RIBBON job leaves, whichever records the head-skip discards. -/
theorem startRibbonJob_parts {id : RibbonId} {s : State} (hq : (s.ribbon id).queue ≠ []) : ∃ (x : Ribbon) (n : Nat) (job : Job),
    let v := evalMode id ((s.setRibbon id x).advance .rbSkipped n)
    let u := startRibbonJob id s
    job.requester = 8 + RibbonId.code id ∧ u = { v with fu := u.fu, ribbonA := u.ribbonA, ribbonB := u.ribbonB } ∧
      (∀ other, other ≠ id → u.ribbon other = s.ribbon other) ∧ u.fu = { s.fu with job := some job } := by
  have finds : ∃ before rec rest, (s.ribbon id).queue = before ++ rec :: rest ∧
      ((s.ribbon id).mode ≠ .sample → before = []) ∧ ((s.ribbon id).mode = .sample → ¬skipped rec rest ∧
        ∀ a p b, before = a ++ p :: b → skipped p (b ++ rec :: rest)) := by
    by_cases hm : (s.ribbon id).mode = .sample
    · obtain ⟨before, rec, rest, e, hskip⟩ := exists_headSkip hq
      exact ⟨before, rec, rest, e, fun h => absurd hm h, fun _ => hskip⟩
    · obtain ⟨rec, rest, e⟩ := List.exists_cons_of_ne_nil hq
      exact ⟨[], rec, rest, e, fun _ => rfl, fun h => absurd h hm⟩
  obtain ⟨before, rec, rest, e, h1, h2⟩ := finds
  obtain ⟨other, hne⟩ : ∃ other : RibbonId, other ≠ id := by cases id; exacts [⟨.b, by decide⟩, ⟨.a, by decide⟩]
  obtain ⟨frame, -, kept, fu⟩ := ribbonJobTakesARecord id other s before rest rec hne e h1 h2
  refine ⟨_, _, _, ?_, frame, fun k hk => ?_, fu⟩
  · rfl
  · obtain rfl : k = other := by cases id <;> cases k <;> cases other <;> first | rfl | contradiction
    exact kept

theorem jobStarted_ribbon {id : RibbonId} {s : State} (hq : (s.ribbon id).queue ≠ []) :
    JobStarted (8 + RibbonId.code id) s (startRibbonJob id s) := by
  obtain ⟨x, n, job, requester, frame, others, fu⟩ := startRibbonJob_parts hq
  have started := jobFrame_startRibbonJob s id
  have counted := evalMode_counted id ((s.setRibbon id x).advance .rbSkipped n)
  obtain ⟨hv, -, -, -, noticed⟩ := evalMode_offered id ((s.setRibbon id x).advance .rbSkipped n)
  have hcode : RibbonId.code id < 2 := by cases id <;> decide
  generalize startRibbonJob id s = u at *
  generalize evalMode id _ = v at *
  have cells : u.cells = s.cells := by rw [frame, hv]; simp
  have queues : u.queues = s.queues := by rw [frame, hv]; simp
  have tlines : u.tlines = s.tlines := by rw [frame, hv]; simp
  have terms : u.terms = s.terms := by rw [frame, hv]; simp
  have same : ∀ m, u.refreshQueue m = s.refreshQueue m := fun m => by simp only [State.refreshQueue, queues]
  refine ⟨started, ⟨job, fu, requester⟩, by rw [frame, hv]; simp, ?_, fun c _ => cell_of_cells cells c,
    fun m _ => same m ▸ List.prefix_refl _, fun h => by omega, fun k hk => others k fun e => hk (e ▸ rfl),
    fun m _ => by simp only [State.tline, tlines], fun h => by omega, fun m _ => ?_, fun k hk => ?_⟩
  · have kept := noticed.kept
    rw [frame]
    simpa using kept
  · rw [term_of_terms terms]
    exact ⟨rfl, fun _ h => h⟩
  · rw [if_neg (by omega), if_pos (by omega), List.mem_cons, List.mem_singleton, not_or] at hk
    have hu : u.counter k = v.counter k := counter_of_counters (by rw [frame]) k
    rw [hu, counted k (by simpa using hk.2), State.counter_advance_other _ hk.1, State.setRibbon_counter]

/-! ### TERMINAL jobs (R69, R152) -/

/-- R69, R152: a block composed changes its terminal alone, and reads some entries. -/
theorem compose_reads (n : Nat) (c : BlockChoice) (s : State) :
    ∃ is x, EntriesRead is (s.setTerm n x) (compose n c s).2 := by
  cases c with
  | reply => exact ⟨_, _, touchAll_read _ _⟩
  | bell slot => exact ⟨_, _, touchAll_read _ _⟩
  | page => exact ⟨_, _, touchAll_read _ _⟩
  | status => exact ⟨_, _, EntriesRead.nil _⟩
  | idle => exact ⟨_, _, EntriesRead.nil _⟩
  | rows => exact ⟨_, _, touchAll_read _ _⟩

theorem jobStarted_terminal {line : Nat} {s : State} (h : (nextEligible line s).isSome = true) :
    JobStarted (10 + line) s (startTerminalJob line s) := by
  obtain ⟨a, ha⟩ := Option.isSome_iff_exists.1 h
  have eligible : (s.term (termNo line a)).eligible = true :=
    List.find?_some (p := fun a => (s.term (termNo line a)).eligible) ha
  obtain ⟨c, hc⟩ : ∃ c, (s.term (termNo line a)).choice = some c := by
    simp only [Terminal.eligible, Bool.and_eq_true] at eligible
    exact Option.isSome_iff_exists.1 eligible.2
  obtain ⟨is, x, reads⟩ := compose_reads (termNo line a) c (s.setTLine line { s.tline line with compose := a })
  obtain ⟨⟨b, v⟩, made⟩ : ∃ made, made = compose (termNo line a) c (s.setTLine line { s.tline line with compose := a }) :=
    ⟨_, rfl⟩
  rw [← made] at reads
  obtain ⟨frame, own, others, -⟩ := terminalJob_made ha hc made.symm reads
  have started := jobFrame_startTerminalJob s line
  obtain ⟨-, hv, -, -, offered, grown, -⟩ := reads
  generalize startTerminalJob line s = u at *
  dsimp only at hv offered grown
  have kept : ∀ m, s.refreshQueue m <+: u.refreshQueue m := fun m => by rw [frame]; exact offered.kept m
  refine ⟨started, ⟨_, by rw [frame], rfl⟩, by rw [frame, hv]; rfl, by rw [frame, hv]; exact List.prefix_refl _,
    fun d _ => by rw [frame, hv]; rfl, fun m _ => kept m, fun h => by omega,
    fun id _ => ribbon_of_ribbons (by rw [frame, hv]; rfl) (by rw [frame, hv]; rfl) id,
    fun m hm => others m fun e => hm (by omega), fun _ => ⟨a, by rw [Nat.add_sub_cancel_left]; exact own⟩,
    fun m hm => ?_, fun k _ => counter_of_counters (by rw [frame, hv]; rfl) k⟩
  have away : m ≠ termNo line a := fun e => hm ⟨by omega, a, by rwa [Nat.add_sub_cancel_left], by
    rwa [Nat.add_sub_cancel_left]⟩
  have hu : u.term m = v.term m := by rw [frame]; rfl
  have grew := grown m
  rwa [State.term_setTerm_other _ away, ← hu] at grew

/-! ### The job of any requester (R66) -/

theorem jobStarted_startJob {p : Nat} {s : State} (hp : p < 14) (hr : requests p s = true) :
    JobStarted p s (startJob p s) := by
  unfold startJob
  split_ifs with h1 h2 h3
  · exact jobStarted_board h1 ((requests_board h1 s).1 hr).2
  · subst h2
    exact jobStarted_ribbon (id := .a) ((requests_ribbon .a s).1 hr).2.1
  · subst h3
    exact jobStarted_ribbon (id := .b) ((requests_ribbon .b s).1 hr).2.1
  · obtain ⟨line, rfl⟩ : ∃ line, p = 10 + line := ⟨p - 10, by omega⟩
    rw [requests_tline] at hr
    rw [Nat.add_sub_cancel_left]
    exact jobStarted_terminal hr

/-! ### What follows a command (R64, R65, R72, R199) -/

/-- R72: the unit was IDLE with a requester requesting. -/
theorem awaitsDecision_iff (s : State) :
    awaitsDecision s = true ↔ s.fu.job = none ∧ ∃ p, p < 14 ∧ requests p s = true := by
  have some_requester : (requesters s).isEmpty = false ↔ ∃ p, p < 14 ∧ requests p s = true := by
    rw [List.isEmpty_eq_false_iff_exists_mem]
    simp only [mem_requesters]
  rw [awaitsDecision, Bool.and_eq_true, Bool.not_eq_true', some_requester, Option.isNone_iff_eq_none]

theorem requesters_eq_nil {s : State} (h : ∀ p, p < 14 → requests p s = false) : requesters s = [] :=
  List.filter_eq_nil_iff.2 fun p hp => by simp [h p (List.mem_range.1 hp)]

theorem requesters_eq_singleton {s : State} {p : Nat} (hp : p < 14) (hr : requests p s = true)
    (alone : ∀ q, q < 14 → requests q s = true → q = p) : requesters s = [p] := by
  have nodup : (requesters s).Nodup := List.nodup_range.filter _
  refine List.perm_singleton.1 ((List.perm_ext_iff_of_nodup nodup (List.nodup_singleton p)).2 fun q => ?_)
  rw [mem_requesters, List.mem_singleton]
  exact ⟨fun h => alone q h.1 h.2, fun e => e ▸ ⟨hp, hr⟩⟩

section
variable {s u : State} (hj : u.fu.job = none) (ha : awaitsDecision s = false)
include hj ha

/-- R64: with no requester an IDLE unit stays so. -/
theorem settle_of_none (h : requesters u = []) : settle s u = goIdle u := by simp [settle, hj, ha, h]

/-- R64: an IDLE unit grants the one requester. -/
theorem settle_of_one {p : Nat} (h : requesters u = [p]) : settle s u = grantIdle p u := by simp [settle, hj, ha, h]

/-- R64: of several requesters an IDLE unit grants one that a free value names. -/
theorem settle_of_several {p q : Nat} (hp : p ∈ requesters u) (hq : q ∈ requesters u) (hne : p ≠ q) :
    ∃ k, k ∈ requesters u ∧ settle s u = grantIdle k (u.setFree (u.free + 1)) := by
  rcases settle_cases s u with ⟨h, -⟩ | ⟨-, h, -⟩ | ⟨-, -, h, -⟩ | ⟨k, -, -, h, -⟩ | ⟨k, -, -, -, hk, e⟩
  · exact absurd hj h
  · rw [ha] at h; cases h
  · rw [h] at hp; cases hp
  · rw [h, List.mem_singleton] at hp hq
    exact absurd (hp.trans hq.symm) hne
  · exact ⟨k, hk, e⟩

end

/-- Settles O3: the cases of `settle`, and the start of any requester's job (`jobStarted_startJob`). -/
theorem arbiterLeavesTheRest : Obligations.ArbiterLeavesTheRest := by
  refine ⟨fun s u => ?_, fun p s hp hr => jobStarted_startJob hp hr⟩
  intro v urgentGrant roundGrant waiting
  have idle : ¬waiting → awaitsDecision s = false := fun h => Bool.not_eq_true _ ▸ mt (awaitsDecision_iff s).1 h
  refine ⟨rfl, fun h => ?_, fun h hw => ?_, fun h hw => ⟨fun none => ?_, fun p hp hr alone => ?_,
    fun p q hp hq hne hrp hrq => ?_⟩⟩
  · obtain ⟨j, hj⟩ := Option.ne_none_iff_exists'.1 h
    simp only [v, settle, hj]
  · simp only [v, settle, h, (awaitsDecision_iff s).2 hw, if_true]
  · exact settle_of_none h (idle hw) (requesters_eq_nil none)
  · exact settle_of_one h (idle hw) (requesters_eq_singleton hp hr alone)
  · obtain ⟨k, hk, e⟩ := settle_of_several h (idle hw) ((mem_requesters u p).2 ⟨hp, hrp⟩)
      ((mem_requesters u q).2 ⟨hq, hrq⟩) hne
    obtain ⟨hk, hrk⟩ := (mem_requesters u k).1 hk
    exact ⟨k, hk, hrk, e⟩

end Sys2Proof.Machine
end

section
/-! Proofs: FORMAT-SET, BOARD-SET, WINDOW-SET and TLINE-SET (R71, R89, R138, R143, R178). -/

namespace Sys2Proof.Machine

/-! ### The checks (R71, R89, R138, R178) -/

theorem WindowBody.inRange_iff (b : WindowBody) : b.inRange = true ↔ b.window ≤ 3 ∧ b.k ≤ 10 ∧ b.base ≤ 1023 ∧
    b.base % 2 ^ b.k = 0 ∧ b.kinds.toNat < 8 ∧ 5 ≤ b.limit ∧ b.limit ≤ 120 := by
  simp only [WindowBody.inRange, Bool.and_eq_true, decide_eq_true_eq, and_assoc]

theorem TLineBody.inRange_iff (b : TLineBody) : b.inRange = true ↔ b.line ≤ 3 ∧ 1 ≤ b.quietInterval ∧
    b.quietInterval ≤ 10 ∧ 20 ≤ b.slotLimit ∧ b.slotLimit ≤ 200 ∧ 1 ≤ b.retryLimit ∧ b.retryLimit ≤ 15 ∧
    b.lapseTime ≤ 60 := by
  simp only [TLineBody.inRange, Bool.and_eq_true, decide_eq_true_eq, and_assoc]

theorem pollModeOf_eq_none_iff (n : Nat) : pollModeOf n = none ↔ 1 < n := by
  simp [pollModeOf]

/-! ### A round that begins when it may (R143) -/

/-- R143: a round begins on an idle line with an admitted terminal, and on no other. -/
theorem startRoundIfIdle_of_idle {line : Nat} {s : State} (hr : (s.tline line).round = none) (ha : s.admitted line) :
    startRoundIfIdle line s = startRound line s :=
  if_pos ⟨Option.isNone_iff_eq_none.2 hr, (anyAdmitted_iff s line).2 ha⟩

theorem startRoundIfIdle_of_not {line : Nat} {s : State} (h : ¬((s.tline line).round = none ∧ s.admitted line)) :
    startRoundIfIdle line s = s :=
  if_neg fun g => h ⟨Option.isNone_iff_eq_none.1 g.1, (anyAdmitted_iff s line).1 g.2⟩

theorem startRoundIfIdle_frame (line : Nat) (s : State) :
    startRoundIfIdle line s = { s with tlines := (startRoundIfIdle line s).tlines } ∧
      s.otherLinesKept (startRoundIfIdle line s) line := by
  by_cases h : (s.tline line).round = none ∧ s.admitted line
  · rw [startRoundIfIdle_of_idle h.1 h.2]
    exact startRound_frame s line
  · rw [startRoundIfIdle_of_not h]
    exact ⟨rfl, fun _ _ => rfl⟩

/-! ### TLINE-SET (R138, R143) -/

/-- R138: values out of range. -/
theorem tlineSetRule_refused {b : TLineBody} (h : ¬(b.poll ≤ 1 ∧ b.inRange = true)) (s : State) :
    tlineSetRule b s = Served.refuse .range s := by
  unfold tlineSetRule
  cases hp : pollModeOf b.poll with
  | none => rfl
  | some p =>
    have hpoll : b.poll ≤ 1 := Nat.not_lt.1 fun g => by simp [(pollModeOf_eq_none_iff _).2 g] at hp
    exact if_pos (by simpa using fun g => h ⟨hpoll, g⟩)

/-- R138, R143: the items replaced, and the round that a line which leaves QUIET for CONTINUOUS begins. -/
theorem tlineSetRule_done {b : TLineBody} {p : PollMode} (hp : pollModeOf b.poll = some p) (hr : b.inRange = true)
    (s : State) : ∃ v, tlineSetRule b s = Served.reply [] v ∧ v = { s with tlines := v.tlines } ∧
      s.otherLinesKept v b.line ∧
      let l := { s.tline b.line with
        poll := p, quietInterval := b.quietInterval, slotLimit := b.slotLimit, retryLimit := b.retryLimit
        lapseTime := b.lapseTime }
      let begins := (s.tline b.line).poll = .quiet ∧ p = .continuous ∧ l.round = none ∧ s.admitted b.line
      (begins → RoundBegun l b.line v) ∧ (¬begins → v.tline b.line = l) := by
  obtain ⟨t, et⟩ : ∃ t, t = configureTLine b p s := ⟨_, rfl⟩
  have own : t.tline b.line = { s.tline b.line with
      poll := p, quietInterval := b.quietInterval, slotLimit := b.slotLimit, retryLimit := b.retryLimit
      lapseTime := b.lapseTime } := by rw [et]; exact State.tline_setTLine_same ..
  have frame : t = { s with tlines := t.tlines } := by rw [et]; rfl
  have others : s.otherLinesKept t b.line := fun m hm => by rw [et]; exact State.tline_setTLine_other s hm _
  obtain ⟨admitted, -, -⟩ := lineReads_of_frame frame b.line
  have rule : tlineSetRule b s = Served.reply []
      (if (s.tline b.line).poll = .quiet ∧ p = .continuous then startRoundIfIdle b.line t else t) := by
    simp only [tlineSetRule, hp, hr, et, Bool.not_true, Bool.false_eq_true, if_false]
    split <;> rfl
  refine ⟨_, rule, ?_⟩
  by_cases leaves : (s.tline b.line).poll = .quiet ∧ p = .continuous
  · rw [if_pos leaves]
    obtain ⟨f, k⟩ := startRoundIfIdle_frame b.line t
    refine ⟨tlinesFrame_trans frame f, fun m hm => (k m hm).trans (others m hm), fun g => ?_, fun g => ?_⟩
    · obtain ⟨-, -, hround, had⟩ := g
      rw [startRoundIfIdle_of_idle (by rw [own]; exact hround) (admitted.2 had), ← own]
      exact startRound_begun t b.line
    · rw [startRoundIfIdle_of_not, own]
      rw [own]
      exact fun ⟨g1, g2⟩ => g ⟨leaves.1, leaves.2, g1, admitted.1 g2⟩
  · rw [if_neg leaves]
    exact ⟨frame, others, fun g => absurd ⟨g.1, g.2.1⟩ leaves, fun _ => own⟩

/-! ### The four requests -/

/-- Settles O30: each request by its rule's refusal or its effect. -/
theorem plainConfigurations : Obligations.PlainConfigurations := by
  refine ⟨⟨fun r rest s g h hr => ?_, fun r rest s n h hr => ?_, fun r rest s b h hr => ⟨fun hb => ?_,
    fun h1 h2 h3 h4 h5 h6 h7 => ?_⟩⟩, fun r rest s b h hr => ⟨fun hb => ?_, fun p hp h1 h2 h3 h4 h5 h6 h7 h8 => ?_⟩⟩
  · split_ifs with hg
    · exact act_of_done h hr (v := (beginService r rest s).setFU { s.fu with runLength := g }) (if_neg (by omega)) rfl
    · exact act_of_refused h hr (if_pos (by omega))
  · split_ifs with hn
    · exact act_of_done h hr (v := (beginService r rest s).setFlashPeriod n) (if_neg (by omega)) rfl
    · exact act_of_refused h hr (if_pos (by omega))
  · refine act_of_refused h hr (if_neg ?_)
    rw [b.inRange_iff]
    omega
  · refine ⟨_, act_of_done h hr (if_pos (b.inRange_iff.2 ⟨h1, h2, h3, h4, h5, h6, h7⟩)) rfl, rfl,
      State.window_setWindow_same .., fun w hw => State.window_setWindow_other _ hw _⟩
  · refine act_of_refused h hr (tlineSetRule_refused ?_ _)
    rw [b.inRange_iff]
    omega
  · intro l begins
    obtain ⟨v, rule, frame, others, begun, stands⟩ := tlineSetRule_done hp
      (b.inRange_iff.2 ⟨h1, h2, h3, h4, h5, h6, h7, h8⟩) (beginService r rest s)
    refine ⟨_, act_of_done h hr rule (by rw [frame]), ?_,
      fun g => (begun g).of_reads rfl fun _ => ⟨rfl, .inl rfl⟩, stands, others⟩
    rw [frame]
    rfl

end Sys2Proof.Machine
end

section
/-! Proofs: the completions of the three kinds of job (R67 to R69, R90, R98, R116, R129, R143, R153, R154). -/

namespace Sys2Proof.Machine

/-! ### BOARD jobs (R67, R90, R98) -/

/-- R90: the text is what the slot is to show, or shows with nothing staged. -/
theorem SlotState.holds_iff (r : SlotState) (t : BoardText) :
    r.holds t = true ↔ r.staging = some t ∨ r.staging = none ∧ r.shown = some t := by
  unfold SlotState.holds
  cases r.staging <;> simp

/-- R98: a text is staged unless its slot is not enabled or its module is absent. -/
theorem stageText_of_refused {line slot : Nat} {s : State}
    (h : slot ∉ (s.line line).enabled ∨ (s.slotState (cellNo line slot)).presence = .absent) (t : BoardText) :
    stageText line slot t s = s := if_pos h

theorem stageText_of_taken {line slot : Nat} {s : State} (he : slot ∈ (s.line line).enabled)
    (hp : (s.slotState (cellNo line slot)).presence ≠ .absent) (t : BoardText) : stageText line slot t s =
      s.setSlot (cellNo line slot) { s.slotState (cellNo line slot) with staging := some t } :=
  if_neg (by simp [he, hp])

theorem stageText_frame (line slot : Nat) (t : BoardText) (s : State) :
    stageText line slot t s = { s with slots := (stageText line slot t s).slots } := by
  unfold stageText
  dsimp only
  split <;> rfl

/-- R90: the offer of a text that the slot holds is counted, and changes nothing else; any other is handed to the slot. -/
theorem offerText_cases (line slot : Nat) (t : BoardText) (full : Bool) (s : State) :
    let same := full = false ∧ ((s.slotState (cellNo line slot)).staging = some t ∨
      (s.slotState (cellNo line slot)).staging = none ∧ (s.slotState (cellNo line slot)).shown = some t)
    same ∧ offerText line slot t full s = s.count .bdUnchanged ∨ ¬same ∧ offerText line slot t full s = stageText line slot t s := by
  intro same
  have held : (!full && (s.slotState (cellNo line slot)).holds t) = true ↔ same := by
    rw [Bool.and_eq_true, SlotState.holds_iff, Bool.not_eq_true']
  by_cases h : same
  · exact .inl ⟨h, if_pos (held.2 h)⟩
  · exact .inr ⟨h, if_neg (mt held.1 h)⟩

/-- Settles O33: the offer of the text on the unit with its job taken off (`offerText_cases`, `stageText_of_taken`). -/
theorem boardJobDelivers : Obligations.BoardJobDelivers := by
  intro s line slot t full hreset hjob r same
  have whole : completeBoard s = arbitrate (deliverBoard line slot t full (dropJob s)) := by simp only [completeBoard, hjob]
  refine ⟨deliverBoard line slot t full (dropJob s), (act_of_released hreset _).trans (by rw [whole]), ?_⟩
  unfold deliverBoard
  rcases offerText_cases line slot t full (dropJob s) with ⟨hsame, e⟩ | ⟨hsame, e⟩ <;> rw [e]
  · refine ⟨rfl, ?_, fun k hk => ?_, fun _ => ⟨rfl, ?_⟩, fun h => absurd hsame h⟩
    · rw [State.counter_count_same, State.counter_count_other _ (by decide)]
      rfl
    · simp only [List.mem_cons, List.not_mem_nil, or_false, not_or] at hk
      rw [State.counter_count_other _ hk.1, State.counter_count_other _ hk.2]
      rfl
    · rw [State.counter_count_other _ (by decide), State.counter_count_same]
      rfl
  · have frame := stageText_frame line slot t (dropJob s)
    have counters : ∀ k, (stageText line slot t (dropJob s)).counter k = s.counter k :=
      counter_of_counters (by rw [frame]; rfl)
    refine ⟨by rw [frame]; rfl, ?_, fun k hk => ?_, fun h => absurd h hsame, fun _ => ⟨?_, fun h => ?_, fun he hp => ?_⟩⟩
    · rw [State.counter_count_same, counters]
      rfl
    · rw [State.counter_count_other _ fun e => hk (by simp [e]), counters]
    · rw [State.counter_count_other _ (by decide), counters]
    · rw [stageText_of_refused (s := dropJob s) h]
      rfl
    · rw [stageText_of_taken (s := dropJob s) he hp]
      refine ⟨?_, fun c hc => ?_⟩
      · rw [State.count_slotState, State.slotState_setSlot_same]
        rfl
      · rw [State.count_slotState, State.slotState_setSlot_other _ hc]
        rfl

/-! ### RIBBON jobs (R68, R116, R129) -/

@[simp] theorem stopTest_counters (id : RibbonId) (s : State) : (stopTest id s).counters = s.counters := by
  unfold stopTest
  split
  · exact State.setRibbon_counters ..
  · rfl

/-- R116: the stop test of a ribbon that has no job in flight. -/
theorem stopTest_of_no_job {id : RibbonId} {s : State} (h : ribbonJobInFlight id s = false) : (stopTest id s).ribbon id =
    if (s.ribbon id).state = .running ∧ closedOrAfter s.session.state = true ∧ (s.ribbon id).queue = [] ∧
        (s.ribbon id).fifo = [] then { s.ribbon id with state := .stopped, period := none } else s.ribbon id := by
  have test := mayStop_iff id s
  simp only [h, and_true] at test
  simp only [stopTest, test]
  split
  · exact State.ribbon_setRibbon_same ..
  · rfl

theorem ribbonJobInFlight_of_idle {s : State} (h : s.fu.job = none) (id : RibbonId) : ribbonJobInFlight id s = false := by
  simp [ribbonJobInFlight, h]

/-- R129: what a RIBBON job writes. -/
theorem Ribbon.written_eq (r : Ribbon) (late : Option Nat) (text : Text) (anchor preceding : Option Nat) :
    r.written late text anchor preceding = { r with
      fifo := r.fifo ++ text
      lateFigure := if late = none then r.lateFigure else late
      lateAge := if late = none then r.lateAge else 0
      preceding := preceding
      anchors := match anchor with | some i => insertNo i r.anchors | none => r.anchors } := by
  cases late <;> rfl

/-- Settles O35: what is written (`Ribbon.written_eq`), and the stop test of a ribbon with no job in flight. -/
theorem ribbonJobDelivers : Obligations.RibbonJobDelivers := by
  intro s id other late lt t anchor pr off hreset hjob hne r w
  have whole : completeRibbon s = arbitrate (deliverRibbon id late (lt ++ t) anchor pr off (dropJob s)) := by
    simp only [completeRibbon, hjob]
  refine ⟨deliverRibbon id late (lt ++ t) anchor pr off (dropJob s), (act_of_released hreset _).trans (by rw [whole]), ?_⟩
  have drop : (dropJob s).ribbon id = r := by cases id <;> rfl
  obtain ⟨v, ev, own, frame, kept, job, counted, printed⟩ : ∃ v,
      deliverRibbon id late (lt ++ t) anchor pr off (dropJob s) = stopTest id v ∧ v.ribbon id = w ∧
      v = { s with fu := { s.fu with job := none }, ribbonA := v.ribbonA, ribbonB := v.ribbonB, counters := v.counters } ∧
      v.ribbon other = s.ribbon other ∧ v.fu.job = none ∧ s.onlyCounted v [printsCounter id] ∧
      v.counter (printsCounter id) =
        if off then s.counter (printsCounter id) else min 4294967295 (s.counter (printsCounter id) + 1) := by
    cases off with
    | true => exact ⟨dropJob s, rfl, drop, rfl, by cases other <;> rfl, rfl, fun _ _ => rfl, rfl⟩
    | false =>
      refine ⟨_, rfl, ?_, by cases id <;> rfl, ?_, by cases id <;> rfl, fun k hk => ?_, ?_⟩
      · rw [State.count_ribbon, State.ribbon_setRibbon_same, drop, Ribbon.written_eq]
        rfl
      · rw [State.count_ribbon, State.ribbon_setRibbon_other _ hne]
        cases other <;> rfl
      · rw [State.counter_count_other _ (by simpa using hk), State.setRibbon_counter]
        rfl
      · rw [State.counter_count_same, State.setRibbon_counter]
        rfl
  obtain ⟨changed, others, -⟩ := ownRibbonChanged_stopTest id v
  have counters : ∀ k, (stopTest id v).counter k = v.counter k := counter_of_counters (stopTest_counters id v)
  have session : v.session = s.session := by rw [frame]
  rw [ev]
  refine ⟨by rw [changed, frame], ?_, (others other hne).trans kept, fun k hk => (counters k).trans (counted k hk),
    (counters _).trans printed⟩
  rw [stopTest_of_no_job (ribbonJobInFlight_of_idle job id), own, session]

/-! ### TERMINAL jobs (R69, R143, R153, R154) -/

/-- R154: a BELL block discarded clears its alert's block mark, and nothing else of the terminal. -/
theorem Terminal.discard_bell (x : BellBlock) (t : Terminal) :
    let u := t.discard (.bell x)
    u = { t with alerts := u.alerts } ∧ u.alert x.slot = { t.alert x.slot with marked := false } ∧
      ∀ k, k ≠ x.slot → u.alert k = t.alert k := by
  intro u
  have eu : u = if (t.alert x.slot).marked then t.setAlert x.slot { t.alert x.slot with marked := false } else t := rfl
  by_cases h : (t.alert x.slot).marked = true
  · rw [eu, if_pos h]
    exact ⟨rfl, Table.get_set_same .., fun k hk => Table.get_set_other _ _ hk _⟩
  · rw [eu, if_neg h]
    have unmarked : (t.alert x.slot).marked = false := by simpa using h
    exact ⟨rfl, by rw [← unmarked], fun _ _ => rfl⟩

/-- R143: the placing of an out-block begins a round on an idle QUIET line with an admitted terminal. -/
theorem roundForBlock_spec (line : Nat) (s : State) :
    let begins := (s.tline line).poll = .quiet ∧ (s.tline line).round = none ∧ s.admitted line
    let u := roundForBlock line s
    u = { s with tlines := u.tlines } ∧ s.otherLinesKept u line ∧ (begins → RoundBegun (s.tline line) line u) ∧
      (¬begins → u = s) := by
  intro begins u
  have eu : u = if (s.tline line).poll = .quiet then startRoundIfIdle line s else s := rfl
  by_cases hq : (s.tline line).poll = .quiet
  · rw [eu, if_pos hq]
    obtain ⟨frame, others⟩ := startRoundIfIdle_frame line s
    refine ⟨frame, others, fun ⟨_, hr, ha⟩ => ?_, fun h => startRoundIfIdle_of_not fun g => h ⟨hq, g⟩⟩
    rw [startRoundIfIdle_of_idle hr ha]
    exact startRound_begun s line
  · rw [eu, if_neg hq]
    exact ⟨rfl, fun _ _ => rfl, fun h => absurd h.1 hq, fun _ => rfl⟩

/-- Settles O37: the three fates of the terminal in turn. -/
theorem terminalJobDelivers : Obligations.TerminalJobDelivers := by
  intro s line addr b fate hreset hjob n t begins
  have whole : completeTerminal s = arbitrate (deliverTerminal line addr b fate (dropJob s)) := by
    simp only [completeTerminal, hjob]
  refine ⟨deliverTerminal line addr b fate (dropJob s), (act_of_released hreset _).trans (by rw [whole]), ?_⟩
  cases fate with
  | kept =>
    obtain ⟨placed, eplaced⟩ : ∃ placed, placed = (dropJob s).setTerm n { t with outBlock := some b } := ⟨_, rfl⟩
    have own : placed.term n = { t with outBlock := some b } := by rw [eplaced]; exact State.term_setTerm_same ..
    have lines : placed.tlines = s.tlines := by rw [eplaced]; rfl
    have line_eq : ∀ m, placed.tline m = s.tline m := fun m => by simp only [State.tline, lines]
    have admitted : placed.admitted line ↔ s.admitted line := by
      have states : ∀ k, (placed.term k).state = (s.term k).state := fun k => by
        by_cases hk : k = n
        · rw [hk, own]
        · rw [eplaced, State.term_setTerm_other _ hk]; rfl
      simp only [State.admitted, states]
    obtain ⟨frame, others, begun, stands⟩ := roundForBlock_spec line placed
    have eu : deliverTerminal line addr b .kept (dropJob s) = roundForBlock line placed := by rw [eplaced]; rfl
    have terms : (roundForBlock line placed).terms = placed.terms := by rw [frame]
    rw [line_eq, admitted] at begun stands
    rw [eu]
    refine ⟨by rw [frame, eplaced]; rfl, fun m hm => ?_, fun _ => ⟨?_, fun m hm => ?_, begun, fun h => ?_⟩, by simp, by simp⟩
    · rw [term_of_terms terms, eplaced, State.term_setTerm_other _ hm]; rfl
    · rw [term_of_terms terms, own]
    · rw [others m hm, line_eq]
    · rw [stands h, lines]
  | silenced =>
    have own : (deliverTerminal line addr b .silenced (dropJob s)).term n = t.discard b := State.term_setTerm_same ..
    refine ⟨rfl, fun m hm => State.term_setTerm_other _ hm _, by simp, fun _ => ⟨rfl, ?_⟩, by simp⟩
    cases b with
    | reply _ => exact own
    | bell x => rw [own]; exact Terminal.discard_bell x t
    | _ => exact own
  | retired => exact ⟨rfl, fun _ _ => rfl, by simp, by simp, fun _ => ⟨rfl, rfl⟩⟩

end Sys2Proof.Machine
end

section
/-! Proofs: RIBBON-SET (R68, R113, R114, R125, R129, R132, R133, R200). -/

namespace Sys2Proof.Machine

/-! ### The checks (R113) -/

theorem RibbonBody.inRange_iff (b : RibbonBody) : b.inRange = true ↔ 6 ≤ b.rate ∧ b.rate ≤ 30 ∧ 10 ≤ b.up1 ∧
    b.up1 < b.up2 ∧ b.up2 < b.up3 ∧ b.up3 ≤ 900 ∧ 2 ≤ b.trim ∧ b.trim ≤ 99 := by
  simp only [RibbonBody.inRange, Bool.and_eq_true, decide_eq_true_eq, and_assoc]

theorem ribbonSetRule_of_refused {b : RibbonBody} (h : ¬(b.ribbon ≤ 1 ∧ b.enable ≤ 2 ∧ b.inRange = true)) (s : State) :
    ribbonSetRule b s = Served.refuse .range s := by
  unfold ribbonSetRule
  split
  · next id e hid he =>
    have ribbon : b.ribbon ≤ 1 := by simpa [Nat.lt_succ_iff] using (List.getElem?_eq_some_iff.1 hid).1
    have enable : b.enable ≤ 2 := by simpa [Nat.lt_succ_iff] using (List.getElem?_eq_some_iff.1 he).1
    exact if_neg fun g => h ⟨ribbon, enable, g⟩
  · rfl

theorem ribbonSetRule_of_taken {b : RibbonBody} {id : RibbonId} {e : RibbonEnable} (hid : ribbonOf b.ribbon = some id)
    (he : ribbonEnableOf b.enable = some e) (hb : b.inRange = true) (s : State) :
    ribbonSetRule b s = Served.reply [] (applyEnable e id (s.setRibbon id ((s.ribbon id).configured b))) := by
  simp only [ribbonSetRule, hid, he, hb, if_true]
  rfl

/-! ### The enable (R114) -/

section
variable (e : RibbonEnable) (id : RibbonId) (s : State)

variable {e id s} in
/-- R114: an enable that asks for what the ribbon is leaves it. -/
theorem applyEnable_stands
    (h : e = .unchanged ∨ e = .on ∧ (s.ribbon id).state ≠ .off ∨ e = .off ∧ (s.ribbon id).state = .off) :
    applyEnable e id s = s := by
  rcases h with rfl | ⟨rfl, h⟩ | ⟨rfl, h⟩
  · rfl
  · exact if_pos h
  · exact if_pos h

variable {id s} in
/-- R114: enabled outside the session, a ribbon is STOPPED. -/
theorem applyEnable_stops (h : (s.ribbon id).state = .off) (hc : closedOrAfter s.session.state = true) :
    applyEnable .on id s = s.setRibbon id { s.ribbon id with state := .stopped } := by
  simp [applyEnable, ribbonOn, h, enabledState, hc]

variable {id s} in
/-- R114: enabled inside the session, a ribbon starts. -/
theorem applyEnable_starts (h : (s.ribbon id).state = .off) (hc : closedOrAfter s.session.state = false) :
    applyEnable .on id s = startRibbon id s := by simp [applyEnable, ribbonOn, h, enabledState, hc]

variable {id s} in
theorem applyEnable_clears (h : (s.ribbon id).state ≠ .off) : applyEnable .off id s = ribbonOff id s := if_neg h

/-- R114: the cases of an enable. -/
theorem enable_cases :
    (e = .unchanged ∨ e = .on ∧ (s.ribbon id).state ≠ .off ∨ e = .off ∧ (s.ribbon id).state = .off) ∨
      (e = .on ∧ (s.ribbon id).state = .off ∧ closedOrAfter s.session.state = true) ∨
      (e = .on ∧ (s.ribbon id).state = .off ∧ closedOrAfter s.session.state = false) ∨
      (e = .off ∧ (s.ribbon id).state ≠ .off) := by
  by_cases h : (s.ribbon id).state = .off <;> cases e <;> simp [h]

/-- What an entry of a ribbon to OFF changes: that ribbon, the job in flight that it is told of, and the notice list. -/
structure RibbonTurnedOff (u : State) : Prop where
  frame : u = { s with
    ribbonA := u.ribbonA, ribbonB := u.ribbonB, fu := u.fu, link := { s.link with notices := u.link.notices } }
  own : u.ribbon id = (s.ribbon id).turnedOff
  other : ∀ k, k ≠ id → u.ribbon k = s.ribbon k
  noticed : (s.ribbon id).mode ≠ .normal → Noticed [.ribbon id] s u
  silent : (s.ribbon id).mode = .normal → u.link = s.link
  told : ∀ late lt t an pr off, s.fu.job = some (.ribbon id late lt t an pr off) →
    u.fu = { s.fu with job := some (.ribbon id late lt t an pr true) }
  alone : (∀ late lt t an pr off, s.fu.job ≠ some (.ribbon id late lt t an pr off)) → u.fu = s.fu

/-- R68: the job in flight told that a ribbon entered OFF, when it is that ribbon's. -/
theorem Job.ribbonOff_other {j : Job} (h : ∀ late lt t an pr off, j ≠ .ribbon id late lt t an pr off) :
    Job.ribbonOff id j = j := by
  cases j with
  | ribbon r late lt t an pr off =>
    have hne : r ≠ id := fun e => h late lt t an pr off (by rw [e])
    simp [Job.ribbonOff, hne]
  | _ => rfl

/-- R200: a raise changes the notice list alone. -/
theorem State.raise_notices (s : State) (n : NoticeItem) :
    s.raise n = { s with link := { s.link with notices := (s.raise n).link.notices } } := by
  rw [← (jobFrame_raise s n).link]
  exact State.raise_frame s n

theorem ribbonOff_turned : RibbonTurnedOff id s (ribbonOff id s) := by
  obtain ⟨v, ev⟩ : ∃ v, v = (s.setRibbon id (s.ribbon id).turnedOff).setFU
    { s.fu with job := s.fu.job.map (Job.ribbonOff id) } := ⟨_, rfl⟩
  have eu : ribbonOff id s = if (s.ribbon id).mode = .normal then v else v.raise (.ribbon id) := by
    rw [ev, ribbonOff]
    simp only [State.setRibbon_fu]
  have fu : v.fu = { s.fu with job := s.fu.job.map (Job.ribbonOff id) } := by rw [ev]; rfl
  have ribbons : ∀ k, v.ribbon k = (s.setRibbon id (s.ribbon id).turnedOff).ribbon k := fun k => by rw [ev]; cases k <;> rfl
  have frame : v = { s with ribbonA := v.ribbonA, ribbonB := v.ribbonB, fu := v.fu } := by rw [ev]; cases id <;> rfl
  have link : v.link = s.link := by rw [frame]
  obtain ⟨u, hu⟩ : ∃ u, u = ribbonOff id s := ⟨_, rfl⟩
  have after : u = { v with link := { v.link with notices := u.link.notices } } := by
    rw [hu, eu]
    split
    · rfl
    · exact State.raise_notices v _
  have ufu : u.fu = v.fu := by rw [after]
  have uribbon : ∀ k, u.ribbon k = v.ribbon k := ribbon_of_ribbons (by rw [after]) (by rw [after])
  rw [← hu]
  refine ⟨by rw [after, link, frame], ?_, fun k hk => ?_, fun h => ?_, fun h => ?_, fun late lt t an pr off h => ?_,
    fun h => ?_⟩
  · rw [uribbon, ribbons, State.ribbon_setRibbon_same]
  · rw [uribbon, ribbons, State.ribbon_setRibbon_other _ hk]
  · rw [hu, eu, if_neg h]
    exact (noticed_raise v _).of_notices (by rw [link]) rfl
  · rw [hu, eu, if_pos h, link]
  · rw [ufu, fu, h]
    simp [Job.ribbonOff]
  · have untold : s.fu.job.map (Job.ribbonOff id) = s.fu.job := by
      rcases hj : s.fu.job with _ | j
      · rfl
      · exact congrArg some (Job.ribbonOff_other id fun late lt t an pr off e => h late lt t an pr off (e ▸ hj))
    rw [ufu, fu, untold]

/-- What the enable of a RIBBON-SET may change. -/
theorem applyEnable_frame :
    let u := applyEnable e id s
    u = { s with
      ribbonA := u.ribbonA, ribbonB := u.ribbonB, fu := u.fu, counters := u.counters
      link := { s.link with notices := u.link.notices } } ∧
    (∀ k, k ≠ id → u.ribbon k = s.ribbon k) ∧ s.onlyCounted u [.rbUnderrun] ∧
    (¬(e = .off ∧ (s.ribbon id).state ≠ .off ∧ (s.ribbon id).mode ≠ .normal) → u.link = s.link) ∧
    (¬(e = .on ∧ (s.ribbon id).state = .off ∧ closedOrAfter s.session.state = false) → u.counters = s.counters) := by
  intro u
  rcases enable_cases e id s with h | ⟨rfl, hs, hc⟩ | ⟨rfl, hs, hc⟩ | ⟨rfl, hs⟩
  · rw [show u = s from applyEnable_stands h]
    exact ⟨rfl, fun _ _ => rfl, fun _ _ => rfl, fun _ => rfl, fun _ => rfl⟩
  · rw [show u = _ from applyEnable_stops hs hc]
    obtain ⟨frame, others, counted⟩ := ownRibbonChanged_setRibbon id s { s.ribbon id with state := .stopped }
    exact ⟨by cases id <;> rfl, others, counted, fun _ => State.setRibbon_link .., fun _ => State.setRibbon_counters ..⟩
  · obtain ⟨frame, others, counted⟩ := ownRibbonChanged_startRibbon id s
    rw [← show u = _ from applyEnable_starts hs hc] at frame others counted
    exact ⟨by rw [frame], others, counted, fun _ => by rw [frame], fun g => absurd ⟨rfl, hs, hc⟩ g⟩
  · obtain ⟨frame, -, others, -, silent, -, -⟩ := ribbonOff_turned id s
    rw [← show u = _ from applyEnable_clears hs] at frame others silent
    have counters : u.counters = s.counters := by rw [frame]
    exact ⟨by rw [counters]; exact frame, others, fun k _ => counter_of_counters counters k,
      fun g => silent (by simpa [hs] using g), fun _ => counters⟩

end

/-! ### The request -/

/-- Settles O43: the ribbon configured, and the enable in each of its cases. -/
theorem ribbonSetConfigures : Obligations.RibbonSetConfigures := by
  refine ⟨fun r rest s b h hr hb => ?_, fun r rest s b id other e h hr hid hne he h1 h2 h3 h4 h5 h6 h7 h8 => ?_⟩
  · refine act_of_refused h hr (ribbonSetRule_of_refused ?_ _)
    rw [b.inRange_iff]
    omega
  · intro x y
    have rule := ribbonSetRule_of_taken hid he (b.inRange_iff.2 ⟨h1, h2, h3, h4, h5, h6, h7, h8⟩) (beginService r rest s)
    obtain ⟨t, et⟩ : ∃ t, t = (beginService r rest s).setRibbon id y := ⟨_, rfl⟩
    rw [beginService_ribbon, show (s.ribbon id).configured b = y from rfl, ← et] at rule
    have own : t.ribbon id = y := by rw [et]; exact State.ribbon_setRibbon_same ..
    have kept : t.ribbon other = s.ribbon other := by
      rw [et, State.ribbon_setRibbon_other _ hne]; exact beginService_ribbon ..
    have frame : t = { beginService r rest s with ribbonA := t.ribbonA, ribbonB := t.ribbonB } := by
      rw [et]; cases id <;> rfl
    have session : t.session = s.session := by rw [frame]; rfl
    have fu : t.fu = s.fu := by rw [frame]; rfl
    have counter : ∀ k, t.counter k = s.counter k := counter_of_counters (by rw [frame]; rfl)
    have notices : t.link.notices = s.link.notices := by rw [frame]; rfl
    obtain ⟨changed, others, counted, silent, uncounted⟩ := applyEnable_frame e id t
    rw [own, session] at uncounted
    rw [own] at silent
    obtain ⟨v, ev⟩ : ∃ v, v = applyEnable e id t := ⟨_, rfl⟩
    rw [← ev] at changed others counted silent uncounted rule
    have ribbon : ∀ (l : Link) k, ({ v with link := l } : State).ribbon k = v.ribbon k := fun l k => by cases k <;> rfl
    refine ⟨_, act_of_done h hr rule (by rw [changed, frame]), by rw [changed, frame]; rfl, ?_, fun k hk => ?_, fun g => ?_,
      fun g => ?_, fun g => ?_, fun h1 h2 h3 => ?_, fun h1 h2 h3 => ?_, fun h1 h2 => ?_⟩
    · rw [ribbon, others other hne, kept]
    · exact (counted k hk).trans (counter k)
    · exact (congrArg Link.notices (silent g)).trans notices
    · exact (uncounted g).trans (by rw [frame]; rfl)
    · rw [applyEnable_stands (by rw [own]; exact g)] at ev
      rw [ribbon, ev, own]
      exact ⟨rfl, fu⟩
    · subst h1
      rw [applyEnable_stops (by rw [own]; exact h2) (by rw [session]; exact h3)] at ev
      rw [ribbon, ev, State.ribbon_setRibbon_same, own]
      exact ⟨rfl, (State.setRibbon_fu ..).trans fu⟩
    · subst h1
      rw [applyEnable_starts (by rw [own]; exact h2) (by rw [session]; exact h3)] at ev
      have started := startRibbon_spec id t
      have underrun := startRibbon_underrun id t
      have same : v.fu = t.fu := by rw [ev, (ownRibbonChanged_startRibbon id t).frame]
      rw [← ev, own] at started underrun
      refine ⟨(ribbon ..).trans started, same.trans fu, ?_⟩
      rw [State.advancedBy, counter] at underrun
      have empty : (y.fifo.isEmpty && !y.queue.isEmpty) = true ↔ x.fifo = [] ∧ x.queue ≠ [] := by simp [y]
      simp only [empty] at underrun
      refine underrun.trans ?_
      split_ifs <;> first | rfl | contradiction
    · subst h1
      rw [applyEnable_clears (by rw [own]; exact h2)] at ev
      obtain ⟨-, turned, -, noticed, -, told, alone⟩ := ribbonOff_turned id t
      rw [← ev, own] at turned noticed
      rw [← ev, fu] at told alone
      exact ⟨(ribbon ..).trans turned, fun g => (noticed g).of_notices notices.symm rfl, told, alone⟩

end Sys2Proof.Machine
end

section
/-! Proofs: how the slot of a terminal ends (R69, R145 to R147, R153 to R155). -/

namespace Sys2Proof.Machine

/-! ### The end of a slot (R145) -/

section
variable (line : Nat) (s : State)

@[simp] theorem dropSlot_term (k : Nat) : (dropSlot line s).term k = s.term k := rfl
@[simp] theorem dropSlot_terms : (dropSlot line s).terms = s.terms := rfl
@[simp] theorem dropSlot_fu : (dropSlot line s).fu = s.fu := rfl
@[simp] theorem dropSlot_link : (dropSlot line s).link = s.link := rfl
@[simp] theorem dropSlot_counter (c : Counter) : (dropSlot line s).counter c = s.counter c := rfl
@[simp] theorem dropSlot_counters : (dropSlot line s).counters = s.counters := rfl

end

theorem terminalAnswer_of_no_slot {line : Nat} {s : State} (h : (s.tline line).slot = none) (m : TerminalMessage) :
    terminalAnswer line m s = s := by simp only [terminalAnswer, h]

theorem slotTimeLimit_of_no_slot {line : Nat} {s : State} (h : (s.tline line).slot = none) : slotTimeLimit line s = s := by
  simp only [slotTimeLimit, h]

section
variable {line : Nat} {x : TermSlot} {m : TerminalMessage} {s : State} (hx : (s.tline line).slot = some x)
include hx

/-- R145: a message that names another address or fails its check is no answer. -/
theorem terminalAnswer_of_no_answer (h : m.address ≠ x.address ∨ m.checkHolds = false) : terminalAnswer line m s = s := by
  have no : answers x m = false := by
    rcases h with h | h
    · simp [answers, h]
    · simp [answers, h]
  simp only [terminalAnswer, hx, no, Bool.false_eq_true, if_false]

/-- R141, R145: of an ignored slot nothing comes but its end. -/
theorem terminalAnswer_of_ignored (hi : x.ignored = true) (ha : m.address = x.address) (hc : m.checkHolds = true) :
    terminalAnswer line m s = endRoundIfDone line (dropSlot line s) := by
  simp only [terminalAnswer, hx, answers, ha, hc, hi, decide_true, Bool.and_self, if_true]

theorem slotTimeLimit_of_ignored (hi : x.ignored = true) :
    slotTimeLimit line s = endRoundIfDone line (dropSlot line s) := by
  simp only [slotTimeLimit, hx, hi, if_true]

/-- R145: an answer that carries no request: its own outcome. -/
theorem terminalAnswer_of_answer (hi : x.ignored = false) (ha : m.address = x.address) (hc : m.checkHolds = true)
    (hq : m.request = none) :
    terminalAnswer line m s = endRoundIfDone line (answerOutcome line x m.ack (dropSlot line s)) := by
  simp only [terminalAnswer, hx, answers, ha, hc, hi, hq, carriedRequest, decide_true, Bool.and_self, if_true,
    Bool.false_eq_true, if_false]

theorem slotTimeLimit_of_silence (hi : x.ignored = false) :
    slotTimeLimit line s = endRoundIfDone line (silenceOutcome line x (dropSlot line s)) := by
  simp only [slotTimeLimit, hx, hi, Bool.false_eq_true, if_false]

end

/-! ### What an outcome may change (R145 to R147) -/

/-- What the outcome of a slot changes: its terminal, counters, the notice list and the job in flight. -/
structure OwnTerminalChanged (n : Nat) (s u : State) : Prop where
  frame : u = { s with
    terms := u.terms, counters := u.counters, fu := u.fu, link := { s.link with notices := u.link.notices } }
  other : ∀ k, k ≠ n → u.term k = s.term k

theorem OwnTerminalChanged.refl (n : Nat) (s : State) : OwnTerminalChanged n s s := ⟨rfl, fun _ _ => rfl⟩

theorem OwnTerminalChanged.trans {n : Nat} {s t u : State} (h1 : OwnTerminalChanged n s t)
    (h2 : OwnTerminalChanged n t u) : OwnTerminalChanged n s u :=
  ⟨by rw [h2.frame, h1.frame], fun k hk => (h2.other k hk).trans (h1.other k hk)⟩

section
variable (n : Nat) (s : State)

theorem ownTerminalChanged_setTerm (t : Terminal) : OwnTerminalChanged n s (s.setTerm n t) :=
  ⟨rfl, fun _ hk => State.term_setTerm_other s hk t⟩

theorem ownTerminalChanged_count (c : Counter) : OwnTerminalChanged n s (s.count c) := ⟨rfl, fun _ _ => rfl⟩

theorem ownTerminalChanged_raise (i : NoticeItem) : OwnTerminalChanged n s (s.raise i) :=
  ⟨by rcases s.raise_cases i with ⟨-, h⟩ | ⟨-, h⟩ <;> rw [h]; rfl, fun _ _ => State.raise_term ..⟩

theorem ownTerminalChanged_setFU (f : FormatUnit) : OwnTerminalChanged n s (s.setFU f) := ⟨rfl, fun _ _ => rfl⟩

end

section
variable (line addr : Nat) (s : State)

theorem ownTerminalChanged_goSilent : OwnTerminalChanged (termNo line addr) s (goSilent line addr s) :=
  (((ownTerminalChanged_setTerm _ s _).trans (ownTerminalChanged_setFU _ _ _)).trans
    (ownTerminalChanged_raise _ _ _)).trans (ownTerminalChanged_count _ _ _)

theorem ownTerminalChanged_slotFailed : OwnTerminalChanged (termNo line addr) s (slotFailed line addr s) := by
  have retried := (ownTerminalChanged_setTerm (termNo line addr) s
    { s.term (termNo line addr) with retry := (s.term (termNo line addr)).retry + 1 }).trans
      (ownTerminalChanged_count _ _ .tmRetries)
  unfold slotFailed
  dsimp only
  split_ifs
  · exact retried.trans (ownTerminalChanged_goSilent ..)
  · exact retried

theorem ownTerminalChanged_slotAcked (tx : Transmission) :
    OwnTerminalChanged (termNo line addr) s (slotAcked line addr tx s) := by
  cases tx with
  | output _ _ => exact (ownTerminalChanged_setTerm ..).trans (ownTerminalChanged_count ..)
  | poll _ => exact ownTerminalChanged_setTerm ..

theorem ownTerminalChanged_terminalJoins : OwnTerminalChanged (termNo line addr) s (terminalJoins line addr s) :=
  (ownTerminalChanged_setTerm ..).trans (ownTerminalChanged_raise ..)

end

/-- R145, R147: an answered slot, by the state of its terminal. -/
theorem answerOutcome_of_served {line : Nat} {x : TermSlot} {s : State}
    (h : (s.term (termNo line x.address)).served = true) (ack : Bool) : answerOutcome line x ack s =
      if ack then slotAcked line x.address x.tx s else slotFailed line x.address s := by
  simp only [Terminal.served, Bool.or_eq_true, decide_eq_true_eq] at h
  rcases h with h | h <;> simp only [answerOutcome, h]

theorem answerOutcome_of_joining {line : Nat} {x : TermSlot} {s : State}
    (h : (s.term (termNo line x.address)).state = .joining ∨ (s.term (termNo line x.address)).state = .silent) (ack : Bool) :
    answerOutcome line x ack s = terminalJoins line x.address s := by
  rcases h with h | h <;> simp only [answerOutcome, h]

theorem ownTerminalChanged_answerOutcome (line : Nat) (x : TermSlot) (ack : Bool) (s : State) :
    OwnTerminalChanged (termNo line x.address) s (answerOutcome line x ack s) := by
  by_cases hs : (s.term (termNo line x.address)).served = true
  · rw [answerOutcome_of_served hs]
    split
    · exact ownTerminalChanged_slotAcked ..
    · exact ownTerminalChanged_slotFailed ..
  · cases h : (s.term (termNo line x.address)).state with
    | joining => rw [answerOutcome_of_joining (.inl h)]; exact ownTerminalChanged_terminalJoins ..
    | silent => rw [answerOutcome_of_joining (.inr h)]; exact ownTerminalChanged_terminalJoins ..
    | vacant => simp only [answerOutcome, h]; exact .refl ..
    | active => simp [Terminal.served, h] at hs
    | lapsed => simp [Terminal.served, h] at hs

theorem ownTerminalChanged_silenceOutcome (line : Nat) (x : TermSlot) (s : State) :
    OwnTerminalChanged (termNo line x.address) s (silenceOutcome line x s) := by
  unfold silenceOutcome
  split
  · exact ownTerminalChanged_slotFailed ..
  · exact .refl ..

/-- What an outcome changes, seen from the state in which the slot was in progress. -/
theorem OwnTerminalChanged.of_dropSlot {n line : Nat} {s u : State} (h : OwnTerminalChanged n (dropSlot line s) u) :
    u = { s with
        tlines := u.tlines, terms := u.terms, counters := u.counters, fu := u.fu
        link := { s.link with notices := u.link.notices } } ∧
      u.tline line = { s.tline line with slot := none } ∧ s.otherLinesKept u line ∧ ∀ k, k ≠ n → u.term k = s.term k := by
  have lines : ∀ m, u.tline m = (dropSlot line s).tline m := fun m => by
    have : u.tlines = (dropSlot line s).tlines := by rw [h.frame]
    simp only [State.tline, this]
  refine ⟨by rw [h.frame]; rfl, ?_, fun m hm => ?_, fun k hk => h.other k hk⟩
  · rw [lines]; exact State.tline_setTLine_same ..
  · rw [lines]; exact State.tline_setTLine_other s hm _

/-! ### A failed slot (R145, R146, R153, R154) -/

/-- R146, R155: the entry to SILENT is noticed and counted. -/
theorem goSilent_counted (line addr : Nat) (s : State) :
    let u := goSilent line addr s
    Noticed [.terminal line addr] s u ∧ u.counter .tmSilenced = min 4294967295 (s.counter .tmSilenced + 1) ∧
      s.onlyCounted u [.tmSilenced] := by
  intro u
  obtain ⟨v, ev, notices, counters⟩ : ∃ v : State, u = (v.raise (.terminal line addr)).count .tmSilenced ∧
    v.link.notices = s.link.notices ∧ v.counters = s.counters := ⟨_, rfl, rfl, rfl⟩
  have counter : ∀ k, (v.raise (.terminal line addr)).counter k = s.counter k :=
    counter_of_counters ((State.raise_counters ..).trans counters)
  rw [ev]
  exact ⟨(noticed_raise v _).of_notices notices.symm rfl, by rw [State.counter_count_same, counter]; rfl,
    fun k hk => by rw [State.counter_count_other _ (by simpa using hk), counter]⟩

/-- R145, R146: a failed slot is counted, and retried until the limit is reached; then the terminal is silenced. -/
theorem slotFailed_dropSlot (line addr : Nat) (s : State) :
    let n := termNo line addr
    let t := s.term n
    let u := slotFailed line addr (dropSlot line s)
    u.counter .tmRetries = min 4294967295 (s.counter .tmRetries + 1) ∧
      if t.retry + 1 < 2 * (s.tline line).retryLimit then
        u.term n = { t with retry := t.retry + 1 } ∧ s.onlyCounted u [.tmRetries] ∧ u.fu = s.fu ∧ u.link = s.link
      else u.term n = { t with
          state := .silent, retry := t.retry + 1, outBlock := none, statusOwed := false, idleOwed := false
          changed := true, record := (u.term n).record, alerts := (u.term n).alerts } ∧
        Noticed [.terminal line addr] s u ∧
        u.counter .tmSilenced = min 4294967295 (s.counter .tmSilenced + 1) ∧
        s.onlyCounted u [.tmRetries, .tmSilenced] ∧
        (u.term n).record = (match t.outBlock with
          | some (.reply _) =>
            if t.record.state = .sent then { t.record with state := .answered } else t.record
          | _ => t.record) ∧
        (∀ k, (∃ l, t.outBlock = some (.bell l) ∧ l.slot = k) → (u.term n).alert k = { t.alert k with marked := false }) ∧
        (∀ k, (∀ l, t.outBlock = some (.bell l) → l.slot ≠ k) → (u.term n).alert k = t.alert k) ∧
        (∀ o fate, s.fu.job = some (.terminal line addr o fate) → u.fu = { s.fu with
          job := some (.terminal line addr o (if fate = .retired then .retired else .silenced)) }) ∧
        ((∀ o fate, s.fu.job ≠ some (.terminal line addr o fate)) → u.fu = s.fu) := by
  intro n t u
  obtain ⟨v, ev⟩ : ∃ v, v = ((dropSlot line s).setTerm n { t with retry := t.retry + 1 }).count .tmRetries := ⟨_, rfl⟩
  have limit : ((dropSlot line s).tline line).retryLimit = (s.tline line).retryLimit := by
    rw [dropSlot, State.tline_setTLine_same]
  have eu : u = if 2 * (s.tline line).retryLimit ≤ t.retry + 1 then goSilent line addr v else v := by
    rw [← limit, ev]
    rfl
  have term : v.term n = { t with retry := t.retry + 1 } := by
    rw [ev, State.count_term, State.term_setTerm_same]
  have counted : s.onlyCounted v [.tmRetries] := fun k hk => by
    rw [ev, State.counter_count_other _ (by simpa using hk), State.setTerm_counter, dropSlot_counter]
  have retries : v.counter .tmRetries = min 4294967295 (s.counter .tmRetries + 1) := by
    rw [ev, State.counter_count_same, State.setTerm_counter, dropSlot_counter]
    rfl
  have fu : v.fu = s.fu := by rw [ev, State.count_fu, State.setTerm_fu, dropSlot_fu]
  have link : v.link = s.link := by rw [ev, State.count_link, State.setTerm_link, dropSlot_link]
  by_cases h : t.retry + 1 < 2 * (s.tline line).retryLimit
  · rw [if_pos h, show u = v from eu.trans (if_neg (by omega))]
    exact ⟨retries, term, counted, fu, link⟩
  · rw [if_neg h, show u = goSilent line addr v from eu.trans (if_pos (by omega))]
    obtain ⟨silent, record, bell, noBell, told, alone⟩ := goSilent_spec line addr v
    obtain ⟨noticed, silenced, uncounted⟩ := goSilent_counted line addr v
    rw [term] at silent record bell noBell
    rw [fu] at told alone
    refine ⟨(uncounted _ (by decide)).trans retries, silent, noticed.of_notices (by rw [link]) rfl,
      by rw [silenced, counted _ (by decide)], fun k hk => ?_, record, bell, noBell, told, alone⟩
    simp only [List.mem_cons, List.not_mem_nil, or_false, not_or] at hk
    exact (uncounted k (by simpa using hk.2)).trans (counted k (by simpa using hk.1))

/-! ### An ACK, and a terminal that joins (R145, R147, R153, R155) -/

/-- R145, R153: an ACK clears the retry count, and delivers the out-block that the slot sent. -/
theorem slotAcked_dropSlot (line addr : Nat) (tx : Transmission) (s : State) :
    let n := termNo line addr
    let t := s.term n
    let b := slotAcked line addr tx (dropSlot line s)
    b.fu = s.fu ∧ b.link = s.link ∧
      (∀ ready, tx = .poll ready → b.term n = { t with retry := 0 } ∧ b.counters = s.counters) ∧
      ∀ ready o, tx = .output ready o →
        b.term n = { t with
          retry := 0, outBlock := none, record := (b.term n).record, alerts := (b.term n).alerts } ∧
        s.onlyCounted b [.tmBlocks] ∧ b.counter .tmBlocks = min 4294967295 (s.counter .tmBlocks + 1) ∧
        (∀ q, o = .reply q → (b.term n).record = { state := .free, request := none, result := none }) ∧
        ((∀ q, o ≠ .reply q) → (b.term n).record = t.record) ∧
        ∀ k,
          let spent := ∃ l, o = .bell l ∧ l.slot = k ∧ (t.alert k).marked = true
          (spent → (b.term n).alert k = { t.alert k with state := .spent, marked := false }) ∧
          (¬spent → (b.term n).alert k = t.alert k) := by
  cases tx with
  | poll r =>
    refine ⟨rfl, rfl, fun _ _ => ⟨?_, rfl⟩, fun _ _ h => (by cases h)⟩
    exact State.term_setTerm_same (dropSlot line s) ..
  | output r o =>
    obtain ⟨own, delivered⟩ := slotAcked_spec line addr r o (dropSlot line s)
    obtain ⟨t, et⟩ : ∃ t, slotAcked line addr (.output r o) (dropSlot line s) =
      ((dropSlot line s).setTerm (termNo line addr) t).count .tmBlocks := ⟨_, rfl⟩
    rw [et] at own delivered ⊢
    simp only [dropSlot_term] at own delivered
    refine ⟨by simp, by simp, fun _ h => (by cases h), fun _ _ h => ?_⟩
    cases h
    refine ⟨own, fun k hk => ?_, ?_, delivered⟩
    · rw [State.counter_count_other _ (by simpa using hk), State.setTerm_counter, dropSlot_counter]
    · rw [State.counter_count_same, State.setTerm_counter, dropSlot_counter]
      rfl

/-- R147, R155: a JOINING or SILENT terminal that answers joins, and its notice is raised. -/
theorem terminalJoins_dropSlot (line addr : Nat) (s : State) :
    let n := termNo line addr
    let b := terminalJoins line addr (dropSlot line s)
    let c := dropSlot line s
    b.term n = { s.term n with state := .active, retry := 0, lapse := 0, fullPage := true, changed := true } ∧
      Noticed [.terminal line addr] s b ∧ b.counters = s.counters ∧ b.fu = s.fu ∧
      c.terms = s.terms ∧ c.counters = s.counters ∧ c.link = s.link ∧ c.fu = s.fu := by
  intro n b c
  obtain ⟨v, ev, ln, term⟩ : ∃ v : State, b = v.raise (.terminal line addr) ∧ v.link.notices = s.link.notices ∧
      v.term n = { s.term n with state := .active, retry := 0, lapse := 0, fullPage := true, changed := true } :=
    ⟨_, rfl, rfl, State.term_setTerm_same (dropSlot line s) ..⟩
  refine ⟨by rw [ev, State.raise_term, term], ?_, ?_, ?_, rfl, rfl, rfl, rfl⟩
  · rw [ev]
    exact (noticed_raise v _).of_notices ln.symm rfl
  · exact State.raise_counters ..
  · exact State.raise_fu ..

/-! ### The outcomes -/

/-- Settles O50: the message or the time limit, and each outcome on the line with the slot taken off. -/
theorem slotOutcomes : Obligations.SlotOutcomes := by
  refine ⟨fun line m s hreset => ⟨fun h => ?_, fun x hx => ⟨fun h => ?_, fun hi => ⟨?_, fun ha hc => ?_⟩⟩⟩,
    fun line m s x hx => ?_⟩
  · exact ⟨(act_of_released hreset _).trans (by rw [terminalAnswer_of_no_slot h]),
      (act_of_released hreset _).trans (by rw [slotTimeLimit_of_no_slot h])⟩
  · exact (act_of_released hreset _).trans (by rw [terminalAnswer_of_no_answer hx h])
  · exact (act_of_released hreset _).trans (by rw [slotTimeLimit_of_ignored hx hi])
  · exact (act_of_released hreset _).trans (by rw [terminalAnswer_of_ignored hx hi ha hc])
  · obtain ⟨hreset, hslot, hi, -, ha, hc⟩ := hx
    intro n t b c frame failed
    have silence : t.served = true → c = slotFailed line x.address (dropSlot line s) := fun h => if_pos h
    refine ⟨fun hq => (act_of_released hreset _).trans (by rw [terminalAnswer_of_answer hslot hi ha hc hq]),
      (act_of_released hreset _).trans (by rw [slotTimeLimit_of_silence hslot hi]),
      (ownTerminalChanged_answerOutcome ..).of_dropSlot, (ownTerminalChanged_silenceOutcome ..).of_dropSlot,
      fun hs hack => ?_, fun hs hack => ?_, fun hs => ?_, fun hs => ?_⟩
    · have eb : b = slotAcked line x.address x.tx (dropSlot line s) :=
        (answerOutcome_of_served (s := dropSlot line s) hs m.ack).trans (if_pos hack)
      rw [eb]
      exact slotAcked_dropSlot line x.address x.tx s
    · have eb : b = slotFailed line x.address (dropSlot line s) :=
        (answerOutcome_of_served (s := dropSlot line s) hs m.ack).trans (if_neg (by simp [hack]))
      rw [eb]
      exact slotFailed_dropSlot ..
    · rw [silence hs]
      exact slotFailed_dropSlot ..
    · have eb : b = terminalJoins line x.address (dropSlot line s) :=
        answerOutcome_of_joining (s := dropSlot line s) hs m.ack
      have unserved : ¬t.served = true := by rcases hs with h | h <;> simp [Terminal.served, h]
      have ec : c = dropSlot line s := if_neg unserved
      rw [eb, ec]
      exact terminalJoins_dropSlot line x.address s

end Sys2Proof.Machine
end

section
/-! Proofs: a RESTART, block by block (R72, R91, R93, R101, R110, R135, R137, R156, R190, R209). -/

namespace Sys2Proof.Machine

/-! ### The Cell Table (R80, R91) -/

/-- Each object of a list changed by `g`, where a second such change makes no difference. -/
theorem read_forEach_settled {β : Type} (read : State → Nat → β) {g : β → β} (settled : ∀ b, g (g b) = g b)
    {f : Nat → State → State} (same : ∀ n s, read (f n s) n = g (read s n))
    (other : ∀ n s m, m ≠ n → read (f n s) m = read s m) (l : List Nat) (s : State) (m : Nat) :
    read (forEach l f s) m = if m ∈ l then g (read s m) else read s m := by
  induction l generalizing s with
  | nil => simp
  | cons n l ih =>
    rw [forEach_cons, ih]
    by_cases e : m = n
    · subst e; simp [same, settled]
    · simp [e, other n s m e]

/-- R80: forced offers of cells of one line leave the other lines' queues. -/
theorem forEach_offerCell_others {n m : Nat} {l : List Nat} (hl : ∀ c ∈ l, c / 64 = n) (hm : m ≠ n) (s : State) :
    (forEach l (offerCell true) s).refreshQueue m = s.refreshQueue m := by
  induction l generalizing s with
  | nil => rfl
  | cons c l ih =>
    have hc : m ≠ c / 64 := by rw [hl c List.mem_cons_self]; exact hm
    rw [forEach_cons, ih fun d hd => hl d (List.mem_cons_of_mem _ hd)]
    rcases offerCell_cases true c s with ⟨-, h⟩ | ⟨-, -, h⟩ | ⟨-, -, -, h⟩ <;> rw [h]
    exact State.refreshQueue_setQueue_other _ hc _

/-- R80: forced offers of cells of one line, none of which is queued, join its queue in their order. -/
theorem forEach_offerCell_joins {n : Nat} {l : List Nat} (hl : ∀ c ∈ l, c / 64 = n) (hd : l.Nodup) (s : State)
    (hq : ∀ c ∈ l, c ∉ s.refreshQueue n) :
    (forEach l (offerCell true) s).refreshQueue n = s.refreshQueue n ++ l := by
  induction l generalizing s with
  | nil => simp
  | cons c l ih =>
    obtain ⟨hc, hd⟩ := List.nodup_cons.1 hd
    have hn : c / 64 = n := hl c List.mem_cons_self
    have joined : (offerCell true c s).refreshQueue n = s.refreshQueue n ++ [c] := by
      have new := hq c List.mem_cons_self
      rcases offerCell_cases true c s with ⟨h, -⟩ | ⟨-, -, h⟩ | ⟨-, h, -⟩
      · rw [hn] at h; exact absurd h new
      · rw [h, hn, State.refreshQueue_setQueue_same]
      · cases h
    rw [forEach_cons, ih (fun d h => hl d (List.mem_cons_of_mem _ h)) hd _ fun d h => ?_, joined, List.append_assoc,
      List.singleton_append]
    rw [joined, List.mem_append, List.mem_singleton, not_or]
    exact ⟨hq d (List.mem_cons_of_mem _ h), fun e => hc (e ▸ h)⟩

theorem liveCells_nodup (n : Nat) (s : State) : (liveCells n s).Nodup := by
  refine (List.Nodup.map (fun a b h => ?_) List.nodup_range).filter _
  simp only [cellNo] at h
  omega

/-- R91: the cells of a line that are bound or held, by what a restart of the cells leaves. -/
theorem liveCells_of_reads {s u : State}
    (h : ∀ c, (u.cell c).binding = (s.cell c).binding ∧ (u.cell c).hold = (s.cell c).hold) (n : Nat) :
    liveCells n u = liveCells n s := by
  simp only [liveCells, h]

/-- R91: the Cell Table's warm restart. -/
theorem restartCells_spec (s : State) :
    let u := restartCells s
    u = { s with cells := u.cells, queues := u.queues } ∧
      (∀ c, u.cell c = { s.cell c with flashCount := 0, tradeMark := false, prevChars := none, needsFull := false }) ∧
      ∀ n, n < 8 → u.refreshQueue n = liveCells n s := by
  intro u
  let enter (n : Nat) (v : State) := forEach (liveCells n v) (offerCell true) v
  obtain ⟨a, ea⟩ : ∃ a, a = forEach (Table.keys s.cells) (fun c v => v.setCell c (v.cell c).restarted) s := ⟨_, rfl⟩
  obtain ⟨b, eb⟩ : ∃ b, b = forEach lineNos (fun n v => v.setQueue n []) a := ⟨_, rfl⟩
  have eu : u = forEach lineNos enter b := by rw [eb, ea]; rfl
  have fa : a = { s with cells := a.cells } := by
    rw [ea]
    exact forEach_rel (R := fun s t => t = { s with cells := t.cells }) (fun _ => rfl) (fun _ _ _ h1 h2 => by rw [h2, h1]) _
      (fun _ _ => rfl) s
  have fb : b = { a with queues := b.queues } := by
    rw [eb]
    exact forEach_rel (R := fun s t => t = { s with queues := t.queues }) (fun _ => rfl) (fun _ _ _ h1 h2 => by rw [h2, h1]) _
      (fun _ _ => rfl) a
  have entered : ∀ (l : List Nat) (v : State), forEach l enter v = { v with queues := (forEach l enter v).queues } :=
    fun l v => forEach_rel (R := fun s t => t = { s with queues := t.queues }) (fun _ => rfl)
      (fun _ _ _ h1 h2 => by rw [h2, h1]) l (fun n v => forEach_offerCell_frame true _ v) v
  have cells : ∀ c, a.cell c = (s.cell c).restarted := fun c => by
    rw [ea, read_forEach_settled State.cell (g := Cell.restarted) (fun _ => rfl)
      (fun c v => State.cell_setCell_same v c _) (fun c v d h => State.cell_setCell_other v h _)]
    split
    · rfl
    · next out => rw [State.cell, Table.get_of_unlisted out]; rfl
  have bcell : ∀ c, b.cell c = (s.cell c).restarted := fun c => (cell_of_cells (by rw [fb]) c).trans (cells c)
  refine ⟨by rw [eu, entered, fb, fa], fun c => ?_, fun n hn => ?_⟩
  · rw [eu, cell_of_cells (s := b) (by rw [entered]), bcell]
    rfl
  · have own : ∀ c ∈ liveCells n s, c / 64 = n := fun c hc => ((mem_liveCells n s c).1 hc).1
    obtain ⟨pre, post, -, before, after⟩ := read_forEach_turn (f := enter) (read := State.refreshQueue)
      (fun k v m hm => forEach_offerCell_others (fun c hc => ((mem_liveCells k v c).1 hc).1) hm v)
      (l := lineNos) List.nodup_range (List.mem_range.2 hn) b
    have empty : (forEach pre enter b).refreshQueue n = [] := by
      rw [before, eb, read_forEach State.refreshQueue (fun _ => []) (fun k v => State.refreshQueue_setQueue_same v k _)
        (fun k v m h => State.refreshQueue_setQueue_other v h _) lineNos List.nodup_range]
      exact if_pos (List.mem_range.2 hn)
    have live : liveCells n (forEach pre enter b) = liveCells n s := by
      refine liveCells_of_reads (fun c => ?_) n
      rw [cell_of_cells (s := b) (by rw [entered]), bcell]
      exact ⟨rfl, rfl⟩
    rw [eu, after]
    show (forEach (liveCells n (forEach pre enter b)) (offerCell true) _).refreshQueue n = _
    rw [live, forEach_offerCell_joins own (liveCells_nodup n s) _ (by simp [empty]), empty, List.nil_append]

/-! ### The board lines (R93, R100, R101, R110) -/

/-- R110: a line `l` after its warm restart. -/
structure LineRestarted (l y : BoardLine) : Prop where
  kept : (y.state, y.size, y.offset, y.enabled, y.rate, y.darkDelay) =
    (l.state, l.size, l.offset, l.enabled, l.rate, l.darkDelay)
  timer : y.darkTimer = none
  stays : l.state ≠ .lit → y.scrub = l.enabled.head?
  moves : l.state = .lit → (l.enabled = [] → y.scrub = none) ∧
    ∀ p, l.enabled.head? = some p → l.enabled.Pairwise (· < ·) → ScrubNext l.enabled p y.scrub
  idle : l.state = .off → y.frame = none
  begun : l.state ≠ .off → ∃ f, y.frame = some f ∧ FrameBegun l f ∧
    ∀ it ∈ f.items, it.slot < 64 → it.command = if l.state = .dark then .blank else .sense

/-- R93: slots of a line put at their cold-start values leave every other slot. -/
theorem coldSlots_others (n : Nat) {c : Nat} {l : List Nat} (h : ∀ k ∈ l, c ≠ cellNo n k) (s : State) :
    (forEach l (fun k v => v.setSlot (cellNo n k) SlotState.cold) s).slotState c = s.slotState c := by
  induction l generalizing s with
  | nil => rfl
  | cons k l ih =>
    rw [forEach_cons, ih fun j hj => h j (List.mem_cons_of_mem _ hj),
      State.slotState_setSlot_other _ (h k List.mem_cons_self)]

/-- R93, R110: the 64 slots of a line at their cold-start values, and no other line's slot changed. -/
theorem coldSlots_spec (n : Nat) (s : State) :
    let u := forEach slotNos (fun k v => v.setSlot (cellNo n k) SlotState.cold) s
    u = { s with slots := u.slots } ∧ (∀ k, k < 64 → u.slotState (cellNo n k) = SlotState.cold) ∧
      ∀ m k, m ≠ n → k < 64 → u.slotState (cellNo m k) = s.slotState (cellNo m k) := by
  intro u
  refine ⟨forEach_rel (R := fun s t => t = { s with slots := t.slots }) (fun _ => rfl)
    (fun _ _ _ h1 h2 => by rw [h2, h1]) _ (fun _ _ => rfl) s, fun k hk => ?_, fun m k hm hk => ?_⟩
  · refine (read_forEach (fun v k => v.slotState (cellNo n k)) (fun _ => SlotState.cold)
      (fun k v => State.slotState_setSlot_same v _ _) (fun k v j h => State.slotState_setSlot_other v ?_ _) slotNos
      List.nodup_range s k).trans (if_pos (List.mem_range.2 hk))
    simp only [cellNo]
    omega
  · refine coldSlots_others n (fun j hj => ?_) s
    have := List.mem_range.1 hj
    simp only [cellNo]
    omega

/-- R100: the next frame of a line that is not OFF restartTLine. -/
theorem nextFrame_of_off {n : Nat} {s : State} (h : (s.line n).state = .off) : nextFrame n s = s := if_pos h

theorem nextFrame_of_on {n : Nat} {s : State} (h : (s.line n).state ≠ .off) : nextFrame n s = frameStart n s := if_neg h

theorem nextFrame_others (n : Nat) (s : State) :
    nextFrame n s = { s with lines := (nextFrame n s).lines } ∧ ∀ m, m ≠ n → (nextFrame n s).line m = s.line m := by
  unfold nextFrame
  split
  · exact ⟨rfl, fun _ _ => rfl⟩
  · exact ⟨rfl, fun m hm => State.line_setLine_other s hm _⟩

/-- R110: a board line's warm restart changes its line and its slots alone. -/
theorem restartLine_spec (n : Nat) (s : State) :
    let u := restartLine n s
    u = { s with lines := u.lines, slots := u.slots } ∧ (∀ m, m ≠ n → u.line m = s.line m) ∧
      (∀ k, k < 64 → u.slotState (cellNo n k) = SlotState.cold) ∧
      (∀ m k, m ≠ n → k < 64 → u.slotState (cellNo m k) = s.slotState (cellNo m k)) ∧
      LineRestarted (s.line n) (u.line n) := by
  intro u
  obtain ⟨l, el⟩ : ∃ l, l = { s.line n with frame := none, darkTimer := none, scrub := (s.line n).enabled.head? } := ⟨_, rfl⟩
  obtain ⟨v, ev⟩ : ∃ v, v = forEach slotNos (fun k w => w.setSlot (cellNo n k) SlotState.cold) (s.setLine n l) := ⟨_, rfl⟩
  have eu : u = nextFrame n v := by rw [ev, el]; rfl
  obtain ⟨fv, cold, others⟩ := coldSlots_spec n (s.setLine n l)
  rw [← ev] at fv cold others
  have vline : ∀ m, v.line m = (s.setLine n l).line m := fun m => by
    have same : v.lines = (s.setLine n l).lines := by rw [fv]
    simp only [State.line, same]
  have own : v.line n = l := (vline n).trans (State.line_setLine_same ..)
  obtain ⟨fu, lines⟩ := nextFrame_others n v
  rw [← eu] at fu lines
  have slots : ∀ c, u.slotState c = v.slotState c := fun c => by
    have same : u.slots = v.slots := by rw [fu]
    simp only [State.slotState, same]
  refine ⟨by rw [fu, fv]; rfl, fun m hm => ?_, fun k hk => (slots _).trans (cold k hk),
    fun m k hm hk => (slots _).trans (others m k hm hk), ?_⟩
  · rw [lines m hm, vline, State.line_setLine_other _ hm]
  · by_cases hoff : (s.line n).state = .off
    · have same : u.line n = l := by rw [eu, nextFrame_of_off (by rw [own, el]; exact hoff), own]
      have dull : (s.line n).state ≠ .lit := by rw [hoff]; decide
      exact ⟨by rw [same, el], by rw [same, el], fun _ => by rw [same, el], fun h => absurd h dull,
        fun _ => by rw [same, el], fun h => absurd hoff h⟩
    · have start := frameStart_begun n v
      rw [← nextFrame_of_on (by rw [own, el]; exact hoff), ← eu, own, el] at start
      obtain ⟨line, ⟨f, hf, begun, fixed⟩, stays, moves⟩ := start
      refine ⟨by rw [line], by rw [line], fun h => ?_, fun h => ⟨fun he => ?_, fun p hp hr => ?_⟩, fun h => absurd h hoff,
        fun _ => ⟨f, hf, ⟨begun.1, begun.2, begun.3, begun.4, begun.5, begun.6⟩, fun it hi hk => ?_⟩⟩
      · exact stays (.inl h)
      · have none : (s.line n).enabled.head? = Option.none := by rw [he]; rfl
        exact (stays (.inr none)).trans none
      · exact moves p h hp hr
      · obtain ⟨dark, -, -, sensed⟩ := fixed it hi
        have coldSlot := (slots _).trans (cold it.slot hk)
        split
        · next h => exact dark h
        · next h => exact sensed h (by rw [coldSlot]; rfl) (.inr (by rw [coldSlot]; rfl))

/-- R110: every line's warm restart. -/
theorem restartLines_spec (s : State) :
    let u := forEach lineNos restartLine s
    u = { s with lines := u.lines, slots := u.slots } ∧
      (∀ n k, n < 8 → k < 64 → u.slotState (cellNo n k) = SlotState.cold) ∧
      ∀ n, n < 8 → LineRestarted (s.line n) (u.line n) := by
  intro u
  refine ⟨forEach_rel (R := fun s t => t = { s with lines := t.lines, slots := t.slots }) (fun _ => rfl)
    (fun _ _ _ h1 h2 => by rw [h2, h1]) _ (fun n v => (restartLine_spec n v).1) s, fun n k hn hk => ?_, fun n hn => ?_⟩
  · have read := read_forEach (fun v n (k : Fin 64) => v.slotState (cellNo n k)) (fun _ _ => SlotState.cold)
      (f := restartLine) (fun n v => funext fun k => (restartLine_spec n v).2.2.1 k k.2)
      (fun n v m h => funext fun k => (restartLine_spec n v).2.2.2.1 m k h k.2) lineNos List.nodup_range s n
    exact congrFun (read.trans (if_pos (List.mem_range.2 hn))) ⟨k, hk⟩
  · obtain ⟨pre, post, -, before, after⟩ := read_forEach_turn (f := restartLine) (read := State.line)
      (fun k v m hm => (restartLine_spec k v).2.1 m hm) (l := lineNos) List.nodup_range (List.mem_range.2 hn) s
    obtain ⟨-, -, -, -, own⟩ := restartLine_spec n (forEach pre restartLine s)
    rwa [before, ← after] at own

/-! ### The ribbons (R132, R135) -/

/-- R135: a ribbon after its warm restart. -/
def Ribbon.restarted (closed : Bool) (r : Ribbon) : Ribbon :=
  if r.state = .off then { r.cleared with period := none, output := none }
  else if closed then { r.cleared with state := .stopped, period := none, output := none }
  else { r.cleared with state := .running, period := some r.rate, output := some ' ' }

theorem Ribbon.restarted_spec (closed : Bool) (x : Ribbon) :
    let y := x.restarted closed
    (y.mask, y.rate, y.up1, y.up2, y.up3, y.trim) = (x.mask, x.rate, x.up1, x.up2, x.up3, x.trim) ∧
      (y.queue, y.fifo, y.mode, y.dwell, y.anchors) = ([], [], .normal, 0, []) ∧
      (y.preceding, y.lateFigure, y.lateAge) = (none, none, 120) ∧
      (y.period, y.output) = (if y.state = .running then (some x.rate, some ' ') else (none, none)) ∧
      y.state = if x.state = .off then .off else if closed then .stopped else .running := by
  by_cases off : x.state = .off
  · simp [Ribbon.restarted, Ribbon.cleared, off]
  · cases closed <;> simp [Ribbon.restarted, Ribbon.cleared, off]

/-- R132: a ribbon with nothing in its FIFO and nothing queued sends a space as it starts. -/
theorem startRibbon_of_empty {id : RibbonId} {s : State} (hf : (s.ribbon id).fifo = []) (hq : (s.ribbon id).queue = []) :
    startRibbon id s = s.setRibbon id { s.ribbon id with
      state := .running, period := some (s.ribbon id).rate, output := some ' ' } := by
  have twice : ∀ a b : Ribbon, (s.setRibbon id a).setRibbon id b = s.setRibbon id b := fun a b => by cases id <;> rfl
  simp [startRibbon, periodStart, hf, hq, twice]

theorem restartRibbon_eq (id : RibbonId) (s : State) :
    restartRibbon id s = s.setRibbon id ((s.ribbon id).restarted (closedOrAfter s.session.state)) := by
  have twice : ∀ a b : Ribbon, (s.setRibbon id a).setRibbon id b = s.setRibbon id b := fun a b => by cases id <;> rfl
  by_cases h : (s.ribbon id).state = .off
  · simp [restartRibbon, Ribbon.restarted, Ribbon.cleared, h]
  · cases hc : closedOrAfter s.session.state with
    | true => simp [restartRibbon, Ribbon.restarted, Ribbon.cleared, h, enabledState, hc, twice]
    | false =>
      simp [restartRibbon, Ribbon.restarted, Ribbon.cleared, h, enabledState, hc, twice, startRibbon_of_empty]

/-- R135: both ribbons' warm restart. -/
theorem restartRibbons_spec (s : State) :
    let u := forEach ribbonIds restartRibbon s
    u = { s with ribbonA := u.ribbonA, ribbonB := u.ribbonB } ∧
      ∀ id, u.ribbon id = (s.ribbon id).restarted (closedOrAfter s.session.state) := by
  simp only [ribbonIds, forEach_cons, forEach_nil, restartRibbon_eq]
  exact ⟨rfl, fun id => by cases id <;> rfl⟩

/-! ### The terminals and their lines (R137, R156, R158, R174) -/

/-- R174: each of some alerts unmarked, and nothing else of the terminal changed. -/
theorem foldl_unmarked (l : List Nat) (t : Terminal) :
    let u := l.foldl (fun t n => t.setAlert n (t.alert n).unmarked) t
    u = { t with alerts := u.alerts } ∧
      ∀ k, u.alert k = if k ∈ l then (t.alert k).unmarked else t.alert k := by
  induction l generalizing t with
  | nil => exact ⟨rfl, fun _ => rfl⟩
  | cons n l ih =>
    obtain ⟨frame, alerts⟩ := ih (t.setAlert n (t.alert n).unmarked)
    refine ⟨frame, fun k => (alerts k).trans ?_⟩
    by_cases h : k = n
    · subst h
      have own : (t.setAlert k (t.alert k).unmarked).alert k = (t.alert k).unmarked := Table.get_set_same ..
      rw [own, if_pos List.mem_cons_self]
      split <;> rfl
    · have other : (t.setAlert n (t.alert n).unmarked).alert k = t.alert k := Table.get_set_other _ _ h _
      simp [other, h]

/-- R156, R158, R174: a terminal after its warm restart. -/
theorem Terminal.restarted_spec (t : Terminal) :
    let y := t.restarted
    y = { t with
      state := if t.state = .vacant then .vacant else .joining
      retry := 0, lapse := 0, outBlock := none, record := RequestRecord.cold, fullPage := true, statusOwed := false
      idleOwed := false, readySent := true, changed := false, rows := [], alerts := y.alerts } ∧
      ∀ k, k < 4 → y.alert k = { t.alert k with marked := false } := by
  intro y
  obtain ⟨frame, alerts⟩ := foldl_unmarked (List.range 4) t
  obtain ⟨v, ev⟩ : ∃ v, v = (List.range 4).foldl (fun t n => t.setAlert n (t.alert n).unmarked) t := ⟨_, rfl⟩
  have ey : y = { v with
      state := if t.state = .vacant then .vacant else .joining
      retry := 0, lapse := 0, outBlock := none, record := RequestRecord.cold, fullPage := true, statusOwed := false
      idleOwed := false, readySent := true, changed := false, rows := [] } := by rw [ev]; rfl
  rw [← ev] at frame alerts
  refine ⟨by rw [ey, frame], fun k hk => ?_⟩
  have same : y.alert k = v.alert k := by rw [ey]; rfl
  rw [same, alerts, if_pos (List.mem_range.2 hk)]
  rfl

/-- R137: a terminal line's warm restart. -/
def restartTLine (n : Nat) (s : State) : State := startRoundIfIdle n (s.setTLine n (s.tline n).restarted)

/-- R137: a terminal line's warm restart: its round starts when a terminal is admitted. -/
theorem restartTLine_spec (n : Nat) (s : State) :
    let u := restartTLine n s
    u = { s with tlines := u.tlines } ∧ s.otherLinesKept u n ∧
      (s.admitted n → u.tline n = { (s.tline n).restarted with round := some { last := none, wide := true } }) ∧
      (¬s.admitted n → u.tline n = (s.tline n).restarted) := by
  intro u
  obtain ⟨v, ev⟩ : ∃ v, v = s.setTLine n (s.tline n).restarted := ⟨_, rfl⟩
  have eu : u = startRoundIfIdle n v := by rw [ev]; rfl
  have fv : v = { s with tlines := v.tlines } := by rw [ev]; rfl
  have own : v.tline n = (s.tline n).restarted := by rw [ev]; exact State.tline_setTLine_same ..
  obtain ⟨fu, others⟩ := startRoundIfIdle_frame n v
  rw [← eu] at fu others
  obtain ⟨admitted, -, -⟩ := lineReads_of_frame fv n
  have idle : (v.tline n).round = none := by rw [own]; rfl
  refine ⟨tlinesFrame_trans fv fu, fun m hm => ?_, fun h => ?_, fun h => ?_⟩
  · rw [others m hm, ev, State.tline_setTLine_other _ hm]
  · obtain ⟨-, -, finds⟩ := lineReads_of_frame fu n
    have begun := startRound_begun v n
    rw [← startRoundIfIdle_of_idle idle (admitted.2 h), ← eu, own] at begun
    exact begun.visiting ((finds _).2 (wide_finds v (admitted.2 h)))
  · rw [eu, startRoundIfIdle_of_not fun g => h (admitted.1 g.2), own]

/-- R137, R156, R158, R174: the warm restart of the terminals and their lines. -/
theorem restartTerminals_spec (s : State) :
    let u := restartTerminals s
    u = { s with terms := u.terms, tlines := u.tlines } ∧ (∀ n, n < 64 → u.term n = (s.term n).restarted) ∧
      ∀ n, n < 4 →
        (s.admitted n → u.tline n = { (s.tline n).restarted with round := some { last := none, wide := true } }) ∧
        (¬s.admitted n → u.tline n = (s.tline n).restarted) := by
  intro u
  obtain ⟨a, ea⟩ : ∃ a, a = forEach termNos (fun n v => v.setTerm n (v.term n).restarted) s := ⟨_, rfl⟩
  have eu : u = forEach tlineNos restartTLine a := by rw [ea]; rfl
  have fa : a = { s with terms := a.terms } := by rw [ea]; exact forEach_setTerm_frame ..
  have framed : ∀ (l : List Nat) (v : State), forEach l restartTLine v = { v with tlines := (forEach l restartTLine v).tlines } :=
    fun l v => forEach_rel (R := fun s t => t = { s with tlines := t.tlines }) (fun _ => rfl)
      (fun _ _ _ h1 h2 => by rw [h2, h1]) l (fun n v => (restartTLine_spec n v).1) v
  have terms : ∀ n, n < 64 → a.term n = (s.term n).restarted := fun n hn => by
    rw [ea]
    exact (term_forEach_setTerm Terminal.restarted termNos List.nodup_range s n).trans (if_pos (List.mem_range.2 hn))
  refine ⟨by rw [eu, framed, fa], fun n hn => ?_, fun n hn => ?_⟩
  · rw [eu, term_of_terms (s := a) (by rw [framed]), terms n hn]
  · obtain ⟨pre, post, -, before, after⟩ := read_forEach_turn (f := restartTLine) (read := State.tline)
      (fun k v m hm => (restartTLine_spec k v).2.1 m hm) (l := tlineNos) List.nodup_range (List.mem_range.2 hn) a
    obtain ⟨-, -, some_, none_⟩ := restartTLine_spec n (forEach pre restartTLine a)
    have line : a.tline n = s.tline n := by rw [fa]; rfl
    have admitted : (forEach pre restartTLine a).admitted n ↔ s.admitted n := by
      refine exists_congr fun k => and_congr_right fun hk => ?_
      have bound : termNo n k < 64 := by simp only [termNo]; omega
      rw [term_of_terms (s := a) (by rw [framed]), terms _ bound, (Terminal.restarted_spec _).1]
      simp
    rw [before, line, admitted] at some_ none_
    rw [eu, after]
    exact ⟨some_, none_⟩

/-! ### The referral windows (R190) -/

theorem restartWindows_spec (s : State) :
    let u := restartWindows s
    u = { s with windows := u.windows } ∧ ∀ w, w < 4 → u.window w = (s.window w).restarted := by
  intro u
  refine ⟨forEach_rel (R := fun s t => t = { s with windows := t.windows }) (fun _ => rfl)
    (fun _ _ _ h1 h2 => by rw [h2, h1]) _ (fun _ _ => rfl) s, fun w hw => ?_⟩
  exact (read_forEach State.window Window.restarted (fun k v => State.window_setWindow_same v k _)
    (fun k v m h => State.window_setWindow_other v h _) windowNos List.nodup_range s w).trans
      (if_pos (List.mem_range.2 hw))

/-! ### The whole (R72, R209) -/

/-- R209: what a RESTART leaves of each block. -/
structure BlocksRestarted (s u : State) : Prop where
  frame : u = { s with
    fu := s.fu.restarted, cells := u.cells, queues := u.queues, lines := u.lines, slots := u.slots, ribbonA := u.ribbonA
    ribbonB := u.ribbonB, tlines := u.tlines, terms := u.terms, windows := u.windows }
  cells : ∀ c, u.cell c = { s.cell c with flashCount := 0, tradeMark := false, prevChars := none, needsFull := false }
  queues : ∀ n, n < 8 → u.refreshQueue n = liveCells n s
  lines : ∀ n, n < 8 → LineRestarted (s.line n) (u.line n)
  slots : ∀ n k, n < 8 → k < 64 → u.slotState (cellNo n k) = SlotState.cold
  ribbons : ∀ id, u.ribbon id = (s.ribbon id).restarted (closedOrAfter s.session.state)
  terms : ∀ n, n < 64 → u.term n = (s.term n).restarted
  tlines : ∀ n, n < 4 →
    (s.admitted n → u.tline n = { (s.tline n).restarted with round := some { last := none, wide := true } }) ∧
    (¬s.admitted n → u.tline n = (s.tline n).restarted)
  windows : ∀ w, w < 4 → u.window w = (s.window w).restarted

theorem restartBlocks_restarted (s : State) : BlocksRestarted s (restartBlocks s) := by
  obtain ⟨c, ec⟩ : ∃ c, c = restartCells (s.setFU s.fu.restarted) := ⟨_, rfl⟩
  obtain ⟨l, el⟩ : ∃ l, l = forEach lineNos restartLine c := ⟨_, rfl⟩
  obtain ⟨r, er⟩ : ∃ r, r = forEach ribbonIds restartRibbon l := ⟨_, rfl⟩
  obtain ⟨t, et⟩ : ∃ t, t = restartTerminals r := ⟨_, rfl⟩
  obtain ⟨w, ew⟩ : ∃ w, w = restartWindows t := ⟨_, rfl⟩
  have whole : restartBlocks s = w := by rw [ew, et, er, el, ec]; rfl
  obtain ⟨fc, cells, queues⟩ := restartCells_spec (s.setFU s.fu.restarted)
  obtain ⟨fl, slots, lines⟩ := restartLines_spec c
  obtain ⟨fr, ribbons⟩ := restartRibbons_spec l
  obtain ⟨ft, terms, tlines⟩ := restartTerminals_spec r
  obtain ⟨fw, windows⟩ := restartWindows_spec t
  rw [← ec] at fc cells queues
  rw [← el] at fl slots lines
  rw [← er] at fr ribbons
  rw [← et] at ft terms tlines
  rw [← ew] at fw windows
  rw [whole]
  have lineIn : ∀ n, c.line n = s.line n := fun n => by rw [fc]; rfl
  have ribbonIn : ∀ id, l.ribbon id = s.ribbon id := ribbon_of_ribbons (by rw [fl, fc]; rfl) (by rw [fl, fc]; rfl)
  have sessionIn : l.session = s.session := by rw [fl, fc]; rfl
  have rterms : r.terms = s.terms := by rw [fr, fl, fc]; rfl
  have termIn : ∀ n, r.term n = s.term n := term_of_terms rterms
  have tlineIn : ∀ n, r.tline n = s.tline n := fun n => by rw [fr, fl, fc]; rfl
  have admittedIn : ∀ n, r.admitted n ↔ s.admitted n := fun n => by simp only [State.admitted, termIn]
  have windowIn : ∀ n, t.window n = s.window n := fun n => by rw [ft, fr, fl, fc]; rfl
  refine ⟨by rw [fw, ft, fr, fl, fc]; rfl, fun d => ?_, fun n hn => ?_, fun n hn => ?_, fun n k hn hk => ?_, fun id => ?_,
    fun n hn => ?_, fun n hn => ?_, fun n hn => ?_⟩
  · have out : w.cells = c.cells := by rw [fw, ft, fr, fl]
    exact (cell_of_cells out d).trans (cells d)
  · have out : w.queues = c.queues := by rw [fw, ft, fr, fl]
    have live : liveCells n s = c.refreshQueue n := (queues n hn).symm
    rw [live]
    simp only [State.refreshQueue, out]
  · have out : w.lines = l.lines := by rw [fw, ft, fr]
    have own : w.line n = l.line n := by simp only [State.line, out]
    rw [own, ← lineIn]
    exact lines n hn
  · have out : w.slots = l.slots := by rw [fw, ft, fr]
    rw [← slots n k hn hk]
    simp only [State.slotState, out]
  · rw [← ribbonIn, ← sessionIn, ← ribbons]
    exact ribbon_of_ribbons (by rw [fw, ft]) (by rw [fw, ft]) id
  · rw [← termIn, ← terms n hn]
    exact term_of_terms (by rw [fw]) n
  · have out : w.tlines = t.tlines := by rw [fw]
    have own : w.tline n = t.tline n := by simp only [State.tline, out]
    rw [own, ← tlineIn, ← admittedIn]
    exact tlines n hn
  · rw [← windowIn]
    exact windows n hn

/-- R197, R198, R209: the reply of a RESTART in service, and the Link Interface it leaves. -/
theorem endService_restart (r : LinkFrame) (rest : List LinkFrame) {s v : State}
    (h : v.link = (beginService r rest s).link) (bytes : List Byte) :
    endService r (Served.reply bytes (emptyLink v)) = { v with link := { s.link with
      requests := [], notices := [], inService := none
      replies := s.link.replies ++ [{ kind := 0xA0, tag := r.tag, body := r.kind :: bytes }] } } := by
  simp only [endService, Served.reply, emptyLink, putReply, doneReply, State.setLink, h]
  rfl

/-- Settles O59: the blocks (`restartBlocks_restarted`) on the request taken into service, and the reply. -/
theorem restartBringsEveryBlockBack : Obligations.RestartBringsEveryBlockBack := by
  intro r rest s h hbody
  obtain ⟨v, ev⟩ : ∃ v, v = restartBlocks (beginService r rest s) := ⟨_, rfl⟩
  obtain ⟨frame, cells, queues, lines, slots, ribbons, terms, tlines, windows⟩ := restartBlocks_restarted (beginService r rest s)
  rw [← ev] at frame cells queues lines slots ribbons terms tlines windows
  have hlink : v.link = (beginService r rest s).link := by rw [frame]
  have served : serve .restart readNone restartRule s = { v with link := { s.link with
      requests := [], notices := [], inService := none
      replies := s.link.replies ++
        [{ kind := 0xA0, tag := r.tag, body := r.kind :: (numBytes 1 rest.length ++ numBytes 2 s.link.notices.length) }] } } := by
    rw [serve_of_ready h, shaped_of_read (x := ()) (by rw [hbody]; rfl), restartRule, ← ev, endService_restart r rest hlink]
    rfl
  have ribbon : ∀ (k : Link) id, ({ v with link := k } : State).ribbon id = v.ribbon id := fun k id => by cases id <;> rfl
  have term : ∀ (k : Link) n, ({ v with link := k } : State).term n = v.term n := fun k n => rfl
  have whole := actUndecided_of_released h.1 (serve .restart readNone restartRule)
  rw [served] at whole
  refine ⟨_, whole, by rw [frame]; rfl, cells, queues, fun n hn => ?_,
    slots, fun id => ?_, fun n hn => ?_, fun n hn => tlines n hn, windows⟩
  · obtain ⟨kept, timer, stays, moves, idle, begun⟩ := lines n hn
    exact ⟨kept, timer, stays, moves, idle, begun⟩
  · rw [ribbon, ribbons, beginService_ribbon, beginService_session]
    exact Ribbon.restarted_spec _ _
  · obtain ⟨own, alerts⟩ := Terminal.restarted_spec (s.term n)
    rw [term, terms n hn, show (beginService r rest s).term n = s.term n from rfl]
    exact ⟨by rw [own], by rw [own], by rw [own], by rw [own], by rw [own], alerts⟩

end Sys2Proof.Machine
end

section
/-! Proofs: the expiries of counts of seconds (R88, R107, R143, R150, R183), each its object's part of a tick. -/

namespace Sys2Proof.Machine

/-- R80: an offer changes nothing but the refresh queues. -/
theorem offerCell_frame (forced : Bool) (c : Nat) (s : State) :
    offerCell forced c s = { s with queues := (offerCell forced c s).queues } :=
  forEach_offerCell_frame forced [c] s

/-- R80: a cell's record replaced and the cell offered. -/
theorem setCell_offered {c : Nat} {r : Cell} {s : State} (h : r.needsFull = (s.cell c).needsFull) :
    let u := offerCell false c (s.setCell c r)
    u = { s with cells := u.cells, queues := u.queues } ∧ u.cell c = r ∧ (∀ d, d ≠ c → u.cell d = s.cell d) ∧
      Offered [c] s u := by
  have flags : ∀ d, (s.cell d).needsFull = ((s.setCell c r).cell d).needsFull := fun d => by
    by_cases e : d = c
    · rw [e, State.cell_setCell_same, h]
    · rw [State.cell_setCell_other _ e]
  refine ⟨by rw [offerCell_frame]; rfl, (cell_of_cells (cells_offerCell ..) c).trans (State.cell_setCell_same ..),
    fun d hd => (cell_of_cells (cells_offerCell ..) d).trans (State.cell_setCell_other _ hd _),
    (offered_offerCell c _).of_flags flags rfl rfl⟩

/-- R143: the quiet count that reaches the interval of an idle QUIET line with an admitted terminal begins a round. -/
theorem quietExpiry_of_due {line : Nat} {s : State} (hr : (s.tline line).round = none)
    (hp : (s.tline line).poll = .quiet) (hq : (s.tline line).quietInterval ≤ min 10 ((s.tline line).quietCount + 1))
    (ha : s.admitted line) : quietExpiry line s = tickQuiet line s :=
  if_pos ⟨Option.isNone_iff_eq_none.2 hr, hp, hq, (anyAdmitted_iff s line).2 ha⟩

/-- R150: an ACTIVE terminal whose lapse count reaches the lapse time. -/
theorem Terminal.tickLapse_of_due {time : Nat} {t : Terminal} (ha : t.state = .active) (h0 : time ≠ 0)
    (hl : time * 60 ≤ min 3600 (t.lapse + 1)) :
    t.tickLapse time = { t with lapse := min 3600 (t.lapse + 1), state := .lapsed, idleOwed := true } := by
  rw [Terminal.tickLapse, if_pos ha]
  exact if_pos ⟨h0, hl⟩

/-- R150: a terminal's lapse count that reaches its line's lapse time is taken as in a tick. -/
theorem lapseExpiry_of_due {line addr : Nat} (haddr : addr < 16) {s : State}
    (ha : (s.term (termNo line addr)).state = .active) (h0 : (s.tline line).lapseTime ≠ 0)
    (hl : (s.tline line).lapseTime * 60 ≤ min 3600 ((s.term (termNo line addr)).lapse + 1)) :
    lapseExpiry (termNo line addr) s = s.setTerm (termNo line addr) { s.term (termNo line addr) with
      lapse := min 3600 ((s.term (termNo line addr)).lapse + 1), state := .lapsed, idleOwed := true } := by
  have own : termNo line addr / 16 = line := by simp only [termNo]; omega
  rw [lapseExpiry, own, Terminal.tickLapse_of_due ha h0 hl, if_pos (by simp [ha]), tickLapse, own,
    Terminal.tickLapse_of_due ha h0 hl]

/-- R183: what the expiry of a held request leaves. -/
theorem expireHeld_spec (w : Nat) (h : HeldSlot) (s : State) :
    let n := termNo h.line h.addr
    let u := expireHeld w h s
    s.ReferralFrame u ∧ u.window w = { s.window w with slot := none, outcome := .expired } ∧
      (∀ v, v ≠ w → u.window v = s.window v) ∧
      u.term n = { s.term n with record := (s.term n).record.unanswered } ∧ (∀ m, m ≠ n → u.term m = s.term m) ∧
      Noticed [.referral w] s u ∧ u.counter .rfExpired = min 4294967295 (s.counter .rfExpired + 1) ∧
      s.onlyCounted u [.rfExpired] := by
  intro n u
  obtain ⟨v, ev⟩ : ∃ v, v = giveResult n (DealerResult.ofCode .noAnswer) ((emptySlot w .expired s).count .rfExpired) :=
    ⟨_, rfl⟩
  have eu : u = v.raise (.referral w) := by rw [ev]; rfl
  have frame : s.ReferralFrame v := by rw [ev]; rfl
  have notices : s.link.notices = v.link.notices := by rw [ev]; rfl
  rw [eu]
  refine ⟨frame.trans (v.raise_referralFrame _), by rw [← eu]; exact expireHeld_window w h s, fun k hk => ?_, ?_,
    fun m hm => ?_, (noticed_raise v _).of_notices notices rfl, ?_, fun k hk => ?_⟩
  · rw [State.raise_frame, ev]
    exact State.window_setWindow_other _ hk _
  · rw [State.raise_term, ev]
    exact State.term_setTerm_same ..
  · rw [State.raise_term, ev]
    exact State.term_setTerm_other _ hm _
  · rw [State.raise_counter, ev]
    exact State.counter_count_same (emptySlot w .expired s) .rfExpired
  · rw [State.raise_counter, ev]
    exact State.counter_count_other (emptySlot w .expired s) (by simpa using hk)

/-- Settles O29: each expiry is its object's own part of a tick (`setCell_offered`, `tickQuiet_ticked`,
`lapseExpiry_of_due`, `expireHeld_spec`). -/
theorem expiriesOfCounts : Obligations.ExpiriesOfCounts := by
  refine ⟨⟨fun line slot s hr => ⟨fun h => ?_, fun h => ?_⟩, fun line s hr => ⟨fun h => ?_, fun h => ?_⟩⟩,
    fun line s hr => ?_, fun line addr s hr => ?_, fun w s h hr hs hl => ?_⟩
  · exact ⟨flashExpire (cellNo line slot) s, (act_of_released hr _).trans (by rw [flashExpiry, if_pos h]),
      setCell_offered rfl⟩
  · exact (act_of_released hr _).trans (by rw [flashExpiry, if_neg h])
  · exact ⟨darkExpire line s, (act_of_released hr _).trans (by rw [darkExpiry, if_pos h]), rfl, State.line_setLine_same ..,
      fun n hn => State.line_setLine_other _ hn _⟩
  · exact (act_of_released hr _).trans (by rw [darkExpiry, if_neg h])
  · intro l hround hpoll hcount hadm
    obtain ⟨frame, others⟩ := tickQuiet_frame line s
    exact ⟨_, (act_of_released hr _).trans (by rw [quietExpiry_of_due hround hpoll hcount hadm]), frame,
      (tickQuiet_ticked line s).due hround hpoll hcount hadm, others⟩
  · intro n t hactive hset hreached
    exact ⟨_, (act_of_released hr _).trans (by rw [lapseExpiry_of_due addr.2 hactive hset hreached]), rfl,
      State.term_setTerm_same .., fun m hm => State.term_setTerm_other _ hm _⟩
  · have expired : referralExpiry w s = expireHeld w h s := by simp only [referralExpiry, hs, if_pos hl]
    exact ⟨_, (act_of_released hr _).trans (by rw [expired]), expireHeld_spec w h s⟩

end Sys2Proof.Machine
end

section
/-! Proofs: BIND, UNBIND, HOLD and RELEASE (R75 to R78, R80). -/

namespace Sys2Proof.Machine

/-! ### The checks (R75 to R78) -/

theorem fieldOf_isSome_iff (n : Nat) : (fieldOf n).isSome = true ↔ n ≤ 7 := by
  simp only [fieldOf, isSome_getElem?, List.length_cons, List.length_nil]
  omega

theorem hueOfCode_eq_none_iff (n : Nat) : hueOfCode n = none ↔ 2 < n := by
  simp only [hueOfCode, List.getElem?_eq_none_iff, List.length_cons, List.length_nil]
  omega

theorem slotInRange_iff (line slot : Nat) : slotInRange line slot = true ↔ line ≤ 7 ∧ slot ≤ 63 := by
  simp [slotInRange]

theorem BindBody.inRange_iff (b : BindBody) : b.inRange = true ↔
    b.line ≤ 7 ∧ b.slot ≤ 63 ∧ b.index ≤ 1023 ∧ b.field ≤ 7 ∧ 1 ≤ b.width ∧ b.width ≤ 10 := by
  simp only [BindBody.inRange, Bool.and_eq_true, decide_eq_true_eq, slotInRange_iff, fieldOf_isSome_iff, and_assoc]

theorem Cell.heldBeyond_iff (w : Nat) (r : Cell) :
    r.heldBeyond w = true ↔ ∃ h, r.hold = some h ∧ w < h.text.length := by
  unfold Cell.heldBeyond
  cases r.hold <;> simp

/-- R77: a text with a byte that is no board character. -/
theorem holdText_eq_none {l : List Byte} (h : ∃ x ∈ l, boardCharOf x = none) : holdText l = none := by
  induction l with
  | nil => simp at h
  | cons b l ih =>
    rw [holdText]
    split
    · next c cs hc hcs =>
      obtain ⟨x, hx, hn⟩ := h
      rcases List.mem_cons.1 hx with rfl | hx
      · cases hc.symm.trans hn
      · cases hcs.symm.trans (ih ⟨x, hx, hn⟩)
    · rfl

/-- R77: a HUE or a text that no hold can have. -/
theorem HoldBody.holdFor_of_unread {b : HoldBody} (h : 2 < b.hue ∨ ∃ x ∈ b.text, boardCharOf x = none) (w : Nat) :
    b.holdFor w = none := by
  unfold HoldBody.holdFor
  split
  · next cs hue hcs hhue =>
    rcases h with h | h
    · cases hhue.symm.trans ((hueOfCode_eq_none_iff _).2 h)
    · cases hcs.symm.trans (holdText_eq_none h)
  · rfl

/-- R77: a hold is as long as its text, which fits the cell. -/
theorem HoldBody.holdFor_of_read {b : HoldBody} {cs : List BoardChar} {hue : Hue} (hc : holdText b.text = some cs)
    (hh : hueOfCode b.hue = some hue) (w : Nat) : b.holdFor w =
      if 1 ≤ cs.length ∧ cs.length ≤ 10 ∧ cs.length ≤ w then some { text := cs, hue := hue, flash := b.flash }
      else none := by
  rw [HoldBody.holdFor, hc, hh]

/-! ### Cell lists (R75, R76) -/

theorem leaveBound_of_bound {c i : Nat} {s : State} (h : (s.cell c).binding = some i) : leaveBound c s = leaveList i c s := by
  rw [leaveBound, h]

theorem leaveBound_of_unbound {c : Nat} {s : State} (h : (s.cell c).binding = none) : leaveBound c s = s := by
  rw [leaveBound, h]

theorem leaveBound_frame (c : Nat) (s : State) : leaveBound c s = { s with entries := (leaveBound c s).entries } := by
  cases h : (s.cell c).binding with
  | none => rw [leaveBound_of_unbound h]
  | some i => rw [leaveBound_of_bound h]; rfl

/-- R75: the list that a bound cell leaves. -/
theorem leaveBound_entry_same {c i : Nat} {s : State} (h : (s.cell c).binding = some i) : (leaveBound c s).entry i =
    { s.entry i with cells := (s.entry i).cells.filter (fun d => decide (d ≠ c)) } := by
  rw [leaveBound_of_bound h]
  exact State.entry_setEntry_same ..

/-- R75: a cell bound to another index leaves its old list for the tail of the new one. -/
theorem joinList_leaveBound_entry {c i : Nat} {s : State} (h : (s.cell c).binding ≠ some i) :
    let u := joinList i c (leaveBound c s)
    u.entry i = { s.entry i with cells := (s.entry i).cells ++ [c] } ∧
      (∀ j, (s.cell c).binding = some j →
        u.entry j = { s.entry j with cells := (s.entry j).cells.filter (fun d => decide (d ≠ c)) }) ∧
      ∀ j, j ≠ i → (s.cell c).binding ≠ some j → u.entry j = s.entry j := by
  refine ⟨?_, fun j hj => ?_, fun j hji hj => ?_⟩
  · rw [← leaveBound_entry_other h]
    exact State.entry_setEntry_same ..
  · have hji : j ≠ i := by rintro rfl; exact h hj
    rw [← leaveBound_entry_same hj]
    exact State.entry_setEntry_other _ hji _
  · rw [← leaveBound_entry_other hj]
    exact State.entry_setEntry_other _ hji _

/-! ### The effects -/

/-- R75: what an accepted BIND leaves. -/
theorem bindCell_spec (c i : Nat) (f : Field) (w : Nat) (s : State) :
    let u := bindCell c i f w s
    u = { s with cells := u.cells, entries := u.entries, queues := u.queues } ∧
      u.cell c = { s.cell c with
        binding := some i, field := f, width := w, flashCount := 0, tradeMark := false, prevChars := none } ∧
      (∀ d, d ≠ c → u.cell d = s.cell d) ∧ Offered [c] s u ∧
      ((s.cell c).binding = some i → u.entries = s.entries) ∧
      ((s.cell c).binding ≠ some i → u.entries = (joinList i c (leaveBound c s)).entries) := by
  intro u
  obtain ⟨t, et⟩ : ∃ t, t = if (s.cell c).binding = some i then s else joinList i c (leaveBound c s) := ⟨_, rfl⟩
  have frame : t = { s with entries := t.entries } := by
    rw [et]
    split
    · rfl
    · rw [joinList, leaveBound_frame]; rfl
  have eu : u = offerCell false c (t.setCell c
      { (t.cell c).fresh with binding := some i, field := f, width := w }) := by rw [et]; rfl
  have cells : t.cells = s.cells := by rw [frame]
  have tcell : ∀ d, t.cell d = s.cell d := cell_of_cells cells
  obtain ⟨kept, own, others, offered⟩ := setCell_offered (c := c) (s := t)
    (r := { (t.cell c).fresh with binding := some i, field := f, width := w }) rfl
  rw [← eu] at kept own others offered
  have entries : u.entries = t.entries := by rw [kept]
  refine ⟨by rw [kept, frame], by rw [own, tcell]; rfl, fun d hd => (others d hd).trans (tcell d),
    offered.of_eq cells.symm (by rw [frame]) rfl, fun h => ?_, fun h => ?_⟩
  · rw [entries, et, if_pos h]
  · rw [entries, et, if_neg h]

/-- R76: what an accepted UNBIND leaves. -/
theorem unbindCell_spec {c i : Nat} {s : State} (h : (s.cell c).binding = some i) :
    let u := unbindCell c s
    u = { s with cells := u.cells, entries := u.entries, queues := u.queues } ∧
      u.cell c = { s.cell c with binding := none, flashCount := 0, tradeMark := false, prevChars := none } ∧
      (∀ d, d ≠ c → u.cell d = s.cell d) ∧ Offered [c] s u ∧
      u.entry i = { s.entry i with cells := (s.entry i).cells.filter (fun d => decide (d ≠ c)) } ∧
      ∀ j, j ≠ i → u.entry j = s.entry j := by
  intro u
  obtain ⟨t, et⟩ : ∃ t, t = leaveBound c s := ⟨_, rfl⟩
  have frame : t = { s with entries := t.entries } := by rw [et, ← leaveBound_frame]
  have eu : u = offerCell false c (t.setCell c { (t.cell c).fresh with binding := none }) := by rw [et]; rfl
  have cells : t.cells = s.cells := by rw [frame]
  have tcell : ∀ d, t.cell d = s.cell d := cell_of_cells cells
  obtain ⟨kept, own, others, offered⟩ := setCell_offered (c := c) (s := t)
    (r := { (t.cell c).fresh with binding := none }) rfl
  rw [← eu] at kept own others offered
  have entry : ∀ j, u.entry j = t.entry j := entry_of_entries (by rw [kept])
  refine ⟨by rw [kept, frame], by rw [own, tcell]; rfl, fun d hd => (others d hd).trans (tcell d),
    offered.of_eq cells.symm (by rw [frame]) rfl, ?_, fun j hj => ?_⟩
  · rw [entry, et, leaveBound_entry_same h]
  · rw [entry, et, leaveBound_entry_other fun e => hj (Option.some.inj (e.symm.trans h))]

/-- R77: what an accepted HOLD leaves. -/
theorem holdCell_spec (c : Nat) (h : Hold) (s : State) :
    let u := holdCell c h s
    u = { s with cells := u.cells, queues := u.queues } ∧
      u.cell c = { s.cell c with hold := some h, flashCount := 0 } ∧ (∀ d, d ≠ c → u.cell d = s.cell d) ∧
      Offered [c] s u :=
  setCell_offered rfl

/-- R78: what an accepted RELEASE leaves. -/
theorem releaseCell_spec (c : Nat) (s : State) :
    let u := releaseCell c s
    u = { s with cells := u.cells, queues := u.queues } ∧ u.cell c = { s.cell c with hold := none } ∧
      (∀ d, d ≠ c → u.cell d = s.cell d) ∧ Offered [c] s u :=
  setCell_offered rfl

/-! ### The requests -/

section
variable {r : LinkFrame} {rest : List LinkFrame} {s : State}

/-- R197, R198: a request that is DONE, whose rule leaves the link alone. -/
theorem act_of_doneKept {α : Type} {v : State} {k : HostKind} {x : α} {read : List Byte → Option α}
    {rule : α → State → Served} (h : s.ready k r rest) (hr : read r.body = some x)
    (hd : rule x (beginService r rest s) = Served.done v) (hl : v.link = (beginService r rest s).link) :
    act (serve k read rule) s = .next (finish s { v with link := s.link.replied r rest [] }) := by
  rw [act_of_done h hr hd (by rw [hl]), hl]
  rfl

/-- R75 to R78: values out of their ranges. -/
theorem cellRequests_range :
    (∀ b, s.ready .bind r rest → readBind r.body = some b →
      (7 < b.line ∨ 63 < b.slot ∨ 1023 < b.index ∨ 7 < b.field ∨ b.width < 1 ∨ 10 < b.width) →
      exec .bind s = .next (finish s (s.refusedHead r rest .range))) ∧
    (∀ line slot, read2 r.body = some (line, slot) → (7 < line ∨ 63 < slot) →
      (s.ready .unbind r rest → exec .unbind s = .next (finish s (s.refusedHead r rest .range))) ∧
      (s.ready .release r rest → exec .release s = .next (finish s (s.refusedHead r rest .range)))) ∧
    ∀ b, s.ready .hold r rest → readHold r.body = some b →
      (7 < b.line ∨ 63 < b.slot ∨ 2 < b.hue ∨ (∃ x ∈ b.text, boardCharOf x = none)) →
      exec .hold s = .next (finish s (s.refusedHead r rest .range)) := by
  have outside : ∀ line slot, 7 < line ∨ 63 < slot → (!slotInRange line slot) = true := fun line slot h => by
    rw [Bool.not_eq_true', ← Bool.not_eq_true, slotInRange_iff]
    omega
  refine ⟨fun b h hr hb => ?_, fun line slot hr hb => ⟨fun h => ?_, fun h => ?_⟩, fun b h hr hb => ?_⟩
  · refine act_of_refused h hr (if_pos ?_)
    rw [Bool.not_eq_true', ← Bool.not_eq_true, b.inRange_iff]
    omega
  · exact act_of_refused h hr (if_pos (outside line slot hb))
  · exact act_of_refused h hr (if_pos (outside line slot hb))
  · refine act_of_refused h hr ?_
    by_cases hs : 7 < b.line ∨ 63 < b.slot
    · exact if_pos (outside _ _ hs)
    · have unread : 2 < b.hue ∨ ∃ x ∈ b.text, boardCharOf x = none := by
        rcases hb with hb | hb | hb
        · exact absurd (.inl hb) hs
        · exact absurd (.inr hb) hs
        · exact hb
      rw [holdRule, HoldBody.holdFor_of_unread unread, ite_self]

/-- R75: the checks of a BIND in range, and its effect. -/
theorem bindRule_of_range {b : BindBody} {f : Field} (hr : b.inRange = true) (hf : fieldOf b.field = some f) (s : State) :
    let c := cellNo b.line b.slot
    bindRule b s = if (s.cell c).heldBeyond b.width then Served.refuse .state s
      else if (s.cell c).binding ≠ some b.index ∧ listFull b.index s then Served.refuse .noroom s
      else Served.done (bindCell c b.index f b.width s) := by
  rw [bindRule, hf, if_neg (by simp [hr])]

/-- R75: a BIND in range. -/
theorem bind_answers {b : BindBody} {f : Field} (h : s.ready .bind r rest) (hr : readBind r.body = some b)
    (range : b.inRange = true) (hf : fieldOf b.field = some f) :
    let c := cellNo b.line b.slot
    let i := b.index
    ((∃ h, (s.cell c).hold = some h ∧ b.width < h.text.length) →
      exec .bind s = .next (finish s (s.refusedHead r rest .state))) ∧
    ((∀ h, (s.cell c).hold = some h → h.text.length ≤ b.width) → (s.cell c).binding ≠ some i →
      4 ≤ (s.entry i).cells.length → exec .bind s = .next (finish s (s.refusedHead r rest .noroom))) ∧
    ((∀ h, (s.cell c).hold = some h → h.text.length ≤ b.width) →
      ((s.cell c).binding = some i ∨ (s.entry i).cells.length < 4) →
      let v := bindCell c i f b.width (beginService r rest s)
      exec .bind s = .next (finish s { v with link := s.link.replied r rest [] })) := by
  intro c i
  have rule := bindRule_of_range range hf (beginService r rest s)
  have fits : (∀ x, (s.cell c).hold = some x → x.text.length ≤ b.width) → ¬(s.cell c).heldBeyond b.width = true :=
    fun hw g => by
      obtain ⟨x, hx, hlt⟩ := (Cell.heldBeyond_iff _ _).1 g
      exact absurd (hw x hx) (Nat.not_le.2 hlt)
  refine ⟨fun hw => ?_, fun hw hb hl => ?_, fun hw hb => ?_⟩
  · exact act_of_refused h hr (rule.trans (if_pos ((Cell.heldBeyond_iff _ _).2 hw)))
  · exact act_of_refused h hr ((rule.trans (if_neg (fits hw))).trans (if_pos ⟨hb, decide_eq_true hl⟩))
  · have room : ¬((s.cell c).binding ≠ some i ∧ listFull i s = true) := fun g =>
      hb.elim g.1 fun hl => absurd (of_decide_eq_true g.2) (Nat.not_le.2 hl)
    have kept : (bindCell c i f b.width (beginService r rest s)).link = (beginService r rest s).link := by
      rw [(bindCell_spec c i f b.width (beginService r rest s)).1]
    exact act_of_doneKept h hr ((rule.trans (if_neg (fits hw))).trans (if_neg room)) kept

end

/-- Settles O39: the checks of each request, and its effect on its cell (`bindCell_spec`, `unbindCell_spec`, `holdCell_spec`,
`releaseCell_spec`) in the frame of a request that is DONE. -/
theorem cellRequestsActOnTheirCell : Obligations.CellRequestsActOnTheirCell := by
  refine ⟨fun r rest s _ => cellRequests_range, fun r rest s b f h hr h1 h2 h3 hf h4 h5 => ?_,
    fun r rest s line slot h hr h1 h2 => ?_, fun r rest s b cs hue h hr h1 h2 hcs hhue => ?_,
    fun r rest s line slot h hr h1 h2 => ?_⟩
  · intro c i
    obtain ⟨held, full, done⟩ := bind_answers h hr
      (b.inRange_iff.2 ⟨h1, h2, h3, (fieldOf_isSome_iff _).1 (by rw [hf]; rfl), h4, h5⟩) hf
    refine ⟨held, full, fun hw hb => ?_⟩
    obtain ⟨frame, own, others, offered, same, moved⟩ := bindCell_spec c i f b.width (beginService r rest s)
    have lists := joinList_leaveBound_entry (s := beginService r rest s) (c := c) (i := i)
    refine ⟨_, done hw hb, by rw [frame]; rfl, own, others, offered.served, same,
      fun hn => ?_, fun j hj hji => ?_, fun j hji hj => ?_⟩
    · exact (entry_of_entries (moved hn) i).trans (lists hn).1
    · have hn : (s.cell c).binding ≠ some i := fun e => hji (Option.some.inj (hj.symm.trans e))
      exact (entry_of_entries (moved hn) j).trans ((lists hn).2.1 j hj)
    · by_cases hn : (s.cell c).binding = some i
      · exact entry_of_entries (same hn) j
      · exact (entry_of_entries (moved hn) j).trans ((lists hn).2.2 j hji hj)
  · intro c
    have range : ¬(!slotInRange line slot) = true := by rw [(slotInRange_iff ..).2 ⟨h1, h2⟩]; decide
    refine ⟨fun hn => act_of_refused h hr ((if_neg range).trans (if_pos hn)), fun i hi => ?_⟩
    have bound : (s.cell c).binding ≠ none := by rw [hi]; exact Option.some_ne_none i
    obtain ⟨frame, own, others, offered, entry, entries⟩ := unbindCell_spec (s := beginService r rest s) hi
    exact ⟨_, act_of_doneKept h hr ((if_neg range).trans (if_neg bound)) (by rw [frame]), by rw [frame]; rfl, own, others,
      offered.served, entry, entries⟩
  · intro c
    have range : ¬(!slotInRange b.line b.slot) = true := by rw [(slotInRange_iff ..).2 ⟨h1, h2⟩]; decide
    have asked := HoldBody.holdFor_of_read hcs hhue (s.cell c).width
    refine ⟨fun hl => ?_, fun g1 g2 g3 => ?_⟩
    · rw [if_neg (by omega)] at asked
      exact act_of_refused h hr ((if_neg range).trans (by rw [beginService_cell, asked]))
    · rw [if_pos ⟨g1, g2, g3⟩] at asked
      obtain ⟨frame, own, others, offered⟩ := holdCell_spec c { text := cs, hue := hue, flash := b.flash }
        (beginService r rest s)
      exact ⟨_, act_of_doneKept h hr ((if_neg range).trans (by rw [beginService_cell, asked])) (by rw [frame]),
        by rw [frame]; rfl, own, others, offered.served⟩
  · intro c
    have range : ¬(!slotInRange line slot) = true := by rw [(slotInRange_iff ..).2 ⟨h1, h2⟩]; decide
    refine ⟨fun hn => act_of_refused h hr ((if_neg range).trans (if_pos hn)), fun hn => ?_⟩
    obtain ⟨frame, own, others, offered⟩ := releaseCell_spec c (beginService r rest s)
    exact ⟨_, act_of_doneKept h hr ((if_neg range).trans (if_neg hn)) (by rw [frame]), by rw [frame]; rfl, own, others,
      offered.served⟩

end Sys2Proof.Machine
end

section
/-! Proofs: the records of the layout PROM and the end of the load (R74, R93, R100, R101, R204 to R206). -/

namespace Sys2Proof.Machine

/-! ### The end of the load (R93, R100, R101, R206) -/

/-- R100: a frame begun reads its own line, and of the slots that line's. -/
theorem LineBegun.of_reads {n : Nat} {l : BoardLine} {u v : State} (h : LineBegun n l u) (hl : v.line n = u.line n)
    (hs : v.slots = u.slots) : LineBegun n l v := by
  have slot : ∀ c, v.slotState c = u.slotState c := fun c => by simp only [State.slotState, hs]
  obtain ⟨frame, begun, stays, moves⟩ := h
  exact ⟨by rwa [hl], by simpa only [hl, slot] using begun, by rwa [hl], by rwa [hl]⟩

/-- R93, R100, R101: a line `l` lit and in its first frame, its slots as `x` says. -/
def BoardLine.lighted (l : BoardLine) (x : Nat → SlotState) : BoardLine :=
  let lit := { l with state := .lit, scrub := l.enabled.head? }
  { lit with
    scrub := scrubAfterStart lit
    frame := some { items := lit.enabled.map (fun k => { slot := k, command := frameCommand lit k (x k) })
                    offset := lit.offset, rate := lit.rate, sent := 0, applies := lit.enabled, settles := false } }

theorem lightLine_line_same (n : Nat) (s : State) :
    (lightLine n s).line n = (s.line n).lighted (fun k => s.slotState (cellNo n k)) := by
  rw [lightLine, frameStart, sendList, State.line_setLine_same, State.line_setLine_same]
  rfl

theorem lightLine_line_other (n : Nat) (s : State) (m : Nat) (h : m ≠ n) : (lightLine n s).line m = s.line m :=
  (State.line_setLine_other _ h _).trans (State.line_setLine_other _ h _)

theorem lightLine_begun (n : Nat) (s : State) :
    LineBegun n { s.line n with state := .lit, scrub := (s.line n).enabled.head? } (lightLine n s) := by
  have begun := frameStart_begun n (s.setLine n { s.line n with state := .lit, scrub := (s.line n).enabled.head? })
  rwa [State.line_setLine_same] at begun

/-- R93, R206: the lines that the taken records named are lit, each as on its own. -/
theorem lightLines_spec (lines : List Nat) (s : State) :
    let u := forEach lines lightLine s
    u = { s with lines := u.lines } ∧
      (∀ n ∈ lines, LineBegun n { s.line n with state := .lit, scrub := (s.line n).enabled.head? } u) ∧
      ∀ n, n ∉ lines → u.line n = s.line n := by
  intro u
  have frame : u = { s with lines := u.lines } :=
    forEach_rel (R := fun s t => t = { s with lines := t.lines }) (fun _ => rfl) (fun _ _ _ h1 h2 => by rw [h2, h1]) lines
      (fun _ _ => rfl) s
  refine ⟨frame, fun n hn => ?_, fun n hn => forEach_others lightLine State.line lightLine_line_other lines s n hn⟩
  have read := read_forEach_settled (fun v m => (v.line m, fun k => v.slotState (cellNo m k)))
    (g := fun p => (p.1.lighted p.2, p.2)) (fun _ => rfl) (f := lightLine)
    (fun m v => Prod.ext (lightLine_line_same m v) rfl) (fun m v k h => Prod.ext (lightLine_line_other m v k h) rfl)
    lines s n
  rw [if_pos hn] at read
  have own : u.line n = (lightLine n s).line n :=
    (congrArg Prod.fst read).trans (lightLine_line_same n s).symm
  exact (lightLine_begun n s).of_reads own (by rw [frame]; rfl)

/-- R206: what the end of the load leaves. -/
theorem endLoad_ended (result : LoadResult) (cause : Option LoadCause) (failing : Option Nat) (s : State) :
    LoadEnded result cause failing s (endLoad result cause failing s) := by
  obtain ⟨u, hu⟩ : ∃ u, u = endLoad result cause failing s := ⟨_, rfl⟩
  obtain ⟨t, ht⟩ : ∃ t, t = forEach s.loader.lines lightLine
      (s.setLoader { s.loader with result := result, cause := cause, failing := failing }) := ⟨_, rfl⟩
  obtain ⟨lit, begun, others⟩ := lightLines_spec s.loader.lines
    (s.setLoader { s.loader with result := result, cause := cause, failing := failing })
  rw [← ht] at lit begun others
  have cells : t.loader.cells = s.loader.cells := by rw [lit]; rfl
  obtain ⟨v, hv⟩ : ∃ v, v = forEach s.loader.cells (offerCell true) t := ⟨_, rfl⟩
  have offers : v = { t with queues := v.queues } := by rw [hv, ← forEach_offerCell_frame]
  have forced : Forced s.loader.cells t v := hv ▸ forced_forEach _ t
  have eu : u = v.raise .layout := by rw [hu, hv, ← cells, ht]; rfl
  rw [← hu, eu]
  have line : ∀ n, (v.raise .layout).line n = t.line n := fun n => by rw [State.raise_frame, offers]; rfl
  refine ⟨?_, fun n hn => ?_, fun n hn => (line n).trans (others n hn), ?_, ?_⟩
  · rw [State.raise_frame, State.raise_eq, offers, lit]
    rfl
  · exact (begun n hn).of_reads (line n) (by rw [State.raise_frame, offers])
  · exact forced.of_queues (by rw [lit]; rfl) (by rw [State.raise_frame])
  · exact (noticed_raise v _).of_notices (by rw [offers, lit]; rfl) rfl

/-- R204: what a load that ends BAD at the record being read leaves. -/
theorem badLoad_ended (cause : LoadCause) (s : State) :
    LoadEnded .bad (some cause) (some s.loader.pos) s (badLoad cause s) := endLoad_ended ..

/-! ### The judging of a record (R205) -/

/-- R205, step 1: the sum of a record of eight bytes. -/
theorem recordSumHolds_iff (k b1 b2 b3 b4 b5 b6 b7 : Byte) : recordSumHolds [k, b1, b2, b3, b4, b5, b6, b7] = true ↔
    (k.toNat + b1.toNat + b2.toNat + b3.toNat + b4.toNat + b5.toNat + b6.toNat) % 256 = b7.toNat := by
  simp [recordSumHolds, Nat.add_assoc]

/-- TABLE 11-6: a LINE record. -/
theorem readRecord_line (b1 b2 b3 b4 b5 b6 b7 : Byte) : readRecord [0x01, b1, b2, b3, b4, b5, b6, b7] =
    if b1.toNat ≤ 7 ∧ 8 ≤ b2.toNat ∧ b2.toNat ≤ 64 ∧ b3.toNat ≤ 15 ∧ (b4 = 5 ∨ b4 = 10 ∨ b4 = 20) then
      some (.line b1.toNat b2.toNat b3.toNat b4.toNat)
    else none := by
  have rate : ∀ n : Byte, b4 = n ↔ b4.toNat = n.toNat := fun n => BitVec.toNat_inj.symm
  simp only [rate]
  rfl

theorem numberOf_pair (a b : Byte) : numberOf [a, b] = 256 * a.toNat + b.toNat := by
  simp only [numberOf, List.foldl_cons, List.foldl_nil]
  omega

/-- TABLE 11-6: the index of a SLOT record. -/
theorem recordIndex_none {b5 b6 : Byte} (h : b5 = 0xFF ∧ b6 = 0xFF) : recordIndex (numberOf [b5, b6]) = some none := by
  obtain ⟨rfl, rfl⟩ := h
  decide

theorem recordIndex_some {b5 b6 : Byte} (h : b5.toNat ≤ 3) :
    recordIndex (numberOf [b5, b6]) = some (some (256 * b5.toNat + b6.toNat)) := by
  have := b6.isLt
  rw [numberOf_pair, recordIndex, if_neg (by omega), if_pos (by omega)]

theorem recordIndex_bad {b5 b6 : Byte} (h : ¬(b5 = 0xFF ∧ b6 = 0xFF ∨ b5.toNat ≤ 3)) :
    recordIndex (numberOf [b5, b6]) = none := by
  rw [not_or] at h
  have none : ¬(b5.toNat = 255 ∧ b6.toNat = 255) := fun g =>
    h.1 ⟨BitVec.eq_of_toNat_eq g.1, BitVec.eq_of_toNat_eq g.2⟩
  have := b5.isLt
  have := b6.isLt
  rw [numberOf_pair, recordIndex, if_neg (by omega), if_neg (by omega)]

/-- TABLE 11-6: a SLOT record with a field or an index outside the table, or another value. -/
theorem readRecord_slot_bad {b1 b2 b3 b4 b5 b6 : Byte} (b7 : Byte)
    (h : ¬(b1.toNat ≤ 7 ∧ b2.toNat ≤ 63 ∧ 1 ≤ b3.toNat ∧ b3.toNat ≤ 10 ∧ b4.toNat ≤ 7 ∧
      (b5 = 0xFF ∧ b6 = 0xFF ∨ b5.toNat ≤ 3))) :
    readRecord [0x02, b1, b2, b3, b4, b5, b6, b7] = none := by
  rw [readRecord, if_neg (by decide), if_pos rfl]
  split
  · next f i hf hi =>
    refine if_neg fun ⟨g1, g2, g3, g4⟩ => h ⟨g1, g2, g3, g4, (fieldOf_isSome_iff _).1 (by rw [hf]; rfl), ?_⟩
    by_contra bad
    cases (recordIndex_bad bad).symm.trans hi
  · rfl

/-- TABLE 11-6: a SLOT record. -/
theorem readRecord_slot {b1 b2 b3 b4 b5 b6 : Byte} (b7 : Byte) {f : Field} {i : Option Nat}
    (hf : fieldOf b4.toNat = some f) (hi : recordIndex (numberOf [b5, b6]) = some i)
    (h : b1.toNat ≤ 7 ∧ b2.toNat ≤ 63 ∧ 1 ≤ b3.toNat ∧ b3.toNat ≤ 10) :
    readRecord [0x02, b1, b2, b3, b4, b5, b6, b7] = some (.slot b1.toNat b2.toNat b3.toNat f i) := by
  simp only [readRecord, hf, hi, if_pos h]
  rfl

/-- TABLE 11-6: the index that a good SLOT record names, by its bytes 5 and 6. -/
def slotIndex (b5 b6 : Byte) : Option Nat := if b5 = 0xFF then none else some (256 * b5.toNat + b6.toNat)

theorem slotIndex_absent {b5 : Byte} (h : b5 = 0xFF) (b6 : Byte) : slotIndex b5 b6 = none := if_pos h

theorem slotIndex_present {b5 : Byte} (h : b5 ≠ 0xFF) (b6 : Byte) : slotIndex b5 b6 = some (256 * b5.toNat + b6.toNat) :=
  if_neg h

theorem slotIndex_ne_some_iff {b5 b6 : Byte} {j : Nat} :
    slotIndex b5 b6 ≠ some j ↔ b5 = 0xFF ∨ j ≠ 256 * b5.toNat + b6.toNat := by
  by_cases h : b5 = 0xFF
  · rw [slotIndex_absent h]
    exact ⟨fun _ => .inl h, fun _ => nofun⟩
  · rw [slotIndex_present h, ne_eq, Option.some.injEq, eq_comm, or_iff_right h]

theorem recordIndex_of_good {b5 b6 : Byte} (h : b5 = 0xFF ∧ b6 = 0xFF ∨ b5.toNat ≤ 3) :
    recordIndex (numberOf [b5, b6]) = some (slotIndex b5 b6) := by
  rcases h with h | h
  · rw [recordIndex_none h, slotIndex_absent h.1]
  · rw [recordIndex_some h, slotIndex_present (by rintro rfl; revert h; decide)]

/-- TABLE 11-6: the END record. -/
theorem readRecord_end (b1 b2 b3 b4 b5 b6 b7 : Byte) : readRecord [0x03, b1, b2, b3, b4, b5, b6, b7] = some .finish := rfl

/-- R205, step 2: a kind outside the table. -/
theorem readRecord_unknown {k : Byte} (h1 : k ≠ 0x01) (h2 : k ≠ 0x02) (h3 : k ≠ 0x03) (b1 b2 b3 b4 b5 b6 b7 : Byte) :
    readRecord [k, b1, b2, b3, b4, b5, b6, b7] = none := by
  simp only [readRecord, if_neg h1, if_neg h2, if_neg h3]

/-! ### The taking of a record (R74, R93) -/

theorem mem_toTail (n m : Nat) (l : List Nat) : m ∈ toTail n l ↔ m ∈ l ∨ m = n := by
  simp only [toTail, List.mem_append, List.mem_filter, decide_eq_true_eq, List.mem_singleton]
  by_cases e : m = n <;> simp [e]

/-- R93: what a LINE record taken leaves. -/
theorem takeLine_spec (n size offset rate : Nat) (s : State) :
    let v := takeLine n size offset rate s
    v = { s with
      lines := v.lines
      loader := { s.loader with lineCount := s.loader.lineCount + 1, lines := v.loader.lines } } ∧
      (∀ m, m ∈ v.loader.lines ↔ m ∈ s.loader.lines ∨ m = n) ∧
      v.line n = { s.line n with
        size := size, offset := offset, rate := rate, enabled := List.range size, darkDelay := 0 } ∧
      ∀ m, m ≠ n → v.line m = s.line m :=
  ⟨rfl, fun m => mem_toTail n m _, State.line_setLine_same .., fun _ hm => State.line_setLine_other _ hm _⟩

/-- R74: the binding that a SLOT record leaves a cell `c` of `s` with. -/
def State.layoutBound (s : State) (c : Nat) : Option Nat → Option Nat
  | none => none
  | some i => if (s.cell c).binding = some i ∨ (s.entry i).cells.length < 4 then some i else none

/-- R74: an index's list as the cell that was bound elsewhere finds it. -/
theorem listFull_leaveBound {c i : Nat} {s : State} (h : (s.cell c).binding ≠ some i) :
    listFull i (leaveBound c s) = true ↔ 4 ≤ (s.entry i).cells.length := by
  rw [listFull, leaveBound_entry_other h, decide_eq_true_eq]

/-- R74: a SLOT record's index that its cell has already. -/
theorem layoutBinding_same {c : Nat} {i : Option Nat} {s : State} (h : (s.cell c).binding = i) : layoutBinding c i s = s :=
  if_pos h

/-- R74: a cell that no index, or one whose list is full, takes leaves its list. -/
theorem layoutBinding_unbinds {c : Nat} {i : Option Nat} {s : State} (h : (s.cell c).binding ≠ i)
    (hi : ∀ k, i = some k → 4 ≤ (s.entry k).cells.length) :
    layoutBinding c i s = (leaveBound c s).setCell c { s.cell c with binding := none } := by
  rw [layoutBinding, if_neg h]
  cases i with
  | none => rw [← leaveBound_cell c s c]
  | some k => rw [← leaveBound_cell c s c]; exact if_pos ((listFull_leaveBound h).2 (hi k rfl))

/-- R74: a cell that another index takes leaves its list for that one's. -/
theorem layoutBinding_joins {c i : Nat} {s : State} (h : (s.cell c).binding ≠ some i)
    (hi : (s.entry i).cells.length < 4) : layoutBinding c (some i) s =
      (joinList i c (leaveBound c s)).setCell c { s.cell c with binding := some i } := by
  rw [layoutBinding, if_neg h, ← leaveBound_cell c s c]
  exact if_neg fun hl => absurd ((listFull_leaveBound h).1 hl) (Nat.not_le.2 hi)

/-- R74: what the binding of a SLOT record makes of the cell lists. -/
structure ListsBound (c : Nat) (i : Option Nat) (s v : State) : Prop where
  same : (s.cell c).binding = i → v.entries = s.entries
  joined : ∀ k, i = some k → (s.cell c).binding ≠ i → (s.entry k).cells.length < 4 →
    v.entry k = { s.entry k with cells := (s.entry k).cells ++ [c] }
  left : ∀ j, (s.cell c).binding = some j → i ≠ some j →
    v.entry j = { s.entry j with cells := (s.entry j).cells.filter (fun d => decide (d ≠ c)) }
  kept : ∀ j, (s.cell c).binding ≠ some j → (i ≠ some j ∨ 4 ≤ (s.entry j).cells.length) → v.entry j = s.entry j

theorem ListsBound.of_reads {c : Nat} {i : Option Nat} {s s' v v' : State} (h : ListsBound c i s v)
    (hb : (s'.cell c).binding = (s.cell c).binding) (hs : s'.entries = s.entries) (hv : v'.entries = v.entries) :
    ListsBound c i s' v' := by
  have es := entry_of_entries hs
  have ev := entry_of_entries hv
  obtain ⟨same, joined, left, kept⟩ := h
  exact ⟨by rw [hb, hs, hv]; exact same, by simpa only [hb, es, ev] using joined, by simpa only [hb, es, ev] using left,
    by simpa only [hb, es, ev] using kept⟩

theorem layoutBinding_spec (c : Nat) (i : Option Nat) (s : State) :
    let v := layoutBinding c i s
    v = { s with cells := v.cells, entries := v.entries } ∧ v.cell c = { s.cell c with binding := s.layoutBound c i } ∧
      (∀ d, d ≠ c → v.cell d = s.cell d) ∧ ListsBound c i s v := by
  have freed : ∀ d, d ≠ c → ∀ r, ((leaveBound c s).setCell c r).cell d = s.cell d := fun d hd r =>
    (State.cell_setCell_other _ hd _).trans (leaveBound_cell c s d)
  by_cases hb : (s.cell c).binding = i
  · rw [layoutBinding_same hb]
    have bound : s.layoutBound c i = i := by
      cases i with
      | none => rfl
      | some k => exact if_pos (.inl hb)
    exact ⟨rfl, by rw [bound, ← hb], fun _ _ => rfl, fun _ => rfl, fun k _ hn => absurd hb hn,
      fun j hj hi => absurd (hb.symm.trans hj) hi, fun _ _ _ => rfl⟩
  by_cases hi : ∀ k, i = some k → 4 ≤ (s.entry k).cells.length
  · rw [layoutBinding_unbinds hb hi]
    have bound : s.layoutBound c i = none := by
      cases i with
      | none => rfl
      | some k => exact if_neg fun g => g.elim hb fun hl => absurd (hi k rfl) (Nat.not_le.2 hl)
    exact ⟨by rw [leaveBound_frame]; rfl, by rw [bound]; exact State.cell_setCell_same .., fun d hd => freed d hd _,
      fun h => absurd h hb, fun k hk _ hl => absurd (hi k hk) (Nat.not_le.2 hl),
      fun j hj _ => leaveBound_entry_same hj, fun j hj _ => leaveBound_entry_other hj⟩
  · push Not at hi
    obtain ⟨k, rfl, hk⟩ := hi
    rw [layoutBinding_joins hb hk]
    obtain ⟨joined, left, kept⟩ := joinList_leaveBound_entry hb
    refine ⟨by rw [joinList, leaveBound_frame]; rfl,
      by rw [State.layoutBound, if_pos (.inr hk)]; exact State.cell_setCell_same .., fun d hd => freed d hd _,
      fun h => absurd h hb, fun j hj _ _ => ?_, fun j hj _ => left j hj, fun j hj h => kept j ?_ hj⟩
    · cases hj
      exact joined
    · rintro rfl
      exact h.elim (fun g => g rfl) fun hl => absurd hk (Nat.not_lt.2 hl)

/-- R74: what a SLOT record taken leaves. -/
theorem takeSlot_spec (c width : Nat) (field : Field) (i : Option Nat) (s : State) :
    let v := takeSlot c width field i s
    v = { s with
      cells := v.cells, entries := v.entries
      loader := { s.loader with slotCount := s.loader.slotCount + 1, cells := v.loader.cells } } ∧
      (∀ d, d ∈ v.loader.cells ↔ d ∈ s.loader.cells ∨ d = c) ∧ (∀ d, d ≠ c → v.cell d = s.cell d) ∧
      v.cell c = { s.cell c with field := field, width := width, binding := s.layoutBound c i } ∧
      ListsBound c i s v := by
  intro v
  obtain ⟨a, ea⟩ : ∃ a, a = s.setCell c { s.cell c with field := field, width := width } := ⟨_, rfl⟩
  obtain ⟨w, ew⟩ : ∃ w, w = layoutBinding c i a := ⟨_, rfl⟩
  have own : a.cell c = { s.cell c with field := field, width := width } := by rw [ea]; exact State.cell_setCell_same ..
  have binding : (a.cell c).binding = (s.cell c).binding := by rw [own]
  have entries : a.entries = s.entries := by rw [ea]; rfl
  have asked : a.layoutBound c i = s.layoutBound c i := by
    cases i with
    | none => rfl
    | some k => simp only [State.layoutBound, binding, entry_of_entries entries]
  obtain ⟨frame, cell, others, lists⟩ := layoutBinding_spec c i a
  rw [← ew] at frame cell others lists
  have hv : v = w.setLoader { w.loader with
      slotCount := w.loader.slotCount + 1, cells := toTail c w.loader.cells } := by rw [ew, ea]; rfl
  have loader : w.loader = s.loader := by rw [frame, ea]; rfl
  have cells : ∀ d, v.cell d = w.cell d := cell_of_cells (by rw [hv]; rfl)
  refine ⟨?_, fun d => ?_, fun d hd => ?_, ?_, lists.of_reads binding.symm entries.symm (by rw [hv]; rfl)⟩
  · rw [hv, frame, ea]
    rfl
  · rw [hv, ← loader]
    exact mem_toTail c d _
  · rw [cells, others d hd, ea, State.cell_setCell_other _ hd]
  · rw [cells, cell, own, asked]

/-! ### The records in turn (R204, R205) -/

section
variable {s : State}

/-- R204: after a record taken the loader goes on, or ends BAD after record 511. -/
theorem nextRecord_goesOn {v : State} (h : v.loader.pos = s.loader.pos) :
    (s.loader.pos ≠ 511 → nextRecord v = { v with loader := { v.loader with pos := s.loader.pos + 1 } }) ∧
      (s.loader.pos = 511 → LoadEnded .bad (some .noEnd) (some 511) v (nextRecord v)) := by
  refine ⟨fun hn => ?_, fun he => ?_⟩
  · rw [nextRecord, if_neg (by rwa [h]), h]
    rfl
  · have pos := h.trans he
    rw [nextRecord, if_pos pos, badLoad, pos]
    exact endLoad_ended ..

/-- R204: while the load is in progress a record read is judged. -/
theorem exec_record (hr : s.resetAsserted = false) (hp : s.loader.result = .inProgress) (bytes : List Byte) :
    exec (.layoutRecordRead (.record bytes)) s = .next (finish s (judgeRecord bytes s)) :=
  (act_of_released hr _).trans (by rw [recordRead, if_pos hp])

/-- R205: a record that is not the mark of an empty PROM and whose sum holds, as read. -/
theorem judgeRecord_of_sum {bytes : List Byte} (h0 : ¬(s.loader.pos = 0 ∧ bytes.head? = some 0xFF))
    (hs : recordSumHolds bytes = true) :
    (readRecord bytes = none → judgeRecord bytes s = badLoad .content s) ∧
    (readRecord bytes = some .finish → judgeRecord bytes s = endLoad .loaded none none s) ∧
    (∀ n z o r, readRecord bytes = some (.line n z o r) → judgeRecord bytes s = nextRecord (takeLine n z o r s)) ∧
    ∀ l k w f i, readRecord bytes = some (.slot l k w f i) →
      judgeRecord bytes s = nextRecord (takeSlot (cellNo l k) w f i s) := by
  have judged : ¬(!recordSumHolds bytes) = true := by rw [hs]; decide
  refine ⟨fun h => ?_, fun h => ?_, fun n z o r h => ?_, fun l k w f i h => ?_⟩
  all_goals rw [judgeRecord, if_neg h0, if_neg judged, h]

end

/-- Settles O60: the record as judged (`judgeRecord_of_sum`), what taking it leaves (`takeLine_spec`, `takeSlot_spec`), and
the end of the load (`endLoad_ended`). -/
theorem layoutRecordsAreTaken : Obligations.LayoutRecordsAreTaken := by
  intro s hr hp
  refine ⟨⟨_, (act_of_released hr _).trans (by rw [recordRead, if_pos hp]), badLoad_ended .promSilent s⟩, ?_⟩
  intro k b1 b2 b3 b4 b5 b6 b7 read sum badContent goesOn lineGood slotGood
  have judged := exec_record hr hp [k, b1, b2, b3, b4, b5, b6, b7]
  have mark : s.loader.pos = 0 ∧ [k, b1, b2, b3, b4, b5, b6, b7].head? = some 0xFF ↔ s.loader.pos = 0 ∧ k = 0xFF := by
    simp only [List.head?_cons, Option.some.injEq]
  have sums : recordSumHolds [k, b1, b2, b3, b4, b5, b6, b7] = true ↔ sum := recordSumHolds_iff ..
  have taken := fun (hs : sum) (h0 : s.loader.pos ≠ 0 ∨ k ≠ 0xFF) =>
    judgeRecord_of_sum (s := s) (fun g => h0.elim (fun n => n (mark.1 g).1) fun n => n (mark.1 g).2) (sums.2 hs)
  have bad : sum → (s.loader.pos ≠ 0 ∨ k ≠ 0xFF) → readRecord [k, b1, b2, b3, b4, b5, b6, b7] = none → badContent :=
    fun hs h0 h => ⟨_, judged.trans (by rw [(taken hs h0).1 h]), badLoad_ended ..⟩
  have goes : ∀ v, judgeRecord [k, b1, b2, b3, b4, b5, b6, b7] s = nextRecord v → v.loader.pos = s.loader.pos →
      goesOn v := fun v hv pos =>
    ⟨fun hn => judged.trans (by rw [hv, (nextRecord_goesOn pos).1 hn]),
      fun he => ⟨_, judged.trans (by rw [hv]), (nextRecord_goesOn pos).2 he⟩⟩
  refine ⟨⟨fun h0 hk => ?_, fun h0 hs => ?_, fun hs h0 h1 h2 h3 => ?_, fun hs h1 hg => ?_, fun hs h2 hg => ?_,
    fun hs h3 => ?_⟩, fun hs h1 hg => ?_, fun f hs h2 hg hf => ?_⟩
  · exact ⟨_, judged.trans (by rw [judgeRecord, if_pos (mark.2 ⟨h0, hk⟩)]), endLoad_ended ..⟩
  · have not : ¬(s.loader.pos = 0 ∧ k = 0xFF) := fun g => h0.elim (fun n => n g.1) fun n => n g.2
    have sumFails : (!recordSumHolds [k, b1, b2, b3, b4, b5, b6, b7]) = true := by
      rw [Bool.not_eq_true', ← Bool.not_eq_true, sums]; exact hs
    exact ⟨_, judged.trans (by rw [judgeRecord, if_neg (mt mark.1 not), if_pos sumFails]), badLoad_ended ..⟩
  · exact bad hs h0 (readRecord_unknown h1 h2 h3 ..)
  · subst h1
    exact bad hs (.inr (by decide)) ((readRecord_line ..).trans (if_neg hg))
  · subst h2
    exact bad hs (.inr (by decide)) (readRecord_slot_bad b7 hg)
  · subst h3
    exact ⟨_, judged.trans (by rw [(taken hs (.inr (by decide))).2.1 (readRecord_end ..)]), endLoad_ended ..⟩
  · subst h1
    obtain ⟨frame, named, own, others⟩ := takeLine_spec b1.toNat b2.toNat b3.toNat b4.toNat s
    exact ⟨_, goes _ ((taken hs (.inr (by decide))).2.2.1 _ _ _ _ ((readRecord_line ..).trans (if_pos hg)))
      (by rw [frame]), frame, named, own, others⟩
  · subst h2
    intro c i
    obtain ⟨g1, g2, g3, g4, -, g6⟩ := hg
    obtain ⟨frame, named, others, own, lists⟩ := takeSlot_spec c b3.toNat f (slotIndex b5 b6) s
    have isRead := readRecord_slot b7 hf (recordIndex_of_good g6) ⟨g1, g2, g3, g4⟩
    refine ⟨_, goes _ ((taken hs (.inr (by decide))).2.2.2 _ _ _ _ _ isRead) (by rw [frame]), frame, named, others, ?_,
      fun h5 hb => lists.same (hb.trans (slotIndex_present h5 b6).symm),
      fun h5 hb hl => lists.joined i (slotIndex_present h5 b6) (by rwa [slotIndex_present h5]) hl,
      fun j hj h => lists.left j hj (slotIndex_ne_some_iff.2 h), fun j hj h => lists.kept j hj ?_⟩
    · rw [own]
      by_cases h5 : b5 = 0xFF
      · rw [slotIndex_absent h5, if_pos h5]; rfl
      · rw [slotIndex_present h5, if_neg h5]; rfl
    · by_cases hj5 : b5 = 0xFF ∨ j ≠ i
      · exact .inl (slotIndex_ne_some_iff.2 hj5)
      · rw [not_or, not_not] at hj5
        refine .inr ?_
        rcases h with h | h | h
        · exact absurd h hj5.1
        · exact absurd hj5.2 h
        · exact hj5.2 ▸ h

end Sys2Proof.Machine
end

section
/-! Proofs: what the end of a frame applies (R80, R95, R97, R100 to R105, R200). -/

namespace Sys2Proof.Machine

/-! ### One object after another, by a number of its own -/

/-- Where each operation changes its own object alone, and no two have the same one, each object reads as its own operation
leaves it. -/
theorem read_forEach_own {α β : Type} (key : α → Nat) {f : α → State → State} {read : State → Nat → β}
    {g : α → β → β} (same : ∀ a s, read (f a s) (key a) = g a (read s (key a)))
    (other : ∀ a s m, m ≠ key a → read (f a s) m = read s m)
    {l : List α} (hl : (l.map key).Nodup) (s : State) :
    (∀ a ∈ l, read (forEach l f s) (key a) = g a (read s (key a))) ∧
      ∀ m, m ∉ l.map key → read (forEach l f s) m = read s m := by
  induction l generalizing s with
  | nil => exact ⟨by simp, fun _ _ => rfl⟩
  | cons b l ih =>
    rw [List.map_cons, List.nodup_cons] at hl
    obtain ⟨own, rest⟩ := ih hl.2 (f b s)
    refine ⟨fun a ha => ?_, fun m hm => ?_⟩
    · rcases List.mem_cons.1 ha with rfl | ha
      · rw [forEach_cons, rest _ hl.1, same]
      · have ne : key a ≠ key b := fun e => hl.1 (e ▸ List.mem_map_of_mem ha)
        rw [forEach_cons, own a ha, other b s _ ne]
    · rw [List.map_cons, List.mem_cons, not_or] at hm
      rw [forEach_cons, rest m hm.2, other b s m hm.1]

/-! ### The slot and the cell of an item (R95, R102 to R104) -/

/-- R102, R104: a slot after an answer. -/
def SlotState.came (width : Nat) (command : ItemCommand) (x : SlotState) : SlotState :=
  { x.afterAnswer width command with presence := .present, changed := x.changed || decide (x.presence ≠ .present) }

/-- R103: a slot that gave no answer. -/
def SlotState.lost (x : SlotState) : SlotState :=
  { staging := none, shown := none, presence := .absent, changed := x.changed || decide (x.presence = .present) }

/-- R95, R102 to R104: what an item of an ending frame makes of its slot and its cell. -/
def FrameItem.applied (f : Frame) (answers : List ModuleAnswer) (it : FrameItem) (p : SlotState × Cell) : SlotState × Cell :=
  if it.slot ∈ f.applies then
    if answered f.offset answers it.slot then (p.1.came p.2.width it.command, p.2)
    else (p.1.lost, { p.2 with needsFull := true })
  else p

/-- A slot's state and its cell's record. -/
def State.slotAndCell (s : State) (c : Nat) : SlotState × Cell := (s.slotState c, s.cell c)

theorem SlotState.afterAnswer_keeps (width : Nat) (command : ItemCommand) (x : SlotState) :
    (x.afterAnswer width command).presence = x.presence ∧ (x.afterAnswer width command).changed = x.changed := by
  cases command <;> exact ⟨rfl, rfl⟩

/-- R102: an answer's effect by the command that was sent. -/
theorem SlotState.came_spec (width : Nat) (command : ItemCommand) (x : SlotState) :
    let y := x.came width command
    (∀ t, command = .write t → y.shown = some t ∧ y.staging = if x.staging = some t then none else x.staging) ∧
      (command = .blank → y.shown = some (blankText width) ∧ y.staging = x.staging) ∧
      ((∃ t, command = .rewrite t) ∨ command = .sense → y.shown = x.shown ∧ y.staging = x.staging) := by
  refine ⟨?_, ?_, ?_⟩
  · rintro t rfl; exact ⟨rfl, rfl⟩
  · rintro rfl; exact ⟨rfl, rfl⟩
  · rintro (⟨t, rfl⟩ | rfl) <;> exact ⟨rfl, rfl⟩

section
variable (line : Nat) (it : FrameItem) (s : State)

/-- R102, R104: an answered item: its slot's new state, and, when it was not PRESENT, its notice and its cell's offer. -/
theorem slotAnswered_eq : slotAnswered line it s =
    let c := cellNo line it.slot
    let t := s.setSlot c ((s.slotState c).came (s.cell c).width it.command)
    if (s.slotState c).presence = .present then t else offerCell true c (t.raise (.boardModule line it.slot)) := by
  obtain ⟨presence, changed⟩ := (s.slotState (cellNo line it.slot)).afterAnswer_keeps
    (s.cell (cellNo line it.slot)).width it.command
  unfold slotAnswered SlotState.came
  dsimp only
  split
  · next h => rw [decide_eq_false (not_not.2 h), Bool.or_false, ← changed, ← h, ← presence]
  · next h => rw [decide_eq_true h, Bool.or_true]

/-- R103: an item that gave no answer: its slot's new state and its cell's flag, and, when it was PRESENT, its notice and
its count. -/
theorem slotLost_eq : slotLost line it s =
    let c := cellNo line it.slot
    let t := (s.setSlot c (s.slotState c).lost).setCell c { s.cell c with needsFull := true }
    if (s.slotState c).presence = .present then (t.raise (.boardModule line it.slot)).count .bdModuleLost else t := by
  unfold slotLost
  simp only [decide_eq_true_eq]
  rfl

/-- R102, R104: an answered item writes its slot, and no cell. -/
theorem slotAnswered_slotAndCell (m : Nat) :
    let c := cellNo line it.slot
    (slotAnswered line it s).slotAndCell m =
      (s.setSlot c ((s.slotState c).came (s.cell c).width it.command)).slotAndCell m := by
  rw [slotAnswered_eq]
  dsimp only
  split
  · rfl
  · rw [offerCell_frame, State.raise_frame]
    rfl

/-- R103: an item that gave no answer writes its slot and its cell. -/
theorem slotLost_slotAndCell (m : Nat) :
    let c := cellNo line it.slot
    (slotLost line it s).slotAndCell m =
      ((s.setSlot c (s.slotState c).lost).setCell c { s.cell c with needsFull := true }).slotAndCell m := by
  rw [slotLost_eq]
  dsimp only
  split
  · rw [State.raise_frame]
    rfl
  · rfl

variable (f : Frame) (answers : List ModuleAnswer)

theorem applyItem_of_answer (h : it.slot ∈ f.applies) (ha : answered f.offset answers it.slot = true) :
    applyItem line f answers it s = slotAnswered line it s := by
  rw [applyItem, if_pos h, if_pos ha]

theorem applyItem_of_no_answer (h : it.slot ∈ f.applies) (ha : answered f.offset answers it.slot = false) :
    applyItem line f answers it s = slotLost line it s := by
  rw [applyItem, if_pos h, if_neg (by simp [ha])]

theorem applyItem_of_settled (h : it.slot ∉ f.applies) : applyItem line f answers it s = s := if_neg h

/-- R95, R102 to R104: what an item makes of its own slot and cell. -/
theorem applyItem_own : (applyItem line f answers it s).slotAndCell (cellNo line it.slot) =
    it.applied f answers (s.slotAndCell (cellNo line it.slot)) := by
  unfold FrameItem.applied
  by_cases h : it.slot ∈ f.applies
  · rw [if_pos h]
    cases ha : answered f.offset answers it.slot with
    | true =>
      rw [applyItem_of_answer line it s f answers h ha, slotAnswered_slotAndCell]
      exact Prod.ext (State.slotState_setSlot_same ..) rfl
    | false =>
      rw [applyItem_of_no_answer line it s f answers h ha, slotLost_slotAndCell]
      exact Prod.ext ((State.setCell_slotState ..).trans (State.slotState_setSlot_same ..)) (State.cell_setCell_same ..)
  · rw [if_neg h, applyItem_of_settled line it s f answers h]

/-- R95, R102 to R104: an item leaves every other slot and cell. -/
theorem applyItem_other (m : Nat) (hm : m ≠ cellNo line it.slot) :
    (applyItem line f answers it s).slotAndCell m = s.slotAndCell m := by
  by_cases h : it.slot ∈ f.applies
  · cases ha : answered f.offset answers it.slot with
    | true =>
      rw [applyItem_of_answer line it s f answers h ha, slotAnswered_slotAndCell]
      exact Prod.ext (State.slotState_setSlot_other _ hm _) rfl
    | false =>
      rw [applyItem_of_no_answer line it s f answers h ha, slotLost_slotAndCell]
      exact Prod.ext ((State.setCell_slotState ..).trans (State.slotState_setSlot_other _ hm _))
        (State.cell_setCell_other _ hm _)
  · rw [applyItem_of_settled line it s f answers h]

end

/-! ### The counter and the notices of the items (R103, R104, R200) -/

/-- R102 to R104: what is PRESENT where. -/
def State.presentAt (s : State) (line k : Nat) : Bool := decide ((s.slotState (cellNo line k)).presence = .present)

/-- R103: an item's slot is lost. -/
def State.losesItem (s : State) (line : Nat) (f : Frame) (answers : List ModuleAnswer) (it : FrameItem) : Bool :=
  decide (it.slot ∈ f.applies) && s.presentAt line it.slot && !answered f.offset answers it.slot

/-- R103, R104: an item's slot comes or is lost. -/
def State.turnsItem (s : State) (line : Nat) (f : Frame) (answers : List ModuleAnswer) (it : FrameItem) : Bool :=
  decide (it.slot ∈ f.applies) && (answered f.offset answers it.slot != s.presentAt line it.slot)

/-- R102 to R104: what some items of an ending frame change of the state as a whole. -/
structure ItemsApplied (line : Nat) (f : Frame) (answers : List ModuleAnswer) (items : List FrameItem) (s u : State) :
    Prop where
  frame : u = { s with
    slots := u.slots, cells := u.cells, queues := u.queues, counters := u.counters
    link := { s.link with notices := u.link.notices } }
  only : s.onlyCounted u [.bdModuleLost]
  counted : s.advancedBy u .bdModuleLost (items.filter (s.losesItem line f answers)).length
  noticed : Noticed ((items.filter (s.turnsItem line f answers)).map (fun it => .boardModule line it.slot)) s u

section
variable {line : Nat} {f : Frame} {answers : List ModuleAnswer} {it : FrameItem} {items : List FrameItem} {s t u : State}

/-- An item that turns no slot changes neither counters nor notices. -/
theorem ItemsApplied.of_quiet (turns : s.turnsItem line f answers it = false) (loses : s.losesItem line f answers it = false)
    (frame : u = { s with slots := u.slots, cells := u.cells }) : ItemsApplied line f answers [it] s u := by
  have link : u.link = s.link := by rw [frame]
  have counters : u.counters = s.counters := by rw [frame]
  refine ⟨by rw [frame], fun k _ => counter_of_counters counters k, ?_, ?_⟩
  · rw [List.filter_singleton, loses]
    exact State.advancedBy_zero (counter_of_counters counters _)
  · rw [List.filter_singleton, turns]
    exact (Noticed.refl s).of_notices rfl (congrArg Link.notices link)

/-- R102, R104: an answered item that the frame applies to. -/
theorem slotAnswered_applied (h : it.slot ∈ f.applies) (ha : answered f.offset answers it.slot = true) :
    ItemsApplied line f answers [it] s (slotAnswered line it s) := by
  have loses : s.losesItem line f answers it = false := by simp [State.losesItem, ha]
  rw [slotAnswered_eq]
  dsimp only
  split
  · next hp => exact .of_quiet (by simp [State.turnsItem, State.presentAt, ha, hp]) loses rfl
  · next hp =>
    have turns : s.turnsItem line f answers it = true := by simp [State.turnsItem, State.presentAt, h, ha, hp]
    rw [offerCell_frame]
    refine ⟨by rw [State.raise_eq]; rfl, fun k _ => State.raise_counter .., ?_, ?_⟩
    · rw [List.filter_singleton, loses]
      exact State.advancedBy_zero (State.raise_counter ..)
    · rw [List.filter_singleton, turns]
      exact (noticed_raise (s.setSlot _ _) (.boardModule line it.slot)).of_notices rfl rfl

/-- R103: an item without an answer that the frame applies to. -/
theorem slotLost_applied (h : it.slot ∈ f.applies) (ha : answered f.offset answers it.slot = false) :
    ItemsApplied line f answers [it] s (slotLost line it s) := by
  rw [slotLost_eq]
  dsimp only
  split
  · next hp =>
    have turns : s.turnsItem line f answers it = true := by simp [State.turnsItem, State.presentAt, h, ha, hp]
    have loses : s.losesItem line f answers it = true := by simp [State.losesItem, State.presentAt, h, ha, hp]
    refine ⟨by rw [State.raise_eq]; rfl, fun k hk => ?_, ?_, ?_⟩
    · exact (State.counter_count_other _ (by simpa using hk)).trans (State.raise_counter ..)
    · rw [List.filter_singleton, loses]
      exact (State.counter_count_same ..).trans (by rw [State.raise_counter]; rfl)
    · rw [List.filter_singleton, turns]
      exact (noticed_raise ((s.setSlot _ _).setCell _ _) (.boardModule line it.slot)).of_notices rfl rfl
  · next hp =>
    exact .of_quiet (by simp [State.turnsItem, State.presentAt, ha, hp]) (by simp [State.losesItem, State.presentAt, hp]) rfl

/-- R102 to R104: one item. -/
theorem applyItem_applied (line : Nat) (f : Frame) (answers : List ModuleAnswer) (it : FrameItem) (s : State) :
    ItemsApplied line f answers [it] s (applyItem line f answers it s) := by
  by_cases h : it.slot ∈ f.applies
  · cases ha : answered f.offset answers it.slot with
    | true => rw [applyItem_of_answer line it s f answers h ha]; exact slotAnswered_applied h ha
    | false => rw [applyItem_of_no_answer line it s f answers h ha]; exact slotLost_applied h ha
  · rw [applyItem_of_settled line it s f answers h]
    exact .of_quiet (by simp [State.turnsItem, h]) (by simp [State.losesItem, h]) rfl

/-- R102 to R104: one item after another, the later ones' slots as the first leaves them. -/
theorem ItemsApplied.cons (h1 : ItemsApplied line f answers [it] s t) (h2 : ItemsApplied line f answers items t u)
    (same : ∀ jt ∈ items, t.presentAt line jt.slot = s.presentAt line jt.slot) :
    ItemsApplied line f answers (it :: items) s u := by
  have loses : items.filter (t.losesItem line f answers) = items.filter (s.losesItem line f answers) :=
    List.filter_congr fun jt hj => by simp only [State.losesItem, same jt hj]
  have turns : items.filter (t.turnsItem line f answers) = items.filter (s.turnsItem line f answers) :=
    List.filter_congr fun jt hj => by simp only [State.turnsItem, same jt hj]
  have split : ∀ p : FrameItem → Bool, (it :: items).filter p = [it].filter p ++ items.filter p := fun p =>
    List.filter_append (l₁ := [it]) ..
  refine ⟨?_, fun k hk => (h2.only k hk).trans (h1.only k hk), ?_, ?_⟩
  · rw [h2.frame, h1.frame]
  · rw [split, List.length_append, ← loses]
    exact State.advancedBy_trans h1.counted h2.counted
  · rw [split, List.map_append, ← turns]
    exact h1.noticed.append h2.noticed

/-- R102 to R104: the items of a frame, no two of one slot. -/
theorem applyItems_applied (hn : (items.map FrameItem.slot).Nodup) (s : State) :
    ItemsApplied line f answers items s (forEach items (applyItem line f answers) s) := by
  induction items generalizing s with
  | nil => exact ⟨rfl, fun _ _ => rfl, rfl, .refl s⟩
  | cons it l ih =>
    rw [List.map_cons, List.nodup_cons] at hn
    refine (applyItem_applied line f answers it s).cons (ih hn.2 _) fun jt hj => ?_
    have ne : cellNo line jt.slot ≠ cellNo line it.slot := fun e =>
      hn.1 (List.mem_map.2 ⟨jt, hj, by simp only [cellNo] at e; omega⟩)
    have kept := congrArg Prod.fst (applyItem_other line it s f answers _ ne)
    simp only [State.slotAndCell] at kept
    rw [State.presentAt, kept, State.presentAt]

end

/-! ### The end of a frame (R95, R97, R100 to R104) -/

/-- R97, R104: a slot and its cell at the end of a frame that settles the slots of its line, or does not. -/
def settledAtEnd (settles : Bool) (p : SlotState × Cell) : SlotState × Cell :=
  if settles then (p.1.settled, { p.2 with needsFull := false }) else p

theorem settledAtEnd_fst (settles : Bool) (p : SlotState × Cell) :
    (settledAtEnd settles p).1 = if settles then p.1.settled else p.1 := by cases settles <;> rfl

theorem settledAtEnd_snd (settles : Bool) (p : SlotState × Cell) :
    (settledAtEnd settles p).2 = if settles then { p.2 with needsFull := false } else p.2 := by cases settles <;> rfl

/-- R95: settling keeps the changed flag. -/
theorem settledAtEnd_changed (settles : Bool) (p : SlotState × Cell) : (settledAtEnd settles p).1.changed = p.1.changed := by
  cases settles <;> rfl

/-- R97: what the settling at the end of a frame leaves. -/
theorem settledAtEnd_spec (line : Nat) (settles : Bool) (t : State) :
    let w := if settles then settleSlots line slotNos t else t
    w = { t with slots := w.slots, cells := w.cells } ∧
      (∀ k, k < 64 → w.slotAndCell (cellNo line k) = settledAtEnd settles (t.slotAndCell (cellNo line k))) ∧
      ∀ c, (∀ k, k < 64 → c ≠ cellNo line k) → w.slotAndCell c = t.slotAndCell c := by
  cases settles with
  | false => exact ⟨rfl, fun _ _ => rfl, fun _ _ => rfl⟩
  | true =>
    have spec := settleSlots_spec line slotNos t
    simp only [if_true]
    generalize settleSlots line slotNos t = w at spec ⊢
    obtain ⟨frame, slots⟩ := spec
    refine ⟨frame, fun k hk => ?_, fun c hc => ?_⟩
    · obtain ⟨slot, cell⟩ := (slots (cellNo line k)).1 ⟨k, List.mem_range.2 hk, rfl⟩
      exact Prod.ext slot cell
    · obtain ⟨slot, cell⟩ := (slots c).2 fun k hk => hc k (List.mem_range.1 hk)
      exact Prod.ext slot cell

/-- R100: a frame begun does not read the frame that stood before. -/
theorem LineBegun.of_frame {n : Nat} {l : BoardLine} {o : Option Frame} {u : State}
    (h : LineBegun n { l with frame := o } u) : LineBegun n l u := by
  obtain ⟨frame, ⟨f, hf, begun, fixed⟩, stays, moves⟩ := h
  obtain ⟨sent, slots, offset, rate, applies, settles⟩ := begun
  refine ⟨frame, ⟨f, hf, ⟨sent, slots, offset, rate, applies, settles⟩, fun it hi => ?_⟩, stays, moves⟩
  obtain ⟨dark, staged, scrubbed, sensed⟩ := fixed it hi
  exact ⟨dark, staged, scrubbed, sensed⟩

/-- R97, R100, R102 to R104: what the end of a frame leaves. -/
structure FrameEnded (line : Nat) (f : Frame) (answers : List ModuleAnswer) (s u : State) : Prop where
  frame : u = { s with
    lines := u.lines, slots := u.slots, cells := u.cells, queues := u.queues, counters := u.counters
    link := { s.link with notices := u.link.notices } }
  only : s.onlyCounted u [.bdModuleLost]
  counted : s.advancedBy u .bdModuleLost (f.items.filter (s.losesItem line f answers)).length
  noticed : Noticed ((f.items.filter (s.turnsItem line f answers)).map (fun it => .boardModule line it.slot)) s u
  forced : Forced ((f.items.filter (fun it => decide (it.slot ∈ f.applies) && answered f.offset answers it.slot &&
    !s.presentAt line it.slot)).map (fun it => cellNo line it.slot)) s u
  otherLines : ∀ n, n ≠ line → u.line n = s.line n
  off : (s.line line).state = .off → u.line line = { s.line line with frame := none }
  begun : (s.line line).state ≠ .off → LineBegun line (s.line line) u
  otherSlots : ∀ c, (∀ k, k < 64 → c ≠ cellNo line k) → u.slotAndCell c = s.slotAndCell c
  idle : ∀ k, k < 64 → (∀ it ∈ f.items, it.slot = k → k ∉ f.applies) →
    u.slotAndCell (cellNo line k) = settledAtEnd f.settles (s.slotAndCell (cellNo line k))
  items : ∀ it ∈ f.items, u.slotAndCell (cellNo line it.slot) =
    settledAtEnd f.settles (it.applied f answers (s.slotAndCell (cellNo line it.slot)))

theorem endFrame_ended {line : Nat} {f : Frame} (answers : List ModuleAnswer) (s : State)
    (hn : (f.items.map FrameItem.slot).Nodup) (hk : ∀ it ∈ f.items, it.slot < 64) :
    FrameEnded line f answers s (endFrame line f answers s) := by
  obtain ⟨t, et⟩ : ∃ t, t = forEach f.items (applyItem line f answers) (dropFrame line s) := ⟨_, rfl⟩
  obtain ⟨w, ew⟩ : ∃ w, w = if f.settles then settleSlots line slotNos t else t := ⟨_, rfl⟩
  have eu : endFrame line f answers s = nextFrame line w := by rw [ew, et]; rfl
  have applied : ItemsApplied line f answers f.items (dropFrame line s) t := et ▸ applyItems_applied hn _
  have forced := applyItems_forced line f answers (dropFrame line s) f.items hn
  have numbers : (f.items.map (fun it => cellNo line it.slot)).Nodup := by
    have := hn.map (f := cellNo line) fun a b h => by simpa [cellNo] using h
    rwa [List.map_map] at this
  obtain ⟨own, rest⟩ := read_forEach_own (read := State.slotAndCell) (fun it => cellNo line it.slot)
    (fun it v => applyItem_own line it v f answers) (fun it v m h => applyItem_other line it v f answers m h) numbers
    (dropFrame line s)
  rw [← et] at forced own rest
  obtain ⟨settled, inLine, outside⟩ := settledAtEnd_spec line f.settles t
  rw [← ew] at settled inLine outside
  obtain ⟨next, others⟩ := nextFrame_others line w
  rw [eu]
  have lines : ∀ n, w.line n = (dropFrame line s).line n := fun n => by rw [settled, applied.frame]; rfl
  have wline : w.line line = { s.line line with frame := none } := (lines line).trans (State.line_setLine_same ..)
  have slots : ∀ c, (nextFrame line w).slotAndCell c = w.slotAndCell c := fun c => by rw [next]; rfl
  have counters : ∀ k, (nextFrame line w).counter k = t.counter k := counter_of_counters (by rw [next, settled])
  have link : (nextFrame line w).link = t.link := by rw [next, settled]
  have queues : (nextFrame line w).queues = t.queues := by rw [next, settled]
  refine ⟨?_, fun k h => (counters k).trans (applied.only k h), (counters _).trans applied.counted,
    applied.noticed.of_notices rfl (by rw [link]), forced.of_queues rfl queues, fun n h => ?_, fun h => ?_, fun h => ?_,
    fun c hc => ?_, fun k hlt hi => ?_, fun it hi => ?_⟩
  · rw [next, settled, applied.frame]
    rfl
  · rw [others n h, lines, dropFrame, State.line_setLine_other _ h]
  · rw [nextFrame_of_off (by rw [wline]; exact h), wline]
  · have started := frameStart_begun line w
    rw [← nextFrame_of_on (by rw [wline]; exact h), wline] at started
    exact started.of_frame
  · rw [slots, outside c hc]
    refine rest c fun hm => ?_
    obtain ⟨it, hi, e⟩ := List.mem_map.1 hm
    exact hc it.slot (hk it hi) e.symm
  · rw [slots, inLine k hlt]
    refine congrArg (settledAtEnd f.settles) ?_
    by_cases hm : cellNo line k ∈ f.items.map (fun it => cellNo line it.slot)
    · obtain ⟨it, hit, e⟩ := List.mem_map.1 hm
      have slot : it.slot = k := by simp only [cellNo] at e; omega
      rw [← slot, own it hit, FrameItem.applied, if_neg (slot ▸ hi it hit slot)]
      rfl
    · exact rest _ hm
  · rw [slots, inLine _ (hk it hi), own it hi]
    rfl

section
variable {line : Nat} {f : Frame} {answers : List ModuleAnswer} {s u : State} {it : FrameItem}

/-- R200: the notice of a slot that comes or is lost. -/
theorem FrameEnded.turned (e : FrameEnded line f answers s u) (hi : it ∈ f.items)
    (h : s.turnsItem line f answers it = true) : .boardModule line it.slot ∈ u.link.notices :=
  e.noticed.listed _ (List.mem_map.2 ⟨it, List.mem_filter.2 ⟨hi, h⟩, rfl⟩)

/-- R102, R104: a slot that answered. -/
theorem FrameEnded.of_answer (e : FrameEnded line f answers s u) (hi : it ∈ f.items) (ha : it.slot ∈ f.applies)
    (h : answered f.offset answers it.slot = true) :
    let c := cellNo line it.slot
    u.slotAndCell c = settledAtEnd f.settles ((s.slotState c).came (s.cell c).width it.command, s.cell c) ∧
      ((s.slotState c).presence ≠ .present →
        .boardModule line it.slot ∈ u.link.notices ∧ c ∈ u.refreshQueue (c / 64)) := by
  intro c
  refine ⟨(e.items it hi).trans (by rw [FrameItem.applied, if_pos ha, if_pos h]; rfl), fun hp => ?_⟩
  have absent : s.presentAt line it.slot = false := decide_eq_false hp
  refine ⟨e.turned hi (by simp [State.turnsItem, ha, h, absent]), e.forced.queued c (List.mem_map.2 ⟨it, ?_, rfl⟩)⟩
  exact List.mem_filter.2 ⟨hi, by simp [ha, h, absent]⟩

/-- R103: a slot that gave no answer. -/
theorem FrameEnded.of_no_answer (e : FrameEnded line f answers s u) (hi : it ∈ f.items) (ha : it.slot ∈ f.applies)
    (h : answered f.offset answers it.slot = false) :
    let c := cellNo line it.slot
    u.slotAndCell c = settledAtEnd f.settles ((s.slotState c).lost, { s.cell c with needsFull := true }) ∧
      ((s.slotState c).presence = .present → .boardModule line it.slot ∈ u.link.notices) := by
  intro c
  refine ⟨(e.items it hi).trans (by rw [FrameItem.applied, if_pos ha, if_neg (by simp [h])]; rfl), fun hp => ?_⟩
  have present : s.presentAt line it.slot = true := decide_eq_true hp
  exact e.turned hi (by simp [State.turnsItem, ha, h, present])

end

/-- R102: the frame in flight ends once all its items are sent. -/
theorem frameEnd_of_frame {line : Nat} {f : Frame} {s : State} (h : (s.line line).frame = some f)
    (answers : List ModuleAnswer) :
    frameEnd line answers s = if f.sent = f.items.length then endFrame line f answers s else s := by
  rw [frameEnd, h]

/-- Settles O42: the items applied, the slots settled and the next frame begun (`endFrame_ended`), and of each slot what an
answer (`SlotState.came_spec`) or none makes of it. -/
theorem frameEndAppliesAnswers : Obligations.FrameEndAppliesAnswers := by
  intro line answers s f hr hf
  have whole : exec (.frameEnd line answers) s = .next (finish s (frameEnd line answers s)) := act_of_released hr _
  refine ⟨fun hs => whole.trans (by rw [frameEnd_of_frame hf, if_neg hs]), fun hs hn hk => ?_⟩
  intro came settledCell present lost
  have hcame : came = answered f.offset answers := by
    funext k
    simp only [came, answered, Bool.decide_and, Bool.decide_eq_true, Bool.and_assoc]
  have ended := endFrame_ended (line := line) answers s hn hk
  rw [frameEnd_of_frame hf, if_pos hs] at whole
  generalize endFrame line f answers s = u at ended whole
  clear_value came
  subst hcame
  refine ⟨u, whole, ended.frame, ⟨ended.only, ended.counted⟩, ended.noticed, ended.otherLines, ended.forced, ended.off,
    ended.begun, fun c hc => Prod.ext_iff.1 (ended.otherSlots c hc), fun k hlt hi => ?_, fun it hi ha => ?_⟩
  · obtain ⟨slot, cell⟩ := Prod.ext_iff.1 (ended.idle k hlt hi)
    exact ⟨cell.trans (settledAtEnd_snd ..), slot.trans (settledAtEnd_fst ..)⟩
  · intro c x y
    have ofLine : c / 64 = line := by have := hk it hi; simp only [c, cellNo]; omega
    refine ⟨fun hset => ?_, fun h => ?_, fun h => ?_⟩
    · have settled : y = (it.applied f answers (s.slotAndCell c)).1.settled :=
        (congrArg Prod.fst (ended.items it hi)).trans ((settledAtEnd_fst ..).trans (if_pos hset))
      rw [settled]
      exact ⟨rfl, rfl, rfl⟩
    · obtain ⟨own, turns⟩ := ended.of_answer hi ha h
      obtain ⟨slot, cell⟩ := Prod.ext_iff.1 own
      refine ⟨cell.trans (settledAtEnd_snd ..), (congrArg SlotState.changed slot).trans (settledAtEnd_changed ..),
        fun hp => (turns hp).imp_right fun hq => by rwa [← ofLine], fun hset => ?_⟩
      have here : y = x.came (s.cell c).width it.command :=
        slot.trans ((settledAtEnd_fst ..).trans (if_neg (by simp [hset])))
      rw [here]
      exact ⟨rfl, SlotState.came_spec ..⟩
    · obtain ⟨own, turns⟩ := ended.of_no_answer hi ha h
      obtain ⟨slot, cell⟩ := Prod.ext_iff.1 own
      refine ⟨cell.trans ((settledAtEnd_snd ..).trans ?_), (congrArg SlotState.changed slot).trans (settledAtEnd_changed ..),
        turns, fun hset => ?_⟩
      · cases f.settles <;> rfl
      · have here : y = x.lost := slot.trans ((settledAtEnd_fst ..).trans (if_neg (by simp [hset])))
        rw [here]
        exact ⟨rfl, rfl, rfl⟩

end Sys2Proof.Machine
end

section
/-! Proofs: the items of a frame and the command of each (R99 to R101). -/

namespace Sys2Proof.Machine

/-! ### The displays of modules (R99) -/

@[simp] theorem State.display_setDisplay_same (s : State) (line addr : Nat) (d : Display) :
    (s.setDisplay line addr d).display line addr = d := Table.get_set_same ..

theorem State.display_setDisplay_other {line addr n b : Nat} (h : 79 * n + b ≠ 79 * line + addr) (s : State) (d : Display) :
    (s.setDisplay line addr d).display n b = s.display n b := Table.get_set_other _ _ h d

/-! ### The sending of an item (R99, R100) -/

/-- R99, R100: what the sending of an item leaves. -/
theorem sendItem_spec {n : Nat} {s : State} {f : Frame} {it : FrameItem} (hf : (s.line n).frame = some f)
    (hi : f.items[f.sent]? = some it) (taken : Bool) :
    let u := sendItem n taken s
    let a := f.offset + it.slot
    u = { s with lines := u.lines, displays := u.displays } ∧
      u.line n = { s.line n with frame := some { f with sent := f.sent + 1 } } ∧
      (∀ m, m ≠ n → u.line m = s.line m) ∧
      u.display n a = (if taken then (s.display n a).after it.command else s.display n a) ∧
      ∀ m b, 79 * m + b ≠ 79 * n + a → u.display m b = s.display m b := by
  have sent (t : Bool) : sendItem n t s =
      let v := s.setLine n { s.line n with frame := some { f with sent := f.sent + 1 } }
      let a := f.offset + it.slot
      if t then v.setDisplay n a ((v.display n a).after it.command) else v := by simp only [sendItem, hf, hi]
  have own := State.line_setLine_same s n { s.line n with frame := some { f with sent := f.sent + 1 } }
  have others : ∀ m, m ≠ n → (s.setLine n { s.line n with frame := some { f with sent := f.sent + 1 } }).line m = s.line m :=
    fun m hm => State.line_setLine_other s hm _
  cases taken with
  | false => rw [sent]; exact ⟨rfl, own, others, rfl, fun _ _ _ => rfl⟩
  | true =>
    rw [sent]
    exact ⟨rfl, own, others, State.display_setDisplay_same .., fun m b h => State.display_setDisplay_other h _ _⟩

/-! ### The scrub pointer (R101) -/

/-- R101: with a slot above the pointer, the pointer goes to the first such. -/
theorem nextEnabled_above {enabled : List Nat} {p k : Nat} (hr : enabled.Pairwise (· < ·)) (hk : k ∈ enabled) (hp : p < k)
    (least : ∀ j ∈ enabled, p < j → k ≤ j) : nextEnabled enabled p = some k := by
  have next := nextEnabled_scrubNext hr p
  cases h : nextEnabled enabled p with
  | none =>
    rw [h] at next
    rw [show enabled = [] from next] at hk
    cases hk
  | some q =>
    rw [h] at next
    obtain ⟨hq, ⟨above, first⟩ | ⟨top, -⟩⟩ := next
    · rw [Nat.le_antisymm (first k hk hp) (least q hq above)]
    · exact absurd (top k hk) (Nat.not_le.2 hp)

/-- R101: with no slot above the pointer, it goes to the head of the enabled slots. -/
theorem nextEnabled_wraps {enabled : List Nat} {p : Nat} (h : ∀ k ∈ enabled, k ≤ p) :
    nextEnabled enabled p = enabled.head? := by
  have noneAbove : enabled.find? (fun k => decide (p < k)) = none :=
    List.find?_eq_none.2 fun k hk => by simpa using h k hk
  rw [nextEnabled, noneAbove]

/-! ### The frame start (R100, R101) -/

theorem frameStart_line_same (n : Nat) (s : State) : (frameStart n s).line n = { s.line n with
    scrub := scrubAfterStart (s.line n)
    frame := some { items := sendList n s, offset := (s.line n).offset, rate := (s.line n).rate, sent := 0,
                    applies := (s.line n).enabled, settles := false } } := State.line_setLine_same ..

theorem scrubAfterStart_of_lit {l : BoardLine} {p : Nat} (hl : l.state = .lit) (hs : l.scrub = some p) :
    scrubAfterStart l = nextEnabled l.enabled p := by rw [scrubAfterStart, if_pos hl, hs]

/-- Settles O41: the item sent (`sendItem_spec`), and the frame begun (`frameStart_begun`), whose scrub pointer goes where
`nextEnabled_above` and `nextEnabled_wraps` say. -/
theorem frameSendsItsItems : Obligations.FrameSendsItsItems := by
  refine ⟨fun line taken s f it hr hf hi => ?_, fun line s => ?_⟩
  · intro a
    obtain ⟨frame, own, others, shown, displays⟩ := sendItem_spec hf hi taken
    refine ⟨_, act_of_released hr _, frame, own, others, shown.trans ?_, displays⟩
    cases it.command <;> rfl
  · intro l u
    obtain ⟨frame, ⟨f, hf, ⟨sent, slots, offset, rate, applies, settles⟩, fixed⟩, stays, -⟩ := frameStart_begun line s
    have scrub : (u.line line).scrub = scrubAfterStart l := congrArg BoardLine.scrub (frameStart_line_same line s)
    refine ⟨rfl, fun n hn => State.line_setLine_other s hn _, frame, stays, fun p hl hp => ?_,
      f, hf, sent, offset, rate, applies, settles, slots, fun it hi => ?_⟩
    · rw [scrub, scrubAfterStart_of_lit hl hp]
      exact ⟨fun k hk hpk hrise least => nextEnabled_above hrise hk hpk least, nextEnabled_wraps⟩
    · obtain ⟨dark, staged, scrubbed, sensed⟩ := fixed it hi
      exact ⟨dark, staged, scrubbed, sensed⟩

end Sys2Proof.Machine
end

section
/-! Proofs: the slots that a LINE-SET settles, and its target (R94 to R97, R100, R101, R104, R107). -/

namespace Sys2Proof.Machine

/-! ### Settled slots (R95, R104) -/

theorem cellNo_injective (line : Nat) : Function.Injective (cellNo line) := fun j k h => by
  simp only [cellNo] at h
  omega

/-- R95, R97: what the settling of some slots of a line makes of a slot of that line, and of any other slot. -/
theorem settleSlots_slotAndCell (line : Nat) (slots : List Nat) (s : State) :
    let u := settleSlots line slots s
    (∀ k, u.slotAndCell (cellNo line k) = settledAtEnd (decide (k ∈ slots)) (s.slotAndCell (cellNo line k))) ∧
      ∀ c, (∀ k ∈ slots, c ≠ cellNo line k) → u.slotAndCell c = s.slotAndCell c := by
  intro u
  obtain ⟨-, reads⟩ := settleSlots_spec line slots s
  have others : ∀ c, (∀ k ∈ slots, c ≠ cellNo line k) → u.slotAndCell c = s.slotAndCell c := fun c h =>
    Prod.ext_iff.2 ((reads c).2 h)
  refine ⟨fun k => ?_, others⟩
  by_cases hk : k ∈ slots
  · rw [decide_eq_true hk]
    exact Prod.ext_iff.2 ((reads _).1 ⟨k, hk, rfl⟩)
  · rw [decide_eq_false hk]
    exact others _ fun j hj e => hk (cellNo_injective line e ▸ hj)

/-- R95: a slot settled twice is a slot settled. -/
theorem settledAtEnd_settledAtEnd (a b : Bool) (p : SlotState × Cell) :
    settledAtEnd a (settledAtEnd b p) = settledAtEnd (b || a) p := by
  cases a <;> cases b <;> rfl

/-! ### The configuration (R94, R95, R101, R107) -/

/-- R95: the slots of a line that a LINE-SET settles. -/
theorem mem_settledBy {l : BoardLine} {b : LineBody} {k : Nat} (hk : k < 64) :
    k ∈ settledBy l b ↔ b.offset ≠ l.offset ∨ k ∈ l.enabled ∧ k ∉ b.enabled := by
  unfold settledBy
  by_cases h : b.offset = l.offset
  · simp [h]
  · simp [h, slotNos, hk]

theorem settledBy_lt {l : BoardLine} {b : LineBody} (h : ∀ k ∈ l.enabled, k < 64) {k : Nat} (hk : k ∈ settledBy l b) :
    k < 64 := by
  unfold settledBy at hk
  split at hk
  · exact List.mem_range.1 hk
  · exact h k (List.mem_of_mem_filter hk)

/-- R101: the scrub pointer under a new enabled set stays on its slot, or moves on from a slot removed. -/
theorem scrubUnder_spec {enabled : List Nat} (hr : enabled.Pairwise (· < ·)) (scrub : Option Nat) :
    (∀ p, scrub = some p → p ∈ enabled → scrubUnder enabled scrub = some p) ∧
      (∀ p, scrub = some p → p ∉ enabled → ScrubNext enabled p (scrubUnder enabled scrub)) ∧
      (scrub = none → scrubUnder enabled scrub = enabled.head?) := by
  refine ⟨?_, ?_, ?_⟩
  · rintro p rfl hp
    exact if_pos hp
  · rintro p rfl hp
    rw [show scrubUnder enabled (some p) = nextEnabled enabled p from if_neg hp]
    exact nextEnabled_scrubNext hr p
  · rintro rfl
    rfl

/-- R94, R95: what the configuring of a line leaves. -/
theorem configureLine_spec (b : LineBody) (s : State) :
    let u := configureLine b s
    u = { s with lines := u.lines, slots := u.slots, cells := u.cells } ∧
      u.line b.line = (s.line b.line).configured b ∧ (∀ m, m ≠ b.line → u.line m = s.line m) ∧
      (∀ k, u.slotAndCell (cellNo b.line k) =
        settledAtEnd (decide (k ∈ settledBy (s.line b.line) b)) (s.slotAndCell (cellNo b.line k))) ∧
      ∀ c, (∀ k ∈ settledBy (s.line b.line) b, c ≠ cellNo b.line k) → u.slotAndCell c = s.slotAndCell c := by
  intro u
  obtain ⟨v, ev⟩ : ∃ v, v = s.setLine b.line ((s.line b.line).configured b) := ⟨_, rfl⟩
  have eu : u = settleSlots b.line (settledBy (s.line b.line) b) v := by rw [ev]; rfl
  obtain ⟨frame, -⟩ := settleSlots_spec b.line (settledBy (s.line b.line) b) v
  obtain ⟨own, others⟩ := settleSlots_slotAndCell b.line (settledBy (s.line b.line) b) v
  rw [← eu] at frame own others
  have line : ∀ m, u.line m = v.line m := fun m => by rw [frame]; rfl
  refine ⟨by rw [frame, ev]; rfl, ?_, fun m hm => ?_, fun k => ?_, fun c hc => ?_⟩
  · rw [line, ev, State.line_setLine_same]
  · rw [line, ev, State.line_setLine_other _ hm]
  · rw [own, ev]; rfl
  · rw [others c hc, ev]; rfl

/-! ### The target (R96, R97, R100, R107) -/

/-- R96: a target that takes a line out of OFF with no frame in flight. -/
def BoardLine.begins (t : LineTarget) (l : BoardLine) : Prop := l.state = .off ∧ l.frame = none ∧ (t = .lit ∨ t = .dark)

/-- R97: a target settles every slot of a line that it takes into OFF with no frame in flight. -/
def BoardLine.settlesAll (t : LineTarget) (l : BoardLine) : Bool := decide ((t = .off ∧ l.state ≠ .off) ∧ l.frame = none)

/-- R96: the state of a line after a target. -/
def LineTarget.stateFrom (x : LineState) : LineTarget → LineState
  | .off => .off
  | .lit => .lit
  | .dark => .dark
  | .unchanged => x

/-- R96, R97, R107: the line that a target asks for, before a frame begins on it. -/
def BoardLine.targeted (t : LineTarget) (l : BoardLine) : BoardLine :=
  { l with
    state := t.stateFrom l.state
    darkTimer := if t = .dark ∨ t = .off ∧ l.state ≠ .off then none else l.darkTimer
    frame := l.frame.map (fun f => { f with settles := f.settles || decide (t = .off ∧ l.state ≠ .off) }) }

/-- R96, R97, R100: what a target leaves of line `n`. -/
structure TargetApplied (t : LineTarget) (n : Nat) (s u : State) : Prop where
  frame : u = { s with lines := u.lines, slots := u.slots, cells := u.cells }
  others : ∀ m, m ≠ n → u.line m = s.line m
  begun : (s.line n).begins t → LineBegun n ((s.line n).targeted t) u
  stands : ¬(s.line n).begins t → u.line n = (s.line n).targeted t
  slots : ∀ k, k < 64 → u.slotAndCell (cellNo n k) = settledAtEnd ((s.line n).settlesAll t) (s.slotAndCell (cellNo n k))
  otherSlots : ∀ c, (∀ k, k < 64 → c ≠ cellNo n k) → u.slotAndCell c = s.slotAndCell c

/-- R96: a target that settles no slot changes lines alone. -/
theorem TargetApplied.of_lines {t : LineTarget} {n : Nat} {s u : State} (unsettled : (s.line n).settlesAll t = false)
    (frame : u = { s with lines := u.lines }) (others : ∀ m, m ≠ n → u.line m = s.line m)
    (begun : (s.line n).begins t → LineBegun n ((s.line n).targeted t) u)
    (stands : ¬(s.line n).begins t → u.line n = (s.line n).targeted t) : TargetApplied t n s u := by
  have reads : ∀ c, u.slotAndCell c = s.slotAndCell c := fun c => by rw [frame]; rfl
  refine ⟨by rw [frame], others, begun, stands, fun k _ => ?_, fun c _ => reads c⟩
  rw [unsettled, reads]
  rfl

/-- R96: no target, or OFF for a line that is OFF, changes nothing. -/
theorem TargetApplied.of_stands {t : LineTarget} {n : Nat} {s : State}
    (h : t = .unchanged ∨ t = .off ∧ (s.line n).state = .off) : TargetApplied t n s s := by
  have same : (s.line n).targeted t = s.line n := by
    generalize s.line n = l at h
    cases l
    rcases h with rfl | ⟨rfl, rfl⟩ <;> simp [BoardLine.targeted, LineTarget.stateFrom]
  have idle : ¬(s.line n).begins t := by
    rcases h with rfl | ⟨rfl, -⟩ <;> simp [BoardLine.begins]
  refine .of_lines ?_ rfl (fun _ _ => rfl) (fun h => absurd h idle) fun _ => same.symm
  rcases h with rfl | ⟨rfl, h⟩ <;> simp [BoardLine.settlesAll, *]

/-- R96, R100: LIT or DARK, with the frame that begins on a line which leaves OFF without one. -/
theorem lineTo_applied {t : LineTarget} {x : LineState} (h : t = .lit ∧ x = .lit ∨ t = .dark ∧ x = .dark) (n : Nat)
    (s : State) : TargetApplied t n s (lineTo x n s) := by
  obtain ⟨v, ev⟩ : ∃ v, v = s.setLine n ((s.line n).targeted t) := ⟨_, rfl⟩
  have eu : lineTo x n s = if (s.line n).state = .off ∧ (s.line n).frame.isNone then frameStart n v else v := by
    rw [ev]
    rcases h with ⟨rfl, rfl⟩ | ⟨rfl, rfl⟩ <;> simp [lineTo, BoardLine.targeted, LineTarget.stateFrom]
  have begins : (s.line n).begins t ↔ (s.line n).state = .off ∧ (s.line n).frame.isNone := by
    rcases h with ⟨rfl, -⟩ | ⟨rfl, -⟩ <;> simp [BoardLine.begins]
  have own : v.line n = (s.line n).targeted t := by rw [ev, State.line_setLine_same]
  have others : ∀ m, m ≠ n → v.line m = s.line m := fun m hm => by rw [ev, State.line_setLine_other _ hm]
  have unsettled : (s.line n).settlesAll t = false := by
    rcases h with ⟨rfl, -⟩ | ⟨rfl, -⟩ <;> simp [BoardLine.settlesAll]
  rw [eu]
  split
  · next hb =>
    refine .of_lines unsettled (by rw [ev]; rfl) (fun m hm => ?_) (fun _ => ?_) fun g => absurd (begins.2 hb) g
    · exact (State.line_setLine_other v hm _).trans (others m hm)
    · rw [← own]
      exact frameStart_begun n v
  · next hb => exact .of_lines unsettled (by rw [ev]; rfl) others (fun g => absurd (begins.1 g) hb) fun _ => own

/-- R97: OFF for a line that is LIT or DARK: its slots are settled at the end of the frame in flight, or at once. -/
theorem lineOff_applied {n : Nat} {s : State} (h : (s.line n).state ≠ .off) : TargetApplied .off n s (lineOff n s) := by
  have idle : ¬(s.line n).begins .off := fun g => h g.1
  obtain ⟨v, ev⟩ : ∃ v, v = s.setLine n ((s.line n).targeted .off) := ⟨_, rfl⟩
  have own : v.line n = (s.line n).targeted .off := by rw [ev, State.line_setLine_same]
  have others : ∀ m, m ≠ n → v.line m = s.line m := fun m hm => by rw [ev, State.line_setLine_other _ hm]
  cases hf : (s.line n).frame with
  | some f =>
    have eu : lineOff n s = v := by simp [lineOff, ev, BoardLine.targeted, LineTarget.stateFrom, hf, h]
    rw [eu]
    exact .of_lines (by simp [BoardLine.settlesAll, hf]) (by rw [ev]; rfl) others (fun g => absurd g idle) fun _ => own
  | none =>
    have eu : lineOff n s = settleSlots n slotNos v := by simp [lineOff, ev, BoardLine.targeted, LineTarget.stateFrom, hf, h]
    have all : (s.line n).settlesAll .off = true := by simp [BoardLine.settlesAll, hf, h]
    obtain ⟨frame, inLine, outside⟩ := settledAtEnd_spec n true v
    simp only [if_true, ← eu] at frame inLine outside
    have line : ∀ m, (lineOff n s).line m = v.line m := fun m => by rw [frame]; rfl
    refine ⟨by rw [frame, ev]; rfl, fun m hm => (line m).trans (others m hm), fun g => absurd g idle,
      fun _ => (line n).trans own, fun k hk => ?_, fun c hc => ?_⟩
    · rw [inLine k hk, all, ev]; rfl
    · rw [outside c hc, ev]; rfl

/-- R96, R97, R100: what the target of a LINE-SET leaves. -/
theorem applyTarget_applied (t : LineTarget) (n : Nat) (s : State) : TargetApplied t n s (applyTarget t n s) := by
  cases t with
  | unchanged => exact .of_stands (.inl rfl)
  | lit => exact lineTo_applied (.inl ⟨rfl, rfl⟩) n s
  | dark => exact lineTo_applied (.inr ⟨rfl, rfl⟩) n s
  | off =>
    rw [applyTarget]
    split
    · next h => exact .of_stands (.inr ⟨rfl, h⟩)
    · next h => exact lineOff_applied h

end Sys2Proof.Machine
end

section
/-! Proofs: LINE-SET and LINE-WAKE (R94 to R97, R100, R101, R104, R107, R109). -/

namespace Sys2Proof.Machine

@[simp] theorem beginService_line (r : LinkFrame) (rest : List LinkFrame) (s : State) (n : Nat) :
    (beginService r rest s).line n = s.line n := rfl

/-! ### The checks of a LINE-SET (R94) -/

theorem lineTargetOf_isSome_iff (n : Nat) : (lineTargetOf n).isSome = true ↔ n ≤ 3 := by
  simp [lineTargetOf, Nat.lt_succ_iff]

theorem LineBody.inRange_iff (b : LineBody) : b.inRange = true ↔ b.line ≤ 7 ∧ 8 ≤ b.size ∧ b.size ≤ 64 ∧ b.offset ≤ 15 ∧
    (b.rate = 5 ∨ b.rate = 10 ∨ b.rate = 20) ∧ b.darkDelay ≤ 255 ∧ (∀ k ∈ b.enabled, k < b.size) ∧ b.target ≤ 3 := by
  simp only [LineBody.inRange, Bool.and_eq_true, decide_eq_true_eq, List.all_eq_true, lineTargetOf_isSome_iff, and_assoc]

theorem lineSetRule_of_outside {b : LineBody} (h : ¬b.inRange = true) (s : State) :
    lineSetRule b s = Served.refuse .range s := if_pos (by simpa using h)

/-- R94, R96: the check of a LINE-SET in range, and its effect. -/
theorem lineSetRule_of_range {b : LineBody} {t : LineTarget} (hr : b.inRange = true) (ht : lineTargetOf b.target = some t)
    (s : State) : lineSetRule b s = if t = .lit ∧ (s.line b.line).state = .dark then Served.refuse .state s
      else Served.done (applyTarget t b.line (configureLine b s)) := by
  rw [lineSetRule, if_neg (by simp [hr]), ht]

/-! ### The effect of a LINE-SET (R94 to R97) -/

/-- R94 to R97, R100: what an accepted LINE-SET leaves. -/
structure LineSetDone (b : LineBody) (t : LineTarget) (s u : State) : Prop where
  frame : u = { s with lines := u.lines, slots := u.slots, cells := u.cells }
  others : ∀ m, m ≠ b.line → u.line m = s.line m
  begun : (s.line b.line).begins t → LineBegun b.line (((s.line b.line).configured b).targeted t) u
  stands : ¬(s.line b.line).begins t → u.line b.line = ((s.line b.line).configured b).targeted t
  slots : ∀ k, k < 64 → u.slotAndCell (cellNo b.line k) =
    settledAtEnd (decide (k ∈ settledBy (s.line b.line) b) || (s.line b.line).settlesAll t) (s.slotAndCell (cellNo b.line k))
  otherSlots : (∀ k ∈ (s.line b.line).enabled, k < 64) → ∀ c, (∀ k, k < 64 → c ≠ cellNo b.line k) →
    u.slotAndCell c = s.slotAndCell c

theorem applyTarget_configureLine_done (b : LineBody) (t : LineTarget) (s : State) :
    LineSetDone b t s (applyTarget t b.line (configureLine b s)) := by
  obtain ⟨frame, own, others, slots, otherSlots⟩ := configureLine_spec b s
  obtain ⟨tFrame, tOthers, tBegun, tStands, tSlots, tOtherSlots⟩ := applyTarget_applied t b.line (configureLine b s)
  have begins : ((configureLine b s).line b.line).begins t ↔ (s.line b.line).begins t := by
    simp [own, BoardLine.begins, BoardLine.configured]
  have settlesAll : ((configureLine b s).line b.line).settlesAll t = (s.line b.line).settlesAll t := by
    simp [own, BoardLine.settlesAll, BoardLine.configured]
  rw [begins, own] at tBegun tStands
  refine ⟨by rw [tFrame, frame], fun m hm => (tOthers m hm).trans (others m hm), tBegun, tStands, fun k hk => ?_,
    fun hl c hc => (tOtherSlots c hc).trans (otherSlots c fun k hk => hc k (settledBy_lt hl hk))⟩
  rw [tSlots k hk, settlesAll, slots, settledAtEnd_settledAtEnd]

section
variable {b : LineBody} {t : LineTarget} {s u : State}

/-- R100: a LINE-SET after which a frame begins moves the scrub pointer and adds the frame. -/
theorem LineSetDone.shape (d : LineSetDone b t s u) : u.line b.line = { ((s.line b.line).configured b).targeted t with
    scrub := (u.line b.line).scrub, frame := (u.line b.line).frame } := by
  by_cases h : (s.line b.line).begins t
  · exact (d.begun h).frame
  · rw [d.stands h]

/-- R94: the configuration of the line. -/
theorem LineSetDone.config (d : LineSetDone b t s u) : (u.line b.line).size = b.size ∧ (u.line b.line).offset = b.offset ∧
    (u.line b.line).enabled = b.enabled ∧ (u.line b.line).rate = b.rate ∧ (u.line b.line).darkDelay = b.darkDelay := by
  rw [d.shape]
  exact ⟨rfl, rfl, rfl, rfl, rfl⟩

/-- R96: the state of the line. -/
theorem LineSetDone.state (d : LineSetDone b t s u) : (u.line b.line).state =
    t.stateFrom (s.line b.line).state := congrArg BoardLine.state d.shape

/-- R107: the dark timer stops at a delay of 0, at DARK and at an entry to OFF. -/
theorem LineSetDone.timer (d : LineSetDone b t s u) : (u.line b.line).darkTimer =
    if b.darkDelay = 0 ∨ t = .dark ∨ t = .off ∧ (s.line b.line).state ≠ .off then none else (s.line b.line).darkTimer := by
  refine (congrArg BoardLine.darkTimer d.shape).trans ?_
  simp only [BoardLine.targeted, BoardLine.configured]
  by_cases h : b.darkDelay = 0 <;> simp [h]

/-- R100: the frame that begins. -/
theorem LineSetDone.frameBegun (d : LineSetDone b t s u) (hb : (s.line b.line).begins t) :
    ∃ f, (u.line b.line).frame = some f ∧ FrameBegun (u.line b.line) f := by
  obtain ⟨shape, ⟨f, hf, ⟨sent, slots, offset, rate, applies, settles⟩, -⟩, -, -⟩ := d.begun hb
  exact ⟨f, hf, sent, by rw [shape, slots], by rw [shape, offset], by rw [shape, rate], by rw [shape, applies], settles⟩

/-- R100: a line with no frame in flight on which none begins has none. -/
theorem LineSetDone.frame_none (d : LineSetDone b t s u) (hf : (s.line b.line).frame = none)
    (hb : ¬(s.line b.line).begins t) : (u.line b.line).frame = none := by
  rw [d.stands hb]
  simp [BoardLine.targeted, BoardLine.configured, hf]

/-- R95, R97: a frame in flight stays, applies no more to the slots settled, and settles every slot at its end when the line
enters OFF. -/
theorem LineSetDone.inFlight (d : LineSetDone b t s u) {f : Frame} (hf : (s.line b.line).frame = some f) :
    (u.line b.line).frame = some { f.without (settledBy (s.line b.line) b) with
      settles := f.settles || decide (t = .off ∧ (s.line b.line).state ≠ .off) } := by
  have idle : ¬(s.line b.line).begins t := fun h => by simpa [hf] using h.2.1
  rw [d.stands idle]
  simp only [BoardLine.targeted, BoardLine.configured, hf, Option.map_some]
  rfl

/-- R101: the scrub pointer of a line on which no LIT frame begins. -/
theorem LineSetDone.scrub_stays (d : LineSetDone b t s u) (h : ¬((s.line b.line).begins t ∧ t = .lit)) :
    (u.line b.line).scrub = scrubUnder b.enabled (s.line b.line).scrub := by
  by_cases hb : (s.line b.line).begins t
  · refine (d.begun hb).stays (.inl ?_)
    rcases hb.2.2 with rfl | rfl
    · exact absurd ⟨hb, rfl⟩ h
    · exact nofun
  · rw [d.stands hb]
    rfl

/-- R101: the scrub pointer of a line on which a LIT frame begins. -/
theorem LineSetDone.scrub_moves (d : LineSetDone b t s u) (hr : b.enabled.Pairwise (· < ·)) (hb : (s.line b.line).begins t)
    (ht : t = .lit) : let q := scrubUnder b.enabled (s.line b.line).scrub
    (q = none → (u.line b.line).scrub = none) ∧ ∀ p, q = some p → ScrubNext b.enabled p (u.line b.line).scrub := by
  subst ht
  have begun := d.begun hb
  exact ⟨fun h => (begun.stays (.inr h)).trans h, fun p h => begun.moves p rfl h hr⟩

/-- R95, R97, R104: the slots of the line and their cells. -/
theorem LineSetDone.settled (d : LineSetDone b t s u) {k : Nat} (hk : k < 64) {p : Prop} [Decidable p]
    (hp : p ↔ k ∈ settledBy (s.line b.line) b ∨ (s.line b.line).settlesAll t = true) : let c := cellNo b.line k
    u.slotState c = (if p then (s.slotState c).settled else s.slotState c) ∧
      u.cell c = if p then { s.cell c with needsFull := false } else s.cell c := by
  intro c
  have flag : (decide (k ∈ settledBy (s.line b.line) b) || (s.line b.line).settlesAll t) = decide p := by
    rw [Bool.eq_iff_iff]
    simp [hp]
  obtain ⟨slot, cell⟩ := Prod.ext_iff.1 (d.slots k hk)
  rw [flag] at slot cell
  refine ⟨slot.trans ?_, cell.trans ?_⟩
  · rw [settledAtEnd_fst]
    simp only [decide_eq_true_eq]
    rfl
  · rw [settledAtEnd_snd]
    simp only [decide_eq_true_eq]
    rfl

end

/-! ### LINE-WAKE (R109) -/

/-- R91, R109: the cells of a line that are bound or held stand in ascending order. -/
theorem liveCells_rising (n : Nat) (s : State) : (liveCells n s).Pairwise (· < ·) := by
  refine List.Pairwise.filter _ (List.pairwise_map.2 (List.pairwise_lt_range.imp fun h => ?_))
  simp only [cellNo]
  omega

/-- R109: the dark timer after a waking. -/
theorem timerAfterWake_spec (n : Nat) (s : State) :
    let u := timerAfterWake n s
    u = { s with lines := u.lines } ∧ (∀ m, m ≠ n → u.line m = s.line m) ∧
      u.line n = { s.line n with
        darkTimer := if closedOrAfter s.session.state = true ∧ (s.line n).darkDelay ≠ 0 then some ((s.line n).darkDelay * 60)
          else (s.line n).darkTimer } := by
  intro u
  by_cases h : closedOrAfter s.session.state = true ∧ (s.line n).darkDelay ≠ 0
  · rw [show u = startDarkTimer n s from if_pos h, if_pos h]
    exact ⟨rfl, fun m hm => State.line_setLine_other s hm _, State.line_setLine_same ..⟩
  · rw [show u = s from if_neg h, if_neg h]
    exact ⟨rfl, fun _ _ => rfl, rfl⟩

/-- R109: a line woken, its bound and held cells queued. -/
theorem wakeLine_spec (n : Nat) (s : State) :
    wakeLine n s = { s with lines := (wakeLine n s).lines, queues := (wakeLine n s).queues } ∧
      Forced (liveCells n s) s (wakeLine n s) := by
  have live : ∀ l, liveCells n (s.setLine n l) = liveCells n s := fun l => liveCells_of_reads (fun _ => ⟨rfl, rfl⟩) n
  obtain ⟨v, ev⟩ : ∃ v, v = s.setLine n { s.line n with state := .lit, darkTimer := none } := ⟨_, rfl⟩
  have eu : wakeLine n s = forEach (liveCells n s) (offerCell true) v := by rw [wakeLine, live, ev]
  rw [eu]
  refine ⟨?_, (forced_forEach (liveCells n s) v).of_queues (by rw [ev]; rfl) rfl⟩
  rw [forEach_offerCell_frame, ev]
  rfl

/-- R109: what a LINE-WAKE of a line that is not OFF leaves. -/
theorem lineWakeRule_done {n : Nat} {s : State} (hn : n ≤ 7) (h : (s.line n).state ≠ .off) :
    ∃ u, lineWakeRule n s = Served.done u ∧ u = { s with lines := u.lines, queues := u.queues } ∧
      u.line n = { s.line n with
        state := .lit
        darkTimer := if closedOrAfter s.session.state = true ∧ (s.line n).darkDelay ≠ 0 then some ((s.line n).darkDelay * 60)
          else if (s.line n).state = .dark then none else (s.line n).darkTimer } ∧
      (∀ m, m ≠ n → u.line m = s.line m) ∧ ((s.line n).state = .lit → u.queues = s.queues) ∧
      ((s.line n).state = .dark → Forced (liveCells n s) s u) := by
  cases hs : (s.line n).state with
  | off => exact absurd hs h
  | lit =>
    obtain ⟨frame, others, own⟩ := timerAfterWake_spec n s
    refine ⟨_, by rw [lineWakeRule, if_neg (by omega), hs], by rw [frame], ?_, others, fun _ => by rw [frame], nofun⟩
    rw [own, ← hs, if_neg (show ¬(s.line n).state = .dark by rw [hs]; decide)]
  | dark =>
    obtain ⟨frame, others, own⟩ := timerAfterWake_spec n (wakeLine n s)
    obtain ⟨wFrame, forced⟩ := wakeLine_spec n s
    have line := line_wakeLine n s
    have session : (wakeLine n s).session = s.session := by rw [wFrame]
    refine ⟨_, by rw [lineWakeRule, if_neg (by omega), hs], by rw [frame, wFrame], ?_, fun m hm => ?_, nofun,
      fun _ => forced.of_queues rfl (by rw [frame])⟩
    · rw [own, line, State.line_setLine_same, session, if_pos rfl]
    · rw [others m hm, line, State.line_setLine_other _ hm]

/-! ### The requests -/

/-- Settles O40: a LINE-SET by its checks and what configuration and target leave (`LineSetDone`), a LINE-WAKE by the state
of its line (`lineWakeRule_done`). -/
theorem lineSetAndLineWake : Obligations.LineSetAndLineWake := by
  refine ⟨fun r rest s b h hr hb => act_of_refused h hr (lineSetRule_of_outside ?_ _),
    fun n s => ⟨liveCells_rising n s, mem_liveCells n s⟩,
    fun r rest s b t h hr h1 h2 h3 h4 h5 h6 h7 ht => ?_,
    fun r rest s n h hr => ⟨fun hn => ?_, fun hn hs => ?_, fun hn hs => ?_⟩⟩
  · rw [b.inRange_iff]
    rintro ⟨g1, g2, g3, g4, g5, -, g7, g8⟩
    have within : ¬∃ k ∈ b.enabled, b.size ≤ k := fun ⟨k, hk, hle⟩ => absurd (g7 k hk) (Nat.not_lt.2 hle)
    simp only [within, false_or] at hb
    omega
  · intro l settled entersOff begins
    have target : b.target ≤ 3 := (lineTargetOf_isSome_iff _).1 (by rw [ht]; rfl)
    have rule := lineSetRule_of_range (b.inRange_iff.2 ⟨h1, h2, h3, h4, h5, h6, h7, target⟩) ht (beginService r rest s)
    refine ⟨fun g1 g2 => act_of_refused h hr (rule.trans (if_pos ⟨g1, g2⟩)), fun g => ?_⟩
    rw [beginService_line, if_neg g] at rule
    have d := applyTarget_configureLine_done b t (beginService r rest s)
    generalize applyTarget t b.line (configureLine b (beginService r rest s)) = v at rule d
    have frame := d.frame
    have rises := readLineSet_rising hr
    have settles : ∀ k, k < 64 → (settled k ∨ entersOff ∧ l.frame = none ↔
        k ∈ settledBy l b ∨ l.settlesAll t = true) := fun k hk => by
      rw [mem_settledBy hk, BoardLine.settlesAll, decide_eq_true_eq]
    obtain ⟨kept, moved, fresh⟩ := scrubUnder_spec rises l.scrub
    refine ⟨_, act_of_doneKept h hr rule (by rw [frame]), by rw [frame]; rfl, d.others, d.config,
      d.state.trans (by cases t <;> rfl), d.timer, fun f hf => ⟨_, d.inFlight hf, rfl, fun k hk => ?_, ?_⟩, d.frameBegun,
      d.frame_none, ⟨scrubUnder b.enabled l.scrub, kept, moved, fresh, fun hb => d.scrub_moves rises hb.1 hb.2,
        d.scrub_stays⟩,
      fun k hk => (d.settled hk (settles k hk)).1, fun k hk => (d.settled hk (settles k hk)).2,
      fun hl c hc => Prod.ext_iff.1 (d.otherSlots hl c hc)⟩
    · rw [Frame.without, List.mem_filter, decide_eq_true_eq, beginService_line, mem_settledBy hk]
    · rw [Bool.or_eq_true, decide_eq_true_eq]
      rfl
  · exact act_of_refused h hr (if_pos hn)
  · exact act_of_refused h hr ((if_neg (Nat.not_lt.2 hn)).trans (by simp only [beginService_line, hs]))
  · obtain ⟨u, rule, frame, own, others, lit, dark⟩ := lineWakeRule_done (s := beginService r rest s) hn hs
    exact ⟨_, act_of_doneKept h hr rule (by rw [frame]), by rw [frame]; rfl, own, others, lit,
      fun hd => (dark hd).of_queues rfl rfl⟩

end Sys2Proof.Machine
end

section
/-! Proofs: CHARACTER_PERIOD (R116, R131 to R133). -/

namespace Sys2Proof.Machine

/-! ### The start of a period and the stop test (R116, R132, R133) -/

section
variable {id : RibbonId} {s : State}

/-- R132: a period that finds a character in the FIFO sends it. -/
theorem periodStart_of_cons {c : Char} {rest : List Char} (h : (s.ribbon id).fifo = c :: rest) : periodStart id s =
    s.setRibbon id { s.ribbon id with fifo := rest, period := some (s.ribbon id).rate, output := some c } := by
  simp only [periodStart, h]

/-- R133: a period that finds the FIFO empty sends a space, and is an underrun when records are queued. -/
theorem periodStart_of_nil (h : (s.ribbon id).fifo = []) :
    (periodStart id s).ribbon id = { s.ribbon id with period := some (s.ribbon id).rate, output := some ' ' } ∧
      (periodStart id s).counter .rbUnderrun =
        if (s.ribbon id).queue = [] then s.counter .rbUnderrun else min 4294967295 (s.counter .rbUnderrun + 1) := by
  simp only [periodStart, h, List.isEmpty_iff]
  by_cases hq : (s.ribbon id).queue = []
  · rw [if_pos hq, if_pos hq]
    exact ⟨State.ribbon_setRibbon_same .., State.setRibbon_counter ..⟩
  · rw [if_neg hq, if_neg hq, State.count_ribbon, State.counter_count_same, State.setRibbon_counter]
    exact ⟨State.ribbon_setRibbon_same .., rfl⟩

/-- R116: what the stop test leaves of the ribbon. -/
theorem stopTest_ribbon (id : RibbonId) (s : State) : (stopTest id s).ribbon id =
    if (s.ribbon id).state = .running ∧ closedOrAfter s.session.state = true ∧ (s.ribbon id).queue = [] ∧
        (s.ribbon id).fifo = [] ∧ ribbonJobInFlight id s = false then
      { s.ribbon id with state := .stopped, period := none }
    else s.ribbon id := by
  simp only [stopTest, mayStop_iff]
  split
  · exact State.ribbon_setRibbon_same ..
  · rfl

@[simp] theorem ribbonJobInFlight_setRibbon (id k : RibbonId) (r : Ribbon) :
    ribbonJobInFlight id (s.setRibbon k r) = ribbonJobInFlight id s := by
  cases k <;> rfl

/-! ### The three cases of a character period -/

theorem characterPeriod_of_cons {c : Char} {rest : List Char} (hr : (s.ribbon id).state = .running)
    (hf : (s.ribbon id).fifo = c :: rest) : characterPeriod id s = stopTest id (s.setRibbon id
      { s.ribbon id with fifo := rest, period := some (s.ribbon id).rate, output := some c }) := by
  rw [characterPeriod, if_pos hr, if_neg (by simp [hf]), periodStart_of_cons hf]

theorem characterPeriod_of_nil (hr : (s.ribbon id).state = .running) (hf : (s.ribbon id).fifo = []) :
    characterPeriod id s = periodStart id s := by
  rw [characterPeriod, if_pos hr, if_pos (by simp [hf])]

theorem characterPeriod_of_not_running (hr : (s.ribbon id).state ≠ .running) :
    characterPeriod id s = s.setRibbon id { s.ribbon id with output := none } := if_neg hr

end

theorem ownRibbonChanged_characterPeriod (id : RibbonId) (s : State) : OwnRibbonChanged id s (characterPeriod id s) := by
  unfold characterPeriod
  split_ifs
  · exact ownRibbonChanged_periodStart id s
  · exact (ownRibbonChanged_periodStart id s).trans (ownRibbonChanged_stopTest id _)
  · exact ownRibbonChanged_setRibbon ..

/-- R116, R132: a period that sends a character: the ribbon stops when nothing is left to send, and the character stays on
its output either way. -/
theorem characterPeriod_sends {id : RibbonId} {s : State} {c : Char} {rest : List Char}
    (hr : (s.ribbon id).state = .running) (hf : (s.ribbon id).fifo = c :: rest) :
    (characterPeriod id s).counters = s.counters ∧ ((characterPeriod id s).ribbon id).output = some c ∧
      (characterPeriod id s).ribbon id =
        if closedOrAfter s.session.state = true ∧ (s.ribbon id).queue = [] ∧ rest = [] ∧ ribbonJobInFlight id s = false then
          { s.ribbon id with fifo := [], output := some c, state := .stopped, period := none }
        else { s.ribbon id with fifo := rest, output := some c, period := some (s.ribbon id).rate } := by
  have left : (characterPeriod id s).ribbon id = _ := (congrArg (·.ribbon id) (characterPeriod_of_cons hr hf)).trans
    (stopTest_ribbon id _)
  simp only [State.ribbon_setRibbon_same, State.setRibbon_session, ribbonJobInFlight_setRibbon, hr, true_and] at left
  refine ⟨by rw [characterPeriod_of_cons hr hf, stopTest_counters, State.setRibbon_counters], ?_, ?_⟩
  · rw [left]
    split <;> rfl
  · rw [left]
    split
    · next stops =>
      obtain ⟨-, -, emptied, -⟩ := stops
      rw [emptied]
    · rw [← hr]

/-- Settles O44: the ribbon that is not RUNNING, the character sent (`characterPeriod_sends`), and the space
(`periodStart_of_nil`). -/
theorem characterPeriodSends : Obligations.CharacterPeriodSends := by
  intro id other s hreset hne x
  obtain ⟨frame, others, counted⟩ := ownRibbonChanged_characterPeriod id s
  refine ⟨characterPeriod id s, act_of_released hreset _, frame, others other hne, counted, fun hr => ?_,
    fun c rest hr hf => ?_, fun hr hf => ?_⟩
  · rw [State.ribbonOutput, characterPeriod_of_not_running hr, State.ribbon_setRibbon_same]
    exact ⟨rfl, State.setRibbon_counters .., rfl⟩
  · obtain ⟨counters, output, own⟩ := characterPeriod_sends hr hf
    exact ⟨counters, by rw [State.ribbonOutput, output]; rfl, own⟩
  · obtain ⟨own, underrun⟩ := periodStart_of_nil hf
    rw [State.ribbonOutput, characterPeriod_of_nil hr hf, own]
    exact ⟨rfl, rfl, underrun⟩

end Sys2Proof.Machine
end

section
/-! Proofs: the full-queue policy (R121). -/

namespace Sys2Proof.Machine

/-! ### The record removed -/

theorem isTrade_iff (p : PrintRecord) : p.isTrade = true ↔ ∃ u, p.body = .trade u := by
  unfold PrintRecord.isTrade
  split <;> simp_all

section
variable {body : PrintBody} {q before after : List PrintRecord} {old : PrintRecord}

/-- The first record of a sort is found in a queue, and its removal leaves the records before and behind it. -/
theorem eraseP_first {p : PrintRecord → Bool} (hq : q = before ++ old :: after) (ho : p old = true)
    (hb : ∀ x ∈ before, ¬p x = true) : q.any p = true ∧ q.eraseP p = before ++ after := by
  subst hq
  exact ⟨List.any_eq_true.2 ⟨old, by simp, ho⟩, by rw [List.eraseP_append_right _ hb, List.eraseP_cons_of_pos ho]⟩

/-- R121: a trade removes the oldest queued trade of its instrument. -/
theorem roomFor_trade {t : TradePrint} (hq : q = before ++ old :: after) (ho : ∃ u, old.body = .trade u ∧ u.index = t.index)
    (hb : ∀ p ∈ before, ¬∃ u, p.body = .trade u ∧ u.index = t.index) : roomFor (.trade t) q = some (before ++ after) := by
  obtain ⟨found, left⟩ := eraseP_first hq ((isTradeOf_iff t.index old).2 ho) fun p hp g => hb p hp ((isTradeOf_iff _ p).1 g)
  rw [roomFor, if_pos found, left]

/-- R121: with no queued trade of its own instrument to remove, a record of any kind removes the oldest trade or none. -/
theorem roomFor_of_no_own_trade (h : ∀ t, body = .trade t → ∀ p ∈ q, ¬∃ u, p.body = .trade u ∧ u.index = t.index) :
    roomFor body q = if q.any PrintRecord.isTrade then some (q.eraseP PrintRecord.isTrade) else none := by
  cases body with
  | trade t =>
    refine if_neg fun g => ?_
    obtain ⟨p, hp, own⟩ := List.any_eq_true.1 g
    exact h t rfl p hp ((isTradeOf_iff _ p).1 own)
  | halt _ _ => rfl
  | resume _ _ => rfl
  | banner _ => rfl

/-- R121: else the oldest queued trade. -/
theorem roomFor_oldest_trade (h : ∀ t, body = .trade t → ∀ p ∈ q, ¬∃ u, p.body = .trade u ∧ u.index = t.index)
    (hq : q = before ++ old :: after) (ho : ∃ u, old.body = .trade u) (hb : ∀ p ∈ before, ¬∃ u, p.body = .trade u) :
    roomFor body q = some (before ++ after) := by
  obtain ⟨found, left⟩ := eraseP_first hq ((isTrade_iff old).2 ho) fun p hp g => hb p hp ((isTrade_iff p).1 g)
  rw [roomFor_of_no_own_trade h, if_pos found, left]

/-- R121: with no trade queued, no record is removed. -/
theorem roomFor_none (h : ∀ p ∈ q, ¬∃ u, p.body = .trade u) : roomFor body q = none := by
  rw [roomFor_of_no_own_trade fun t _ p hp ⟨u, hu, _⟩ => h p hp ⟨u, hu⟩, if_neg]
  intro g
  obtain ⟨p, hp, trade⟩ := List.any_eq_true.1 g
  exact h p hp ((isTrade_iff p).1 trade)

/-- The removed record leaves the queue's part of the backlog with its full length. -/
theorem fullLengths_remove (hq : q = before ++ old :: after) :
    ((before ++ after).map PrintRecord.fullLength).sum + old.fullLength = (q.map PrintRecord.fullLength).sum := by
  subst hq
  simp only [List.map_append, List.map_cons, List.sum_append, List.sum_cons]
  omega

end

/-! ### The offer -/

section
variable {id : RibbonId} {body : PrintBody} {arrival : Nat} {s : State}

/-- R121: the removal counted, the new record at the tail of what is left, and the mode evaluated. -/
theorem offerPrint_of_room {q : List PrintRecord} (ho : (s.ribbon id).state ≠ .off)
    (hq : 512 ≤ (s.ribbon id).queue.length) (room : roomFor body (s.ribbon id).queue = some q) :
    offerPrint id body arrival s = evalMode id ((s.count .rbDropped).setRibbon id
      { s.ribbon id with queue := q ++ [recordOf body arrival] }) := by
  rcases offerPrint_cases id body arrival s with ⟨off, -⟩ | ⟨-, short, -⟩ | ⟨q', -, -, left, joins⟩ | ⟨-, -, full, -⟩
  · exact absurd off ho
  · exact absurd short (Nat.not_lt.2 hq)
  · cases room.symm.trans left
    rw [joins, joinQueue, State.count_ribbon, makeRecord_eq]
  · cases room.symm.trans full

/-- R121: the new record dropped and counted, with no evaluation. -/
theorem offerPrint_of_no_room (ho : (s.ribbon id).state ≠ .off) (hq : 512 ≤ (s.ribbon id).queue.length)
    (noRoom : roomFor body (s.ribbon id).queue = none) : offerPrint id body arrival s = s.count .rbDropped := by
  rcases offerPrint_cases id body arrival s with ⟨off, -⟩ | ⟨-, short, -⟩ | ⟨q, -, -, left, -⟩ | ⟨-, -, -, drops⟩
  · exact absurd off ho
  · exact absurd short (Nat.not_lt.2 hq)
  · cases noRoom.symm.trans left
  · exact drops

end

/-- Settles O46: the record that each kind of offer removes (`roomFor_trade`, `roomFor_oldest_trade`), or none
(`roomFor_none`). -/
theorem fullQueuePolicy : Obligations.FullQueuePolicy := by
  intro id body arrival s hon hfull x trade tradeOf joined owed
  refine ⟨fun t before old after hbody hq ho hb => ?_, fun before old after hown hq ho hb => ?_, fun h => ?_⟩
  · subst hbody
    exact ⟨offerPrint_of_room hon hfull (roomFor_trade hq ho hb), fullLengths_remove hq⟩
  · exact ⟨offerPrint_of_room hon hfull (roomFor_oldest_trade hown hq ho hb), fullLengths_remove hq⟩
  · exact offerPrint_of_no_room hon hfull (roomFor_none h)

end Sys2Proof.Machine
end

section
/-! Proofs: the taking of a dealer request that an answer carries, and ALERT-CLEAR (R145, R148, R150, R163, R172). -/

namespace Sys2Proof.Machine

/-! ### The commands of the seven kinds (R163) -/

theorem carries_iff (kind : DealerKind) (m : TerminalMessage) :
    m.carries kind = true ↔ ∃ q, m.request = some q ∧ q.kind = some kind := by
  unfold TerminalMessage.carries
  cases m.request with
  | none => simp
  | some q => simp

/-- R163: the command of a kind is the answer that carries a request of that kind, and else changes nothing. -/
theorem dealerAnswer_cases (kind : DealerKind) (line : Nat) (m : TerminalMessage) (s : State) :
    ((∃ q, m.request = some q ∧ q.kind = some kind) → dealerAnswer kind line m s = terminalAnswer line m s) ∧
      ((∀ q, m.request = some q → q.kind ≠ some kind) → dealerAnswer kind line m s = s) := by
  refine ⟨fun h => if_pos ((carries_iff kind m).2 h), fun h => if_neg fun g => ?_⟩
  obtain ⟨q, hq, hk⟩ := (carries_iff kind m).1 g
  exact h q hq hk

/-! ### An answer that carries a request (R145, R148) -/

/-- R145, R148: the answer's own outcome comes first, then the request that it carries, then the end of the round. -/
theorem terminalAnswer_of_request {line : Nat} {x : TermSlot} {m : TerminalMessage} {q : DealerRequest} {s : State}
    (h : s.answersSlot line x m) (hq : m.request = some q) : terminalAnswer line m s =
      endRoundIfDone line (dealerRequest line x.address q (answerOutcome line x m.ack (dropSlot line s))) := by
  obtain ⟨-, hslot, hignored, -, haddr, hcheck⟩ := h
  simp only [terminalAnswer, hslot, answers, haddr, hcheck, hignored, hq, carriedRequest, decide_true, Bool.and_self,
    if_true, Bool.false_eq_true, if_false]

/-- R148: a request is taken and dealt with where the slot's READY was true. -/
theorem dealerRequest_of_ready {line addr : Nat} {b : State} (h : (b.term (termNo line addr)).readySent = true)
    (q : DealerRequest) : dealerRequest line addr q b =
      dealTaken line addr q (b.setTerm (termNo line addr) ((b.term (termNo line addr)).takeRequest q)) := if_pos h

/-- R148: a request is discarded and counted where it was false. -/
theorem dealerRequest_of_overrun {line addr : Nat} {b : State} (h : (b.term (termNo line addr)).readySent = false)
    (q : DealerRequest) : dealerRequest line addr q b = b.count .tmOverrun := if_neg (by rw [h]; decide)

/-! ### Requests that step 1 or 2 answers UNKNOWN (R163) -/

theorem lookup_eq_none_of_unlisted {sym : Text} {d : List (Text × Nat)} (h : ∀ i, (sym, i) ∉ d) : lookup sym d = none := by
  rw [← Option.not_isSome_iff_eq_none, lookup_isSome_iff]
  exact fun ⟨i, hi⟩ => h i hi

/-- R163, step 2: no symbol, or one that is not in the directory. -/
theorem withSymbol_of_unlisted {n : Nat} {o : Option Text} {s : State}
    (h : ∀ sym, o = some sym → ∀ i, (sym, i) ∉ s.directory) (next : Nat → State → State) :
    withSymbol n o next s = giveCode n .unknown s := by
  cases o with
  | none => rfl
  | some sym => simp only [withSymbol, lookup_eq_none_of_unlisted (h sym rfl)]

/-- R163, step 1: no alert slot, or one above 3. -/
theorem withSlot_of_high {n : Nat} {o : Option Nat} (h : ∀ k, o = some k → 3 < k) (next : Nat → State → State) (s : State) :
    withSlot n o next s = giveCode n .unknown s := by
  cases o with
  | none => rfl
  | some k => exact if_neg (by have := h k rfl; omega)

/-- R163, step 1: no page, or one above 1. -/
theorem dealPage_of_high {q : DealerRequest} (h : ∀ p, q.page = some p → 1 < p) (line addr : Nat) (s : State) :
    dealPage line addr q s = giveCode (termNo line addr) .unknown s := by
  unfold dealPage
  cases hp : q.page with
  | none => rfl
  | some p => exact if_neg (by have := h p hp; omega)

theorem dealWatchAdd_of_unreadable {q : DealerRequest} {s : State} (line addr : Nat)
    (h : (∃ p, q.position = some p ∧ 23 < p) ∨ ∀ sym, q.symbol = some sym → ∀ i, (sym, i) ∉ s.directory) :
    dealWatchAdd line addr q s = giveCode (termNo line addr) .unknown s := by
  unfold dealWatchAdd
  dsimp only
  by_cases hp : positionTooHigh q.position = true
  · exact if_pos hp
  · rw [if_neg hp]
    refine withSymbol_of_unlisted (h.resolve_left ?_) _
    rintro ⟨p, e, high⟩
    exact hp (by simpa [e, positionTooHigh] using high)

theorem dealWatchDrop_of_unlisted {q : DealerRequest} {s : State} (line addr : Nat)
    (h : ∀ sym, q.symbol = some sym → ∀ i, (sym, i) ∉ s.directory) :
    dealWatchDrop line addr q s = giveCode (termNo line addr) .unknown s := by
  unfold dealWatchDrop
  exact withSymbol_of_unlisted h _

theorem dealAlertSet_of_unreadable {q : DealerRequest} {s : State} (line addr : Nat)
    (h : (∀ k, q.slot = some k → 3 < k) ∨ q.above = none ∨ q.below = none ∨ q.minSize = none ∨
      ∀ sym, q.symbol = some sym → ∀ i, (sym, i) ∉ s.directory) :
    dealAlertSet line addr q s = giveCode (termNo line addr) .unknown s := by
  unfold dealAlertSet
  dsimp only
  by_cases hc : allConditions q = true
  · rw [if_neg (by simp [hc])]
    rcases h with h | h | h | h | h
    · exact withSlot_of_high h _ _
    · simp [allConditions, h] at hc
    · simp [allConditions, h] at hc
    · simp [allConditions, h] at hc
    · cases hk : q.slot with
      | none => rfl
      | some k =>
        unfold withSlot
        dsimp only
        rw [withSymbol_of_unlisted h, ite_self]
  · exact if_pos (by simp [hc])

/-! ### A request taken and answered at once (R148, R165) -/

/-- R148, R165: the taking of a request and a result given at once change the terminal alone. -/
theorem giveResult_takeRequest_spec (n : Nat) (q : DealerRequest) (res : DealerResult) (b : State) :
    let v := giveResult n res (b.setTerm n ((b.term n).takeRequest q))
    v = { b with terms := v.terms } ∧
      v.term n = (b.term n).tookRequest { state := .answered, request := some q, result := some res } ∧
      ∀ k, k ≠ n → v.term k = b.term k := by
  refine ⟨rfl, take_answered b n q res, fun k hk => ?_⟩
  rw [giveResult_eq, State.term_setTerm_other _ hk, State.term_setTerm_other _ hk]

/-- Settles O51: the answer with its request (`terminalAnswer_of_request`), discarded, or answered UNKNOWN by the first check
that it fails. -/
theorem dealerRequestIsTaken : Obligations.DealerRequestIsTaken := by
  refine ⟨fun line m s hreset p hp => ?_, fun line m s x q hx hq => ?_⟩
  · have command : exec p.2 s = act (dealerAnswer p.1 line m) s := by
      simp only [List.mem_cons, List.not_mem_nil, or_false] at hp
      rcases hp with rfl | rfl | rfl | rfl | rfl | rfl | rfl <;> rfl
    obtain ⟨carried, other⟩ := dealerAnswer_cases p.1 line m s
    rw [command, act_of_released hreset]
    exact ⟨fun h => by rw [carried h]; exact (act_of_released hreset _).symm, fun h => by rw [other h]⟩
  · intro n b noSymbol unreadable
    have kept : OutcomeKeeps n s b := (dropSlot_keeps line n s).trans (answerOutcome_keeps line x m.ack _)
    have answer : exec (.terminalAnswer line m) s =
        .next (finish s (endRoundIfDone line (dealerRequest line x.address q b))) :=
      (act_of_released hx.1 _).trans (by rw [terminalAnswer_of_request hx hq])
    refine ⟨fun hr => ?_, fun hr hu => ?_⟩
    · rw [answer, dealerRequest_of_overrun (kept.readySent.trans hr)]
    · obtain ⟨d, ed⟩ : ∃ d, d = b.setTerm n ((b.term n).takeRequest q) := ⟨_, rfl⟩
      have directory : s.directory = d.directory := by rw [ed]; exact kept.directory.symm
      have unknown : dealTaken line x.address q d = giveCode n .unknown d := by
        simp only [unreadable, noSymbol, directory] at hu
        unfold dealTaken
        rcases hu with hk | ⟨hk, h⟩ | ⟨hk, h⟩ | ⟨hk | hk, h⟩ | ⟨hk, h⟩ | ⟨hk, h⟩ <;> rw [hk]
        · exact dealPage_of_high h ..
        · exact dealWatchAdd_of_unreadable line x.address h
        · exact dealWatchDrop_of_unlisted line x.address h
        · exact withSymbol_of_unlisted h _
        · exact dealAlertSet_of_unreadable line x.address h
        · exact withSlot_of_high h _ _
      refine ⟨giveCode n .unknown d, ?_, ?_⟩
      · rw [answer, dealerRequest_of_ready (kept.readySent.trans hr), ← ed, unknown]
      · rw [ed]
        exact giveResult_takeRequest_spec n q (DealerResult.ofCode .unknown) b

/-! ### ALERT-CLEAR (R172) -/

theorem dealTaken_alertClear {line addr k : Nat} {q : DealerRequest} (hk : q.kind = some .alertClear)
    (hs : q.slot = some k) (h3 : k ≤ 3) (s : State) :
    dealTaken line addr q s = carryAlertClear (termNo line addr) k s := by
  unfold dealTaken
  rw [hk]
  dsimp only
  unfold dealAlertClear withSlot
  rw [hs]
  exact if_pos h3

/-- Settles O52: the alert is cleared on the state in which the request is taken (`RequestTaken.given`). -/
theorem alertClearEmptiesTheEntry : Obligations.AlertClearEmptiesTheEntry := by
  intro line m s x q k hands hk hs h3 n b
  obtain ⟨d, ed⟩ : ∃ d, d = b.setTerm n ((b.term n).takeRequest q) := ⟨_, rfl⟩
  have taken : RequestTaken n q b d := ed ▸ taken_setTerm n q b
  obtain ⟨v, ev⟩ : ∃ v, v = carryAlertClear n k d := ⟨_, rfl⟩
  obtain ⟨frame, others, entries, term⟩ := taken.given (t := (d.term n).setAlert k Alert.cold) ev rfl
  have alerts : (v.term n).alerts = Table.set Alert.cold (b.term n).alerts k Alert.cold := by
    rw [term, taken.term, takeRequest_eq]
    rfl
  refine ⟨v, ?_, ?_, ?_, ?_, fun j hj => ?_, others⟩
  · refine (act_of_released hands.1.1 _).trans ?_
    rw [dealerAnswer_eq hands hk, dealTaken_alertClear hk hs h3, ev, ed]
  · rw [frame, entries]
  · rw [alerts, term, taken.term, takeRequest_eq]
    rfl
  · rw [Terminal.alert, alerts]
    exact Table.get_set_same ..
  · rw [Terminal.alert, alerts]
    exact Table.get_set_other _ _ hj _

end Sys2Proof.Machine
end

section
/-! Proofs: ROUND_START, ATTENTION and SLOT_START, and the end of a round (R142 to R144). -/

namespace Sys2Proof.Machine

/-! ### The beginning of a round (R143) -/

/-- R142: a round begun clears attention, and so does not depend on it. -/
theorem RoundBegun.of_attention {l : TermLine} {b : Bool} {n : Nat} {u : State}
    (h : RoundBegun { l with attention := b } n u) : RoundBegun l n u := ⟨h.visiting, h.goesOn, h.nobody⟩

/-- R143: a round that is due on an idle line begins. -/
theorem roundStart_of_due {line : Nat} {s : State} (hr : (s.tline line).round = none) (hd : roundDue line s = true) :
    roundStart line s = startRound line s :=
  (if_pos hd).trans (startRoundIfIdle_of_idle hr ((roundDue_iff s line).1 hd).1)

/-- R143: with a round in flight, or none due, nothing happens. -/
theorem roundStart_of_not {line : Nat} {s : State} (h : (s.tline line).round ≠ none ∨ ¬roundDue line s = true) :
    roundStart line s = s := by
  unfold roundStart
  split
  · next hd => exact startRoundIfIdle_of_not fun g => h.elim (fun n => n g.1) fun n => n hd
  · rfl

/-- R143: ATTENTION begins a round on an idle QUIET line with an admitted terminal, and sets attention on any other. -/
theorem raiseAttention_spec (line : Nat) (s : State) :
    let begins := (s.tline line).poll = .quiet ∧ (s.tline line).round = none ∧ s.admitted line
    let u := raiseAttention line s
    u = { s with tlines := u.tlines } ∧ s.otherLinesKept u line ∧ (begins → RoundBegun (s.tline line) line u) ∧
      (¬begins → u.tline line = { s.tline line with attention := true }) := by
  intro begins u
  obtain ⟨t, et⟩ : ∃ t, t = s.setTLine line { s.tline line with attention := true } := ⟨_, rfl⟩
  have own : t.tline line = { s.tline line with attention := true } := by rw [et]; exact State.tline_setTLine_same ..
  have frame : t = { s with tlines := t.tlines } := by rw [et]; rfl
  have others : s.otherLinesKept t line := fun m hm => by rw [et]; exact State.tline_setTLine_other s hm _
  have poll : (t.tline line).poll = (s.tline line).poll := by rw [own]
  have round : (t.tline line).round = (s.tline line).round := by rw [own]
  have admitted : t.admitted line ↔ s.admitted line := (lineReads_of_frame frame line).1
  have eu : u = roundForBlock line t := by rw [et] at poll ⊢; unfold roundForBlock; rw [poll]; rfl
  obtain ⟨f, k, begun, stands⟩ := roundForBlock_spec line t
  rw [← eu] at f k begun stands
  rw [poll, round, admitted] at begun stands
  refine ⟨tlinesFrame_trans frame f, fun m hm => (k m hm).trans (others m hm), fun g => ?_, fun g => ?_⟩
  · have := begun g
    rw [own] at this
    exact this.of_attention
  · rw [stands g, own]

/-! ### The next slot of a round (R142, R144) -/

/-- R142: the next slot goes to the lowest address above the last that the round visits. -/
theorem nextAddress_eq_some_of_lowest {line a : Nat} {r : Round} {s : State} (ha : a ∈ addressesAbove r.last)
    (hv : (s.term (termNo line a)).visited r.wide = true)
    (low : ∀ b ∈ addressesAbove r.last, (s.term (termNo line b)).visited r.wide = true → a ≤ b) :
    nextAddress line r s = some a := by
  obtain ⟨p, hp⟩ : ∃ p : Nat → Bool, addressesAbove r.last = (List.range 16).filter p := by
    cases r.last with
    | none => exact ⟨fun _ => true, by decide⟩
    | some b => exact ⟨fun a => decide (b < a), rfl⟩
  rw [hp] at ha low
  rw [nextAddress, hp, List.find?_filter, List.find?_range_eq_some]
  obtain ⟨h16, hpa⟩ := List.mem_filter.1 ha
  refine ⟨by simp [hpa, hv], h16, fun b hb => ?_⟩
  have below := List.mem_range.1 h16
  have notBoth : ¬(p b = true ∧ (s.term (termNo line b)).visited r.wide = true) := fun ⟨h1, h2⟩ => by
    have := low b (List.mem_filter.2 ⟨List.mem_range.2 (by omega), h1⟩) h2
    omega
  simpa [imp_iff_not_or] using notBoth

theorem visited_iff (wide : Bool) (t : Terminal) : t.visited wide = true ↔ t.state = .active ∨ t.state = .lapsed ∨
    wide = true ∧ (t.state = .joining ∨ t.state = .silent) := by
  simp [Terminal.visited, Terminal.served, or_assoc]

/-- R144: an out-block is sent to a terminal that is served, and any other slot is a poll. -/
theorem transmission_spec (t : Terminal) :
    let ready := decide (t.record.state = .free)
    (∀ b, t.outBlock = some b → t.served = true → t.transmission = .output ready b) ∧
      (t.outBlock = none ∨ t.served = false → t.transmission = .poll ready) := by
  intro ready
  unfold Terminal.transmission
  refine ⟨fun b hb hs => by simp [hb, hs, ready], ?_⟩
  rintro (h | h)
  · simp [h, ready]
  · cases t.outBlock with
    | none => rfl
    | some b => simp [h, ready]

/-- R144: a slot that starts changes its line, and of its terminal the READY that is sent. -/
theorem startSlot_spec (line a : Nat) (r : Round) (s : State) :
    let n := termNo line a
    let t := s.term n
    let u := startSlot line a r s
    u = { s with tlines := u.tlines, terms := u.terms } ∧
      u.term n = { t with readySent := decide (t.record.state = .free) } ∧ (∀ m, m ≠ n → u.term m = s.term m) ∧
      u.tline line = { s.tline line with
        round := some { r with last := some a }
        slot := some { address := a, tx := t.transmission, limit := (s.tline line).slotLimit, ignored := false } } ∧
      s.otherLinesKept u line :=
  ⟨rfl, State.term_setTerm_same s .., fun _ hm => State.term_setTerm_other s hm _, State.tline_setTLine_same ..,
    fun _ hm => State.tline_setTLine_other _ hm _⟩

section
variable {line : Nat} {r : Round} {s : State} (hr : (s.tline line).round = some r) (hs : (s.tline line).slot = none)
include hr hs

theorem slotStart_of_next {a : Nat} (h : nextAddress line r s = some a) : slotStart line s = startSlot line a r s := by
  simp only [slotStart, hr, hs, h]

theorem slotStart_of_spent (h : nextAddress line r s = none) : slotStart line s = finishRound line s := by
  simp only [slotStart, hr, hs, h]

end

/-- R144: with no round in flight, or a slot in progress, no slot starts. -/
theorem slotStart_of_not {line : Nat} {s : State} (h : (s.tline line).round = none ∨ (s.tline line).slot ≠ none) :
    slotStart line s = s := by
  unfold slotStart
  split
  · next r hr hs => exact h.elim (fun g => by simp [hr] at g) fun g => absurd hs g
  · rfl

/-! ### The end of a slot (R142) -/

theorem endRoundIfDone_of_idle {line : Nat} {s : State} (h : (s.tline line).round = none) : endRoundIfDone line s = s :=
  if_neg (by simp [roundSpent, h])

theorem endRoundIfDone_of_finds {line : Nat} {r : Round} {s : State} (h : (s.tline line).round = some r)
    (hf : s.findsAddress line r) : endRoundIfDone line s = s := if_neg (by rw [roundSpent_iff s h]; exact fun n => n hf)

theorem endRoundIfDone_of_spent {line : Nat} {r : Round} {s : State} (h : (s.tline line).round = some r)
    (hf : ¬s.findsAddress line r) : endRoundIfDone line s = finishRound line s := if_pos ((roundSpent_iff s h).2 hf)

/-- Settles O49: a round that is due or called for (`startRound_begun`), the slot of the lowest address that the round visits
(`nextAddress_eq_some_of_lowest`), and the end of a round that finds none (`finishRound_ended`). -/
theorem roundsBeginAndEnd : Obligations.RoundsBeginAndEnd := by
  refine ⟨fun line s hreset => ?_, fun line s x hreset hr hs => ?_, fun line s hreset h => ?_, fun line s => ?_⟩
  · intro due
    have isDue : roundDue line s = true ↔ due := roundDue_iff s line
    refine ⟨fun hr hd => ?_, fun h => ?_, ?_⟩
    · obtain ⟨frame, others⟩ := startRound_frame s line
      refine ⟨startRound line s, (act_of_released hreset _).trans ?_, frame, startRound_begun s line, others⟩
      rw [roundStart_of_due hr (isDue.2 hd)]
    · rw [← isDue] at h
      exact (act_of_released hreset _).trans (by rw [roundStart_of_not h])
    · exact ⟨_, act_of_released hreset _, raiseAttention_spec line s⟩
  · intro above
    have visits : ∀ a, above a ↔ a ∈ addressesAbove x.last ∧ (s.term (termNo line a)).visited x.wide = true := fun a => by
      rw [mem_addressesAbove, visited_iff, and_assoc]
    refine ⟨fun a ha low => ?_, fun nobody => ?_⟩
    · obtain ⟨hmem, hvisited⟩ := (visits a).1 ha
      have next : nextAddress line x s = some a :=
        nextAddress_eq_some_of_lowest hmem hvisited fun b h1 h2 => low b ((visits b).2 ⟨h1, h2⟩)
      intro n t ready
      obtain ⟨frame, own, terms, slot, lines⟩ := startSlot_spec line a x s
      obtain ⟨sent, polled⟩ := transmission_spec t
      refine ⟨startSlot line a x s, (act_of_released hreset _).trans ?_, frame, own, terms, ⟨t.transmission, slot, sent,
        polled⟩, lines⟩
      rw [slotStart_of_next hr hs next]
    · have spent : nextAddress line x s = none := by
        rw [← Option.not_isSome_iff_eq_none, nextAddress_isSome_iff]
        exact fun ⟨a, ha⟩ => nobody a ha
      obtain ⟨ended, frame, lines⟩ := finishRound_ended s line
      refine ⟨finishRound line s, (act_of_released hreset _).trans ?_, frame, ended, lines⟩
      rw [slotStart_of_spent hr hs spent]
  · exact (act_of_released hreset _).trans (by rw [slotStart_of_not h])
  · refine ⟨endRoundIfDone_of_idle, fun r hr => ⟨endRoundIfDone_of_finds hr, fun hf => ?_⟩⟩
    obtain ⟨ended, frame, lines⟩ := finishRound_ended s line
    rw [endRoundIfDone_of_spent hr hf]
    exact ⟨frame, ended, lines⟩

end Sys2Proof.Machine
end

section
/-! Proofs: TERM-ADMIT and TERM-RETIRE (R44, R140, R141, R143, R187). -/

namespace Sys2Proof.Machine

/-! ### The checks (R140, R141) -/

theorem termInRange_iff (line addr : Nat) : termInRange line addr = true ↔ line ≤ 3 ∧ addr ≤ 15 := by
  simp [termInRange]

theorem termInRange_of_high {line addr : Nat} (h : 3 < line ∨ 15 < addr) : (!termInRange line addr) = true := by
  rw [Bool.not_eq_true', ← Bool.not_eq_true, termInRange_iff]
  omega

theorem termInRange_of_low {line addr : Nat} (hl : line ≤ 3) (ha : addr ≤ 15) : ¬(!termInRange line addr) = true := by
  rw [(termInRange_iff line addr).2 ⟨hl, ha⟩]
  decide

theorem termAdmitRule_cases (line addr : Nat) (exempt : Bool) (s : State) :
    (3 < line ∨ 15 < addr → termAdmitRule (line, addr, exempt) s = Served.refuse .range s) ∧
    (line ≤ 3 → addr ≤ 15 → (s.term (termNo line addr)).state ≠ .vacant →
      termAdmitRule (line, addr, exempt) s = Served.refuse .state s) ∧
    (line ≤ 3 → addr ≤ 15 → (s.term (termNo line addr)).state = .vacant →
      termAdmitRule (line, addr, exempt) s = Served.reply [] (admitTerminal line addr exempt s)) :=
  ⟨fun h => if_pos (termInRange_of_high h), fun hl ha hs => (if_neg (termInRange_of_low hl ha)).trans (if_pos hs),
    fun hl ha hs => (if_neg (termInRange_of_low hl ha)).trans (if_neg (not_not_intro hs))⟩

theorem termRetireRule_cases (line addr : Nat) (s : State) :
    (3 < line ∨ 15 < addr → termRetireRule (line, addr) s = Served.refuse .range s) ∧
    (line ≤ 3 → addr ≤ 15 → (s.term (termNo line addr)).state = .vacant →
      termRetireRule (line, addr) s = Served.refuse .state s) ∧
    (line ≤ 3 → addr ≤ 15 → (s.term (termNo line addr)).state ≠ .vacant →
      termRetireRule (line, addr) s = Served.reply [] (retireTerminal line addr s)) :=
  ⟨fun h => if_pos (termInRange_of_high h), fun hl ha hs => (if_neg (termInRange_of_low hl ha)).trans (if_pos hs),
    fun hl ha hs => (if_neg (termInRange_of_low hl ha)).trans (if_neg hs)⟩

/-! ### TERM-ADMIT (R140, R143) -/

/-- R140, R143: the terminal admitted, and the round that its line begins when it was idle with every terminal VACANT. -/
theorem admitTerminal_spec (line : Nat) {addr : Nat} (ha : addr ≤ 15) (exempt : Bool) (s : State) :
    let n := termNo line addr
    let begins := (∀ a, a < 16 → (s.term (termNo line a)).state = .vacant) ∧ (s.tline line).round = none
    let v := admitTerminal line addr exempt s
    v = { s with terms := v.terms, tlines := v.tlines } ∧ v.term n = (s.term n).admitted exempt ∧
      (∀ m, m ≠ n → v.term m = s.term m) ∧
      (begins → RoundBegun (s.tline line) line v ∧ s.otherLinesKept v line) ∧ (¬begins → v.tlines = s.tlines) := by
  intro n begins v
  obtain ⟨t, et⟩ : ∃ t, t = s.setTerm n ((s.term n).admitted exempt) := ⟨_, rfl⟩
  have own : t.term n = (s.term n).admitted exempt := by rw [et]; exact State.term_setTerm_same ..
  have others : ∀ m, m ≠ n → t.term m = s.term m := fun m hm => by rw [et]; exact State.term_setTerm_other _ hm _
  have frame : t = { s with terms := t.terms } := by rw [et]; rfl
  have line_eq : ∀ m, t.tline m = s.tline m := fun m => by rw [et]; rfl
  have admitted : t.admitted line := ⟨addr, by omega, by rw [own]; simp [Terminal.admitted]⟩
  have all_vacant : ¬anyAdmitted line s = true ↔ ∀ a, a < 16 → (s.term (termNo line a)).state = .vacant := by
    simp [anyAdmitted_iff, State.admitted]
  have ev : v = if anyAdmitted line s then t else startRoundIfIdle line t := by rw [et]; rfl
  by_cases hb : begins
  · have begun : v = startRound line t := by
      rw [ev, if_neg (all_vacant.2 hb.1), startRoundIfIdle_of_idle (by rw [line_eq]; exact hb.2) admitted]
    obtain ⟨f, k⟩ := startRound_frame t line
    have round := startRound_begun t line
    rw [← begun] at f k round
    rw [line_eq] at round
    have terms : ∀ m, v.term m = t.term m := term_of_terms (by rw [f])
    exact ⟨by rw [f, frame], (terms n).trans own, fun m hm => (terms m).trans (others m hm),
      fun _ => ⟨round, fun m hm => (k m hm).trans (line_eq m)⟩, fun h => absurd hb h⟩
  · have stands : v = t := by
      by_cases h : anyAdmitted line s = true
      · rw [ev, if_pos h]
      · rw [ev, if_neg h, startRoundIfIdle_of_not]
        exact fun g => hb ⟨all_vacant.1 h, by rw [← line_eq]; exact g.1⟩
    rw [stands]
    exact ⟨by rw [frame], own, others, fun h => absurd h hb, fun _ => by rw [frame]⟩

/-- Settles O47: the checks of the rule, and the effect (`admitTerminal_spec`) in the frame of a request that is DONE. -/
theorem termAdmitMakesATerminalJoin : Obligations.TermAdmitMakesATerminalJoin := by
  intro r rest s line addr exempt h hr n
  obtain ⟨range, taken, accepted⟩ := termAdmitRule_cases line addr exempt (beginService r rest s)
  refine ⟨fun hb => act_of_refused h hr (range hb), fun hl ha hs => act_of_refused h hr (taken hl ha hs), fun hl ha hs => ?_⟩
  intro begins
  obtain ⟨frame, own, others, begun, stands⟩ := admitTerminal_spec line ha exempt (beginService r rest s)
  have rule := accepted hl ha hs
  generalize admitTerminal line addr exempt (beginService r rest s) = v at frame own others begun stands rule
  refine ⟨_, act_of_done h hr rule (by rw [frame]), by rw [frame]; rfl, own, others, fun hb => ?_, stands⟩
  obtain ⟨round, lines⟩ := begun hb
  exact ⟨round.of_reads rfl fun _ => ⟨rfl, .inl rfl⟩, lines⟩

/-! ### The parts of a TERM-RETIRE (R44, R69, R141, R187) -/

/-- R187: the lowest window whose slot holds the terminal's request is emptied, and its notice raised. -/
theorem cancelReferral_spec (line addr : Nat) (s : State) :
    let v := cancelReferral line addr s
    v = { s with windows := v.windows, link := { s.link with notices := v.link.notices } } ∧
      ∀ w h, w < 4 → (s.window w).slot = some h → h.line = line → h.addr = addr →
        (∀ v, v < w → ∀ g, (s.window v).slot = some g → ¬(g.line = line ∧ g.addr = addr)) →
        v.window w = { s.window w with slot := none, outcome := .cancelled } ∧
        (∀ k, k ≠ w → v.window k = s.window k) ∧ Noticed [.referral w] s v := by
  intro v
  have emptied : ∀ w, holdingWindow line addr s = some w → v = (emptySlot w .cancelled s).raise (.referral w) := by
    intro w hw
    simp only [v, cancelReferral, hw]
  refine ⟨?_, fun w h h4 hslot hline haddr low => ?_⟩
  · cases hw : holdingWindow line addr s with
    | none => simp only [v, cancelReferral, hw]
    | some w =>
      rw [emptied w hw]
      rcases (emptySlot w .cancelled s).raise_cases (.referral w) with ⟨-, e⟩ | ⟨-, e⟩ <;> rw [e] <;> rfl
  · have holding : holdingWindow line addr s = some w := by
      refine List.find?_range_eq_some.2 ⟨by simp [hslot, hline, haddr], List.mem_range.2 h4, fun k hk => ?_⟩
      cases hg : (s.window k).slot with
      | none => rfl
      | some g => simpa [imp_iff_not_or] using low k hk g hg
    have windows : ∀ k, v.window k = (emptySlot w .cancelled s).window k := fun k => by
      rw [emptied w holding, State.raise_frame]; rfl
    refine ⟨?_, fun k hk => ?_, ?_⟩
    · rw [windows]; exact State.window_setWindow_same ..
    · rw [windows]; exact State.window_setWindow_other _ hk _
    · rw [emptied w holding]
      exact (noticed_raise (emptySlot w .cancelled s) _).of_notices rfl rfl

/-- R44: the watchers of each instrument of a list lowered. -/
theorem forEach_dropWatcher_spec (l : List Nat) (s : State) :
    let v := forEach l dropWatcher s
    v = { s with entries := v.entries } ∧
      ∀ i, v.entry i = { s.entry i with watchers := (s.entry i).watchers - l.count i } := by
  induction l generalizing s with
  | nil => exact ⟨rfl, fun i => by simp⟩
  | cons j l ih =>
    obtain ⟨frame, lowered⟩ := ih (dropWatcher j s)
    rw [forEach_cons]
    refine ⟨by rw [frame]; rfl, fun i => ?_⟩
    rw [lowered]
    by_cases e : i = j
    · subst e
      rw [dropWatcher, State.entry_setEntry_same, List.count_cons_self, Nat.sub_sub, Nat.add_comm]
    · rw [dropWatcher, State.entry_setEntry_other _ e, List.count_cons_of_ne (Ne.symm e)]

/-- R141: the slot in progress for a terminal is ignored from then on; any other slot is left alone. -/
theorem ignoreSlot_spec (line addr : Nat) (s : State) :
    let v := ignoreSlot line addr s
    v = { s with tlines := v.tlines } ∧
      (∀ x, (s.tline line).slot = some x → x.address = addr →
        v.tline line = { s.tline line with slot := some { x with ignored := true } } ∧ s.otherLinesKept v line) ∧
      ((∀ x, (s.tline line).slot = some x → x.address ≠ addr) → v.tlines = s.tlines) := by
  intro v
  cases hx : (s.tline line).slot with
  | none =>
    have ev : v = s := by simp only [v, ignoreSlot, hx]
    rw [ev]
    exact ⟨rfl, fun x h => by simp at h, fun _ => rfl⟩
  | some x =>
    have ev : v = if x.address = addr then
        s.setTLine line { s.tline line with slot := some { x with ignored := true } } else s := by
      simp only [v, ignoreSlot, hx]
    by_cases ha : x.address = addr
    · rw [ev, if_pos ha]
      refine ⟨rfl, fun y hy _ => ?_, fun h => absurd ha (h x rfl)⟩
      cases hy
      exact ⟨State.tline_setTLine_same .., fun m hm => State.tline_setTLine_other s hm _⟩
    · rw [ev, if_neg ha]
      refine ⟨rfl, fun y hy hy' => ?_, fun _ => rfl⟩
      cases hy
      exact absurd hy' ha

/-- R69: the job in flight for a terminal is told of its retirement; any other job is left alone. -/
theorem markFate_retired_spec (line addr : Nat) (s : State) :
    let v := markFate .retired line addr s
    v = { s with fu := v.fu } ∧
      (∀ b fate, s.fu.job = some (.terminal line addr b fate) →
        v.fu = { s.fu with job := some (.terminal line addr b .retired) }) ∧
      ((∀ b fate, s.fu.job ≠ some (.terminal line addr b fate)) → v.fu = s.fu) := by
  intro v
  have ev : v.fu = { s.fu with job := s.fu.job.map (Job.meets .retired line addr) } := rfl
  refine ⟨rfl, fun b fate h => ?_, fun h => ?_⟩
  · rw [ev, h]
    simp [Job.meets]
  · have stands : s.fu.job.map (Job.meets .retired line addr) = s.fu.job := by
      cases hj : s.fu.job with
      | none => rfl
      | some j =>
        cases j with
        | terminal l a b f => exact congrArg some (if_neg fun ⟨el, ea⟩ => h b f (by rw [hj, el, ea]))
        | board => rfl
        | ribbon => rfl
    rw [ev, stands]

/-! ### TERM-RETIRE (R141) -/

/-- R141: the terminal emptied, after its referral and its watchers, and before its slot and its job. -/
theorem retireTerminal_spec (line addr : Nat) (s : State) :
    let n := termNo line addr
    let v := retireTerminal line addr s
    v = { s with
        terms := v.terms, tlines := v.tlines, entries := v.entries, windows := v.windows, fu := v.fu
        link := { s.link with notices := v.link.notices } } ∧
      v.term n = { Terminal.cold with changed := (s.term n).changed } ∧ (∀ m, m ≠ n → v.term m = s.term m) ∧
      (∀ i, v.entry i = { s.entry i with watchers := (s.entry i).watchers - (s.term n).watchList.count i }) ∧
      ((s.term n).record.state ≠ .referred → v.windows = s.windows ∧ v.link.notices = s.link.notices) ∧
      (∀ w h, (s.term n).record.state = .referred → w < 4 → (s.window w).slot = some h → h.line = line →
        h.addr = addr → (∀ v, v < w → ∀ g, (s.window v).slot = some g → ¬(g.line = line ∧ g.addr = addr)) →
        v.window w = { s.window w with slot := none, outcome := .cancelled } ∧
        (∀ k, k ≠ w → v.window k = s.window k) ∧ Noticed [.referral w] s v) ∧
      (∀ x, (s.tline line).slot = some x → x.address = addr →
        v.tline line = { s.tline line with slot := some { x with ignored := true } } ∧ s.otherLinesKept v line) ∧
      ((∀ x, (s.tline line).slot = some x → x.address ≠ addr) → v.tlines = s.tlines) ∧
      (∀ b fate, s.fu.job = some (.terminal line addr b fate) →
        v.fu = { s.fu with job := some (.terminal line addr b .retired) }) ∧
      ((∀ b fate, s.fu.job ≠ some (.terminal line addr b fate)) → v.fu = s.fu) := by
  intro n v
  obtain ⟨a, ea⟩ : ∃ a, a = if (s.term n).record.state = .referred then cancelReferral line addr s else s := ⟨_, rfl⟩
  obtain ⟨cFrame, cancelled⟩ := cancelReferral_spec line addr s
  have fa : a = { s with windows := a.windows, link := { s.link with notices := a.link.notices } } := by
    rw [ea]; split
    · exact cFrame
    · rfl
  have termA : ∀ m, a.term m = s.term m := term_of_terms (by rw [fa])
  obtain ⟨b, eb⟩ : ∃ b, b = forEach (a.term n).watchList dropWatcher a := ⟨_, rfl⟩
  obtain ⟨fb, lowered⟩ := forEach_dropWatcher_spec (a.term n).watchList a
  rw [← eb] at fb lowered
  have termB : ∀ m, b.term m = s.term m := fun m => (term_of_terms (by rw [fb]) m).trans (termA m)
  obtain ⟨c, ec⟩ : ∃ c, c = b.setTerm n (b.term n).retired := ⟨_, rfl⟩
  have fc : c = { b with terms := c.terms } := by rw [ec]; rfl
  obtain ⟨d, ed⟩ : ∃ d, d = ignoreSlot line addr c := ⟨_, rfl⟩
  obtain ⟨fd, ignored, otherSlot⟩ := ignoreSlot_spec line addr c
  rw [← ed] at fd ignored otherSlot
  have ev : v = markFate .retired line addr d := by rw [ed, ec, eb, ea]; rfl
  obtain ⟨fv, told, otherJob⟩ := markFate_retired_spec line addr d
  rw [← ev] at fv told otherJob
  have lines : c.tlines = s.tlines := by rw [fc, fb, fa]
  have line_eq : ∀ m, c.tline m = s.tline m := fun m => by simp only [State.tline, lines]
  have lineV : ∀ m, v.tline m = d.tline m := fun m => by rw [fv]; rfl
  have fu : d.fu = s.fu := by rw [fd, fc, fb, fa]
  have terms : ∀ m, v.term m = c.term m := term_of_terms (by rw [fv, fd])
  have windows : v.windows = a.windows := by rw [fv, fd, fc, fb]
  have notices : v.link.notices = a.link.notices := by rw [fv, fd, fc, fb]
  rw [line_eq] at ignored otherSlot
  rw [fu] at told otherJob
  refine ⟨?_, ?_, fun m hm => ?_, fun i => ?_, fun hn => ?_, fun w h hrec h4 hslot hline haddr low => ?_, fun x hx hxa => ?_,
    fun hx => ?_, told, otherJob⟩
  · rw [fv, fd, fc, fb, fa]
  · rw [terms, ec, State.term_setTerm_same, termB]; rfl
  · rw [terms, ec, State.term_setTerm_other _ hm, termB]
  · rw [entry_of_entries (s := b) (by rw [fv, fd, fc]), lowered, termA, entry_of_entries (s := s) (by rw [fa])]
  · have stands : a = s := ea.trans (if_neg hn)
    rw [windows, notices, stands]
    exact ⟨rfl, rfl⟩
  · rw [if_pos hrec] at ea
    obtain ⟨emptied, kept, noticed⟩ := cancelled w h h4 hslot hline haddr low
    rw [← ea] at emptied kept noticed
    have window : ∀ k, v.window k = a.window k := fun k => by simp only [State.window, windows]
    exact ⟨(window w).trans emptied, fun k hk => (window k).trans (kept k hk), noticed.of_notices rfl notices⟩
  · obtain ⟨h1, h2⟩ := ignored x hx hxa
    exact ⟨(lineV line).trans h1, fun m hm => (lineV m).trans ((h2 m hm).trans (line_eq m))⟩
  · have : v.tlines = d.tlines := by rw [fv]
    rw [this, otherSlot hx, lines]

/-- Settles O48: the checks of the rule, and the effect (`retireTerminal_spec`) in the frame of a request that is DONE. -/
theorem termRetireEmptiesTheTerminal : Obligations.TermRetireEmptiesTheTerminal := by
  intro r rest s line addr h hr n
  obtain ⟨range, vacant, accepted⟩ := termRetireRule_cases line addr (beginService r rest s)
  refine ⟨fun hb => act_of_refused h hr (range hb), fun hl ha hs => act_of_refused h hr (vacant hl ha hs),
    fun hl ha hs => ?_⟩
  obtain ⟨frame, own, others, entries, unreferred, cancelled, slot⟩ := retireTerminal_spec line addr (beginService r rest s)
  have rule := accepted hl ha hs
  generalize retireTerminal line addr (beginService r rest s) = v at frame own others entries unreferred cancelled slot rule
  refine ⟨_, act_of_done h hr rule (by rw [frame]), by rw [frame]; rfl, own, others, entries, unreferred,
    fun w g hrec h4 hslot hline haddr low => ?_, slot⟩
  obtain ⟨emptied, kept, noticed⟩ := cancelled w g hrec h4 hslot hline haddr low
  exact ⟨emptied, kept, noticed.of_notices rfl rfl⟩

end Sys2Proof.Machine
end

section
/-! Proofs: the REFER-ANSWER of a DENY (R185). -/

namespace Sys2Proof.Machine

/-- R185: a DENY in a HELD slot. -/
theorem referAnswerRule_deny {w : Nat} {h : HeldSlot} {s : State} (hw : w ≤ 3) (hs : (s.window w).slot = some h) :
    referAnswerRule (w, 1) s = referReply w 1 h (denyWindow w h s) := by
  unfold referAnswerRule
  rw [if_neg (by simp; omega)]
  simp only [hs]
  rfl

/-- R185: what a DENY does: the window's slot and outcome, the dealer's record, and nothing else. -/
theorem denyWindow_spec (w : Nat) (h : HeldSlot) (s : State) :
    let n := termNo h.line h.addr
    let u := denyWindow w h s
    Answered n (DealerResult.ofCode .denied) (emptySlot w .denied s) u ∧
      u = { s with windows := u.windows, terms := u.terms } ∧
      u.window w = { s.window w with slot := none, outcome := .denied } ∧
      (∀ v, v ≠ w → u.window v = s.window v) ∧
      u.term n = { s.term n with record := { (s.term n).record with
        state := .answered, result := some (DealerResult.ofCode .denied) } } ∧
      ∀ m, m ≠ n → u.term m = s.term m := by
  intro n u
  obtain ⟨answered, -, term⟩ := giveResult_spec n (DealerResult.ofCode .denied) (emptySlot w .denied s)
  exact ⟨answered, rfl, State.window_setWindow_same .., fun v hv => State.window_setWindow_other s hv _,
    term.trans (by rw [answered.record]; rfl), answered.others⟩

/-- Settles O57: the effect of the DENY (`denyWindow_spec`) in the frame of a request that is DONE. -/
theorem denyGivesDenied : Obligations.DenyGivesDenied := by
  intro r rest s w h hready hread hw hslot n
  obtain ⟨answered, frame, window, windows, term, terms⟩ := denyWindow_spec w h (beginService r rest s)
  have rule := referAnswerRule_deny (s := beginService r rest s) hw hslot
  rw [referReply_eq, givenCode_eq answered] at rule
  exact ⟨_, act_of_done hready hread rule (by rw [frame]), by rw [frame]; rfl, window, windows, term, terms⟩

end Sys2Proof.Machine
end

section
/-! Proofs: the RESET pin (R207). -/

namespace Sys2Proof.Machine

/-- R207: while RESET is asserted a command other than the two of the RESET pin has no effect. -/
theorem exec_of_asserted {s : State} (h : s.resetAsserted = true) {c : Instr} (ha : c ≠ .resetAssert)
    (hr : c ≠ .resetRelease) : exec c s = .next s := by
  have idle : ∀ f, act f s = .next s := act_of_asserted h
  have idleUndecided : ∀ f, actUndecided f s = .next s := actUndecided_of_asserted h
  cases c with
  | resetAssert => exact absurd rfl ha
  | resetRelease => exact absurd rfl hr
  | askStatus | askCell | askTerminal | askRibbon | askCounters | restart => exact idleUndecided _
  | _ => exact idle _

/-- Settles O5: the pin's own commands put the cold state (`coldState`), and no other has an effect (`exec_of_asserted`). -/
theorem resetPinGivesTheColdState : Obligations.ResetPinGivesTheColdState :=
  ⟨fun _ => ⟨rfl, fun asserted => if_pos asserted, fun released => if_neg (by rw [released]; decide)⟩,
    fun _ _ h ha hr => exec_of_asserted h ha hr⟩

end Sys2Proof.Machine
end

section
/-! Proofs: the receive frame assembler (R192 to R196). -/

namespace Sys2Proof.Machine

/-! ### Bytes in turn (R193, R194) -/

theorem setAsm_of_asm {a : Asm} {s : State} (h : s.link.asm = a) : setAsm a s = s := by subst h; rfl

theorem receiveBytes_append (a b : List Byte) (s : State) :
    receiveBytes (a ++ b) s = receiveBytes b (receiveBytes a s) := List.foldl_append

/-- R193: two SYNC bytes in HUNT bring the assembler to the length. -/
theorem receiveBytes_sync {s : State} (h : s.link.asm = .hunt) :
    receiveBytes [0x16, 0x16] s = setAsm .headerLength s := by
  have first : receiveByte 0x16 s = setAsm .syncSeen s := by rw [receiveByte, h]; rfl
  have second : receiveByte 0x16 (setAsm .syncSeen s) = setAsm .headerLength s := rfl
  simp only [receiveBytes, forEach_cons, forEach_nil, first, second]

section
variable (length kind tag : Byte) (s : State)

/-- R194: a length byte above 248 discards the frame at once. -/
theorem receiveByte_badLength (h : 248 < length.toNat) :
    receiveByte length (setAsm .headerLength s) = badFrame (setAsm .hunt s) := if_pos h

/-- R193: the header of a frame. -/
theorem receiveBytes_header (h : length.toNat ≤ 248) :
    receiveBytes [length, kind, tag] (setAsm .headerLength s) = setAsm (bodyOrCheck length kind tag []) s := by
  have taken : receiveByte length (setAsm .headerLength s) = setAsm (.headerKind length) s := if_neg (Nat.not_lt.2 h)
  simp only [receiveBytes, forEach_cons, forEach_nil, taken]
  rfl

/-- R193: the bytes that complete a body. -/
theorem receiveBytes_body (body taken : List Byte) (h : taken.length + body.length = length.toNat) :
    receiveBytes body (setAsm (bodyOrCheck length kind tag taken) s) =
      setAsm (.checkHigh length kind tag (taken ++ body)) s := by
  induction body generalizing taken with
  | nil =>
    have complete : ¬taken.length < length.toNat := by rw [← h]; exact Nat.lt_irrefl _
    rw [bodyOrCheck, if_neg complete, List.append_nil]
    rfl
  | cons b body ih =>
    rw [List.length_cons] at h
    have incomplete : bodyOrCheck length kind tag taken = .body length kind tag taken := if_pos (by omega)
    have rest := ih (taken ++ [b]) (by rw [List.length_append, List.length_singleton]; omega)
    rw [List.append_assoc] at rest
    rw [incomplete]
    exact rest

/-- R193, R194: the two check bytes of a frame. -/
theorem receiveBytes_check (body : List Byte) (high low : Byte) :
    receiveBytes [high, low] (setAsm (.checkHigh length kind tag body) s) =
      judgeFrame length kind tag body high low (setAsm .hunt s) := rfl

end

/-! ### A whole frame -/

theorem byteOf_toNat {n : Nat} (h : n < 256) : (byteOf n).toNat = n := by
  rw [byteOf, BitVec.toNat_ofNat, Nat.mod_eq_of_lt h]

section
variable {s : State} {f : LinkFrame}

/-- R193, R194: the bytes of a frame, received in HUNT. -/
theorem receiveBytes_frame (ha : s.link.asm = .hunt) (hf : f.body.length ≤ 248) (high low : Byte) :
    receiveBytes ([0x16, 0x16, byteOf f.body.length, f.kind, f.tag] ++ f.body ++ [high, low]) s =
      judgeFrame (byteOf f.body.length) f.kind f.tag f.body high low s := by
  have length : (byteOf f.body.length).toNat = f.body.length := byteOf_toNat (by omega)
  have header : ([0x16, 0x16, byteOf f.body.length, f.kind, f.tag] : List Byte) =
      [0x16, 0x16] ++ [byteOf f.body.length, f.kind, f.tag] := rfl
  rw [header, receiveBytes_append, receiveBytes_append, receiveBytes_append, receiveBytes_sync ha,
    receiveBytes_header _ _ _ _ (by rw [length]; exact hf), receiveBytes_body _ _ _ _ _ _ (by rw [length]; simp),
    receiveBytes_check, setAsm_of_asm ha, List.nil_append]

theorem frameSum_eq (hf : f.body.length ≤ 248) : frameSum (byteOf f.body.length) f.kind f.tag f.body =
    (f.body.length + f.kind.toNat + f.tag.toNat + (f.body.map BitVec.toNat).sum) % 65536 := by
  rw [frameSum, byteOf_toNat (by omega)]

/-- R192: the two check bytes of a sum give it back. -/
theorem numberOf_numBytes_two {n : Nat} (h : n < 65536) : numberOf (numBytes 2 n) = n := by
  have high : (byteOf (n / 256 ^ 1 % 256)).toNat = n / 256 := by rw [byteOf_toNat (Nat.mod_lt _ (by decide))]; omega
  have low : (byteOf (n / 256 ^ 0 % 256)).toNat = n % 256 := by rw [byteOf_toNat (Nat.mod_lt _ (by decide))]; omega
  rw [numBytes, numBytes, numBytes, numberOf_pair, high, low]
  omega

/-- R192, R193: a frame as its sender lays it out passes its check. -/
theorem receiveBytes_wire (ha : s.link.asm = .hunt) (hf : f.body.length ≤ 248) :
    receiveBytes f.wire s = takeRequest f s := by
  have sum : frameSum (byteOf f.body.length) f.kind f.tag f.body < 65536 := Nat.mod_lt _ (by decide)
  refine (receiveBytes_frame ha hf _ _).trans ((if_pos (numberOf_numBytes_two sum)).trans ?_)
  rw [setAsm_of_asm ha]

/-- R194: a frame whose check bytes do not give its sum is discarded. -/
theorem receiveBytes_badSum (ha : s.link.asm = .hunt) (hf : f.body.length ≤ 248) {high low : Byte}
    (hsum : high.toNat * 256 + low.toNat ≠
      (f.body.length + f.kind.toNat + f.tag.toNat + (f.body.map BitVec.toNat).sum) % 65536) :
    receiveBytes ([0x16, 0x16, byteOf f.body.length, f.kind, f.tag] ++ f.body ++ [high, low]) s = badFrame s := by
  rw [receiveBytes_frame ha hf, judgeFrame, if_neg, setAsm_of_asm ha]
  rw [numberOf_pair, Nat.mul_comm, frameSum_eq hf]
  exact hsum

end

/-- Settles O9: the frame passes its check (`receiveBytes_wire`) and finds room. -/
theorem receivedFrameJoinsTheQueue : Obligations.ReceivedFrameJoinsTheQueue := by
  intro s f hr ha hf hroom
  have joins : takeRequest f s = { s with link := { s.link with requests := s.link.requests ++ [f] } } := if_pos hroom
  rw [← joins, ← receiveBytes_wire ha hf]
  exact act_of_released hr (receiveBytes f.wire)

/-- Settles O10: the frame passes its check (`receiveBytes_wire`) and finds no room. -/
theorem fullQueueRefusesOrDiscards : Obligations.FullQueueRefusesOrDiscards := by
  intro s f hr ha hf hfull
  have full : takeRequest f s =
      if s.link.replies.length + placesKept s.link < Config.replyPlaces then refuseReply f .full s else badFrame s :=
    if_neg (Nat.not_lt.2 hfull)
  have received := act_of_released hr (receiveBytes f.wire)
  rw [receiveBytes_wire ha hf, full, apply_ite (finish s), apply_ite Host.Outcome.next] at received
  exact received

/-- Settles O11: a frame's two ends that discard it (`receiveByte_badLength`, `receiveBytes_badSum`), and the events of the
sync bytes and of the frame timer. -/
theorem assemblerEvents : Obligations.AssemblerEvents := by
  refine ⟨fun s hr ha => ⟨fun b hb => ?_, fun f high low hf hsum => ?_⟩,
    fun s hr => ⟨fun ha => ?_, fun b ha hb => ?_, fun ha => ?_⟩⟩
  · have discarded : receiveBytes [0x16, 0x16, b] s = badFrame s := by
      change receiveBytes ([0x16, 0x16] ++ [b]) s = badFrame s
      rw [receiveBytes_append, receiveBytes_sync ha]
      exact (receiveByte_badLength b s hb).trans (by rw [setAsm_of_asm ha])
    exact (act_of_released hr (receiveBytes _)).trans (by rw [discarded]; rfl)
  · exact (act_of_released hr (receiveBytes _)).trans (by rw [receiveBytes_badSum ha hf hsum]; rfl)
  · have seen : firstSync s = setAsm .syncSeen s := by
      rw [firstSync, if_pos ha, receiveByte, ha]
      rfl
    exact (act_of_released hr firstSync).trans (by rw [seen]; rfl)
  · have missed : secondSyncMissing b s = setAsm .hunt s := by
      rw [secondSyncMissing, if_pos ⟨ha, hb⟩, receiveByte, ha]
      exact if_neg hb
    exact (act_of_released hr (secondSyncMissing b)).trans (by rw [missed]; rfl)
  · have expired : frameTimeout s = (setAsm .hunt s).count .lkTimeout := if_pos (decide_eq_true ha)
    exact (act_of_released hr frameTimeout).trans (by rw [expired]; rfl)

end Sys2Proof.Machine
end

section
/-! Proofs: every served request gets one reply, and no service begins before it may (R197, R198, R203, R208, R209). -/

namespace Sys2Proof.Machine

/-! ### What a rule decides of the request in service (R197, R198) -/

/-- What the rule of a DONE request leaves alone: the requests and the replies queued, and In_refused. -/
structure QueuesKept (s u : State) : Prop where
  requests : u.link.requests = s.link.requests
  replies : u.link.replies = s.link.replies
  refused : u.counter .inRefused = s.counter .inRefused

theorem QueuesKept.refl (s : State) : QueuesKept s s := ⟨rfl, rfl, rfl⟩

/-- A change of the link's notices, and of counters other than In_refused. -/
theorem QueuesKept.of_counted {s u : State} {cs : List Counter} (hl : u.link = { s.link with notices := u.link.notices })
    (hc : s.onlyCounted u cs) (hr : Counter.inRefused ∉ cs) : QueuesKept s u :=
  ⟨by rw [hl], by rw [hl], hc _ hr⟩

/-- A change of the link's notices, and of no counter. -/
theorem QueuesKept.of_uncounted {s u : State} (hl : u.link = { s.link with notices := u.link.notices })
    (hc : u.counters = s.counters) : QueuesKept s u :=
  ⟨by rw [hl], by rw [hl], counter_of_counters hc _⟩

/-- What a rule decides of the request in service that it finds in `s`: REFUSED with nothing changed, or DONE with the queues
kept. -/
inductive Decided (s : State) : Served → Prop where
  | refused (reason : Reason) : Decided s (Served.refuse reason s)
  | reply (bytes : List Byte) {u : State} (kept : QueuesKept s u) : Decided s (Served.reply bytes u)

section
variable {s u : State}

theorem Decided.done (kept : QueuesKept s u) : Decided s (Served.done u) := .reply [] kept

/-- A check that refuses, before the rest of a rule. -/
theorem Decided.check {p : Prop} [Decidable p] {reason : Reason} {x : Served} (h : ¬p → Decided s x) :
    Decided s (if p then Served.refuse reason s else x) := by
  split_ifs with hp
  · exact .refused reason
  · exact h hp

/-- A check that accepts, before the refusal. -/
theorem Decided.accept {p : Prop} [Decidable p] {reason : Reason} {x : Served} (h : p → Decided s x) :
    Decided s (if p then x else Served.refuse reason s) := by
  split_ifs with hp
  · exact h hp
  · exact .refused reason

end

/-! ### The feed requests (chapter 2) -/

theorem listRule_decided (b : ListBody) (s : State) : Decided s (listRule b s) := by
  refine .check fun _ => .check fun _ => .check fun _ => .check fun hd => ?_
  obtain ⟨frame, -⟩ := listInstrument_spec b s (by simpa using hd)
  exact .done (.of_uncounted (by rw [frame]) (by rw [frame]))

theorem delistRule_decided (i : Nat) (s : State) : Decided s (delistRule i s) := by
  refine .check fun _ => .check fun _ => .check fun _ => ?_
  obtain ⟨frame, -⟩ := delistInstrument_spec i s
  exact .done (.of_uncounted (by rw [frame]) (by rw [frame]))

theorem queuesKept_tradeInstrument (i p z : Nat) (moved clamped : Bool) (s : State) :
    QueuesKept s (tradeInstrument i p z moved clamped s) := by
  obtain ⟨t, a, v, read, -, -, traded, counted, -, -, -, fanned, whole⟩ := tradeInstrument_spec i p z moved clamped s
  have link : v.link = { s.link with notices := v.link.notices } := by rw [fanned.frame, traded, read.frame]
  have refused : v.counter .inRefused = s.counter .inRefused :=
    (fanned.counted _ (by decide)).trans (counted _ (by decide))
  rw [whole]
  exact ⟨by rw [clearFirst, State.setEntry_link, link], by rw [clearFirst, State.setEntry_link, link], refused⟩

theorem tradeRule_decided (b : TradeBody) (s : State) : Decided s (tradeRule b s) := by
  refine .check fun _ => .check fun _ => .check fun _ => .check fun _ => ?_
  split
  · exact .done (queuesKept_tradeInstrument ..)
  · exact .refused _

theorem quoteRule_decided (b : QuoteBody) (s : State) : Decided s (quoteRule b s) := by
  refine .check fun _ => .check fun _ => ?_
  split
  · next bid ask _ _ =>
    obtain ⟨frame, -, -, -, -, -, counted, -⟩ := quoteInstrument_spec b.index bid ask s
    exact .done (.of_counted (by rw [frame]) counted (by decide))
  · exact .refused _

theorem closeSetRule_decided (b : Nat × Option Nat) (s : State) : Decided s (closeSetRule b s) := by
  refine .check fun _ => .check fun _ => ?_
  split
  · next close moved _ =>
    obtain ⟨frame, -, -, -, -, counted, -⟩ := setClose_spec b.1 close moved s
    exact .done (.of_counted (by rw [frame]) counted (by decide))
  · exact .refused _

theorem queuesKept_changeStatus (i : Nat) (x : EntryStatus) (print : Text → PrintBody) (s : State) :
    QueuesKept s (changeStatus i x print s) := by
  obtain ⟨frame, -, -, -, -, -, -, counted⟩ := changeStatus_spec i x print s
  exact .of_counted (by rw [frame]) counted (by decide)

theorem haltRule_decided (i : Nat) (s : State) : Decided s (haltRule i s) :=
  .check fun _ => .check fun _ => .done (queuesKept_changeStatus ..)

theorem resumeRule_decided (i : Nat) (s : State) : Decided s (resumeRule i s) :=
  .check fun _ => .check fun _ => .done (queuesKept_changeStatus ..)

/-! ### The session and the clock (chapter 3) -/

theorem sessionSetRule_decided (n : Nat) (s : State) : Decided s (sessionSetRule n s) := by
  unfold sessionSetRule
  split
  · exact .refused _
  · next tgt _ =>
    have stays : Decided s (sessionDone s) := .reply _ (.refl s)
    have moves : Decided s (sessionDone (makeTransition tgt s)) := by
      obtain ⟨frame, -, counted, -⟩ := makeTransition_spec tgt s
      exact .reply _ (.of_counted (by rw [frame]) counted (by decide))
    split_ifs
    · exact stays
    · exact .refused _
    · exact .refused _
    · exact moves

theorem timeSetRule_decided (b : TimeBody) (s : State) : Decided s (timeSetRule b s) := by
  refine .check fun _ => .done ?_
  rw [setStateAfterTime, setClockState_eq]
  exact .of_uncounted rfl rfl

theorem schedSetRule_decided (b : SchedBody) (s : State) : Decided s (schedSetRule b s) := by
  unfold schedSetRule
  split
  · exact .refused _
  · exact .done (.of_uncounted rfl rfl)

/-! ### The Format Unit and the cells (chapters 4 and 5) -/

theorem formatSetRule_decided (g : Nat) (s : State) : Decided s (formatSetRule g s) :=
  .check fun _ => .done (.of_uncounted rfl rfl)

theorem boardSetRule_decided (n : Nat) (s : State) : Decided s (boardSetRule n s) :=
  .check fun _ => .done (.of_uncounted rfl rfl)

theorem bindRule_decided (b : BindBody) (s : State) : Decided s (bindRule b s) := by
  refine .check fun _ => .check fun _ => .check fun _ => ?_
  split
  · next f _ =>
    obtain ⟨frame, -⟩ := bindCell_spec (cellNo b.line b.slot) b.index f b.width s
    exact .done (.of_uncounted (by rw [frame]) (by rw [frame]))
  · exact .refused _

theorem unbindRule_decided (b : Nat × Nat) (s : State) : Decided s (unbindRule b s) := by
  refine .check fun _ => .check fun hb => ?_
  obtain ⟨i, hi⟩ := Option.ne_none_iff_exists'.1 hb
  obtain ⟨frame, -⟩ := unbindCell_spec hi
  exact .done (.of_uncounted (by rw [frame]) (by rw [frame]))

theorem holdRule_decided (b : HoldBody) (s : State) : Decided s (holdRule b s) := by
  refine .check fun _ => ?_
  split
  · exact .refused _
  · next h _ =>
    obtain ⟨frame, -⟩ := holdCell_spec (cellNo b.line b.slot) h s
    exact .done (.of_uncounted (by rw [frame]) (by rw [frame]))

theorem releaseRule_decided (b : Nat × Nat) (s : State) : Decided s (releaseRule b s) := by
  refine .check fun _ => .check fun _ => ?_
  obtain ⟨frame, -⟩ := releaseCell_spec (cellNo b.1 b.2) s
  exact .done (.of_uncounted (by rw [frame]) (by rw [frame]))

/-! ### The board lines and the ribbons (chapters 6 and 7) -/

theorem lineSetRule_decided (b : LineBody) (s : State) : Decided s (lineSetRule b s) := by
  refine .check fun _ => ?_
  split
  · exact .refused _
  · next t _ =>
    have frame := (applyTarget_configureLine_done b t s).frame
    exact .check fun _ => .done (.of_uncounted (by rw [frame]) (by rw [frame]))

theorem lineWakeRule_decided (n : Nat) (s : State) : Decided s (lineWakeRule n s) := by
  by_cases hn : n ≤ 7
  · by_cases hs : (s.line n).state = .off
    · have refuses : lineWakeRule n s = Served.refuse .state s := by rw [lineWakeRule, if_neg (by omega), hs]
      rw [refuses]
      exact .refused _
    · obtain ⟨u, rule, frame, -⟩ := lineWakeRule_done hn hs
      rw [rule]
      exact .done (.of_uncounted (by rw [frame]) (by rw [frame]))
  · have refuses : lineWakeRule n s = Served.refuse .range s := if_pos (by omega)
    rw [refuses]
    exact .refused _

theorem ribbonSetRule_decided (b : RibbonBody) (s : State) : Decided s (ribbonSetRule b s) := by
  unfold ribbonSetRule
  split
  · next id e _ _ =>
    refine .accept fun _ => .done ?_
    obtain ⟨frame, -, counted, -⟩ := applyEnable_frame e id (s.setRibbon id ((s.ribbon id).configured b))
    have kept := QueuesKept.of_counted (by rw [frame]) counted (by decide)
    exact ⟨by rw [kept.requests, State.setRibbon_link], by rw [kept.replies, State.setRibbon_link],
      by rw [kept.refused, State.setRibbon_counter]⟩
  · exact .refused _

/-! ### The terminals and the referral windows (chapters 8 and 10) -/

theorem termAdmitRule_decided (b : Nat × Nat × Bool) (s : State) : Decided s (termAdmitRule b s) := by
  refine .check fun hr => .check fun _ => ?_
  obtain ⟨-, ha⟩ := (termInRange_iff b.1 b.2.1).1 (by simpa using hr)
  obtain ⟨frame, -⟩ := admitTerminal_spec b.1 ha b.2.2 s
  exact .done (.of_uncounted (by rw [frame]) (by rw [frame]))

theorem termRetireRule_decided (b : Nat × Nat) (s : State) : Decided s (termRetireRule b s) := by
  refine .check fun _ => .check fun _ => ?_
  obtain ⟨frame, -⟩ := retireTerminal_spec b.1 b.2 s
  exact .done (.of_uncounted (by rw [frame]) (by rw [frame]))

theorem tlineSetRule_decided (b : TLineBody) (s : State) : Decided s (tlineSetRule b s) := by
  by_cases h : b.poll ≤ 1 ∧ b.inRange = true
  · have known : pollModeOf b.poll ≠ none := fun none => absurd ((pollModeOf_eq_none_iff _).1 none) (Nat.not_lt.2 h.1)
    obtain ⟨p, hp⟩ := Option.ne_none_iff_exists'.1 known
    obtain ⟨v, rule, frame, -⟩ := tlineSetRule_done hp h.2 s
    rw [rule]
    exact .reply [] (.of_uncounted (by rw [frame]) (by rw [frame]))
  · rw [tlineSetRule_refused h]
    exact .refused _

theorem windowSetRule_decided (b : WindowBody) (s : State) : Decided s (windowSetRule b s) :=
  .accept fun _ => .done (.of_uncounted rfl rfl)

/-- R184, R185: a GRANT or a DENY answers a held request. -/
theorem Answered.queuesKept {n w : Nat} {x : DealerResult} {outcome : ReferralOutcome} {s u : State}
    (h : Answered n x (emptySlot w outcome s) u) : QueuesKept s u :=
  .of_uncounted (by rw [h.frame]; rfl) (by rw [h.frame]; rfl)

theorem referAnswerRule_decided (b : Nat × Nat) (s : State) : Decided s (referAnswerRule b s) := by
  refine .check fun _ => ?_
  split
  · exact .refused _
  · next h _ =>
    obtain ⟨x, granted⟩ := grantHeld_answered h (emptySlot b.1 .granted s)
    obtain ⟨denied, -⟩ := denyWindow_spec b.1 h s
    refine .reply _ ?_
    split_ifs
    · exact granted.queuesKept
    · exact denied.queuesKept

/-! ### The queries (chapter 11) -/

theorem askStatusRule_decided (n : Nat) (s : State) : Decided s (askStatusRule n s) := .check fun _ => .reply _ (.refl s)

theorem askInstrumentRule_decided (i : Nat) (s : State) : Decided s (askInstrumentRule i s) := by
  have frame := (touch_read i s).frame
  exact .check fun _ => .reply _ (.of_uncounted (by rw [frame]) (by rw [frame]))

theorem askCellRule_decided (b : Nat × Nat) (s : State) : Decided s (askCellRule b s) :=
  .check fun _ => .reply _ (.refl s)

theorem askTerminalRule_decided (b : Nat × Nat) (s : State) : Decided s (askTerminalRule b s) :=
  .check fun _ => .reply _ (.refl s)

theorem askRibbonRule_decided (n : Nat) (s : State) : Decided s (askRibbonRule n s) := by
  unfold askRibbonRule
  split
  · exact .reply _ (.refl s)
  · exact .refused _

/-! ### One reply to each request in service (R197, R198) -/

/-- R198: what the service of the head request leaves: one reply to it, REFUSED with nothing else changed, or DONE. A RESTART
discards the requests behind it (R209), and CLEAR-COUNTERS clears In_refused (R203). -/
def RepliedOnce (k : HostKind) (r : LinkFrame) (rest : List LinkFrame) (s u : State) : Prop :=
  (∃ reason, u = s.refusedHead r rest reason) ∨
    ∃ result, u.link.replies = s.link.replies ++ [{ kind := 0xA0, tag := r.tag, body := r.kind :: result }] ∧
      u.link.requests = (if k = .restart then [] else rest) ∧ u.link.inService = none ∧
      u.counter .inRefused = if k = .clearCounters then 0 else s.counter .inRefused

section
variable {α : Type} {k : HostKind} {r : LinkFrame} {rest : List LinkFrame} {s : State} {read : List Byte → Option α}
  {rule : α → State → Served}

/-- R198: a DONE reply, by a rule that keeps the replies queued. -/
theorem endService_reply (r : LinkFrame) (bytes : List Byte) {s v : State} (h : v.link.replies = s.link.replies) :
    let u := endService r (Served.reply bytes v)
    u.link.replies = s.link.replies ++ [{ kind := 0xA0, tag := r.tag, body := r.kind :: bytes }] ∧
      u.link.requests = v.link.requests ∧ u.link.inService = none ∧ u.counter .inRefused = v.counter .inRefused :=
  ⟨congrArg (· ++ [doneReply r bytes]) h, rfl, rfl, rfl⟩

/-- R197, R198: the service of a request whose reader does not read its body, or whose rule decides it. -/
theorem serve_repliedOnce (h : s.ready k r rest) (hk : k ≠ .restart) (hc : k ≠ .clearCounters)
    (decided : ∀ x u, Decided u (rule x u)) : RepliedOnce k r rest s (serve k read rule s) := by
  rw [serve_of_ready h]
  cases hr : read r.body with
  | none =>
    rw [shaped_of_unread hr, endService_refuse]
    exact .inl ⟨_, rfl⟩
  | some x =>
    have decision := decided x (beginService r rest s)
    rw [shaped_of_read hr]
    generalize rule x (beginService r rest s) = answer at decision
    cases decision with
    | refused reason => exact .inl ⟨reason, endService_refuse r rest reason⟩
    | reply bytes kept =>
      obtain ⟨replies, requests, inService, refused⟩ := endService_reply r bytes (s := s) kept.replies
      refine .inr ⟨bytes, replies, ?_, inService, ?_⟩
      · rw [if_neg hk, requests, kept.requests]; rfl
      · rw [if_neg hc, refused, kept.refused]; rfl

/-- R203: CLEAR-COUNTERS. -/
theorem serve_clearCounters_repliedOnce (h : s.ready .clearCounters r rest) :
    RepliedOnce .clearCounters r rest s (serve .clearCounters readNone clearCountersRule s) := by
  rw [serve_of_ready h]
  cases hr : readNone r.body with
  | none =>
    rw [shaped_of_unread hr, endService_refuse]
    exact .inl ⟨_, rfl⟩
  | some x =>
    rw [shaped_of_read hr]
    exact .inr ⟨_, rfl, rfl, rfl, rfl⟩

/-- R209: a RESTART, whose blocks' restarts leave the link and the counters alone. -/
theorem serve_restart_repliedOnce (h : s.ready .restart r rest) :
    RepliedOnce .restart r rest s (serve .restart readNone restartRule s) := by
  rw [serve_of_ready h]
  cases hr : readNone r.body with
  | none =>
    rw [shaped_of_unread hr, endService_refuse]
    exact .inl ⟨_, rfl⟩
  | some x =>
    have frame := (restartBlocks_restarted (beginService r rest s)).frame
    rw [shaped_of_read hr, restartRule, endService_restart r rest (by rw [frame])]
    exact .inr ⟨_, rfl, rfl, rfl, counter_of_counters (by rw [frame]; rfl) _⟩

end

/-! ### Services that may not begin (R197, R208) -/

/-- R197, R208: no service may begin: the load is in progress, a request is in service, four replies are queued, or no
request is. -/
def State.waits (s : State) : Prop :=
  s.loader.result = .inProgress ∨ s.link.inService ≠ none ∨ 4 ≤ s.link.replies.length ∨ s.link.requests = []

/-- R197: a command that serves changes nothing when no service may begin, or when it does not take the head request. -/
theorem serveHead_of_waits {takes : LinkFrame → Bool} {s : State} (rule : List Byte → State → Served)
    (h : s.waits ∨ ∀ r rest, s.link.requests = r :: rest → takes r = false) : serveHead takes rule s = s := by
  unfold serveHead
  cases hq : s.link.requests with
  | nil => rfl
  | cons r rest =>
    refine if_neg fun begins => ?_
    simp only [mayServe, Bool.and_eq_true, decide_eq_true_eq, Option.isNone_iff_eq_none] at begins
    obtain ⟨⟨⟨loaded, idle⟩, room⟩, taken⟩ := begins
    rcases h with (loading | busy | full | empty) | other
    · exact loaded loading
    · exact busy idle
    · exact absurd room (Nat.not_lt.2 full)
    · cases hq.symm.trans empty
    · rw [other r rest hq] at taken; cases taken

theorem knownKind_code (k : HostKind) : knownKind k.code = true := by cases k <;> rfl

/-! ### The 32 commands that serve -/

/-- R197: the command of a kind serves head requests of that kind, by a reader of its body and a rule, with one
reply to each. -/
structure ServesBy {α : Type} (k : HostKind) (read : List Byte → Option α) (rule : α → State → Served) : Prop where
  exec_eq : ∀ s : State, s.resetAsserted = false → exec k.command s = .next (k.ends s (serve k read rule s))
  replied : ∀ (r : LinkFrame) (rest : List LinkFrame) (s : State), s.ready k r rest →
    RepliedOnce k r rest s (serve k read rule s)

section
variable {α : Type} {k : HostKind} {read : List Byte → Option α} {rule : α → State → Served}

/-- A kind whose service is followed by the arbiter's decision. -/
theorem ServesBy.of_act (hd : k.decides = true) (he : ∀ s, exec k.command s = act (serve k read rule) s)
    (decided : ∀ x u, Decided u (rule x u)) (hc : k ≠ .clearCounters) : ServesBy k read rule where
  exec_eq s h := by rw [he, act_of_released h, HostKind.ends, if_pos hd]
  replied _ _ _ h := serve_repliedOnce h (by rintro rfl; cases hd) hc decided

/-- A kind whose service is not. -/
theorem ServesBy.of_actUndecided (hd : k.decides = false) (he : ∀ s, exec k.command s = actUndecided (serve k read rule) s)
    (decided : ∀ x u, Decided u (rule x u)) (hk : k ≠ .restart) : ServesBy k read rule where
  exec_eq s h := by rw [he, actUndecided_of_released h, HostKind.ends, if_neg (by rw [hd]; decide)]
  replied _ _ _ h := serve_repliedOnce h hk (by rintro rfl; cases hd) decided

end

/-- R197: every kind is served by a rule of its own. -/
theorem servesBy (k : HostKind) : ∃ (α : Type) (read : List Byte → Option α) (rule : α → State → Served),
    ServesBy k read rule := by
  cases k with
  | list => exact ⟨_, _, _, .of_act rfl (fun _ => rfl) listRule_decided nofun⟩
  | delist => exact ⟨_, _, _, .of_act rfl (fun _ => rfl) delistRule_decided nofun⟩
  | trade => exact ⟨_, _, _, .of_act rfl (fun _ => rfl) tradeRule_decided nofun⟩
  | quote => exact ⟨_, _, _, .of_act rfl (fun _ => rfl) quoteRule_decided nofun⟩
  | closeSet => exact ⟨_, _, _, .of_act rfl (fun _ => rfl) closeSetRule_decided nofun⟩
  | halt => exact ⟨_, _, _, .of_act rfl (fun _ => rfl) haltRule_decided nofun⟩
  | resume => exact ⟨_, _, _, .of_act rfl (fun _ => rfl) resumeRule_decided nofun⟩
  | sessionSet => exact ⟨_, _, _, .of_act rfl (fun _ => rfl) sessionSetRule_decided nofun⟩
  | timeSet => exact ⟨_, _, _, .of_act rfl (fun _ => rfl) timeSetRule_decided nofun⟩
  | schedSet => exact ⟨_, _, _, .of_act rfl (fun _ => rfl) schedSetRule_decided nofun⟩
  | bind => exact ⟨_, _, _, .of_act rfl (fun _ => rfl) bindRule_decided nofun⟩
  | unbind => exact ⟨_, _, _, .of_act rfl (fun _ => rfl) unbindRule_decided nofun⟩
  | hold => exact ⟨_, _, _, .of_act rfl (fun _ => rfl) holdRule_decided nofun⟩
  | release => exact ⟨_, _, _, .of_act rfl (fun _ => rfl) releaseRule_decided nofun⟩
  | lineSet => exact ⟨_, _, _, .of_act rfl (fun _ => rfl) lineSetRule_decided nofun⟩
  | lineWake => exact ⟨_, _, _, .of_act rfl (fun _ => rfl) lineWakeRule_decided nofun⟩
  | boardSet => exact ⟨_, _, _, .of_act rfl (fun _ => rfl) boardSetRule_decided nofun⟩
  | ribbonSet => exact ⟨_, _, _, .of_act rfl (fun _ => rfl) ribbonSetRule_decided nofun⟩
  | formatSet => exact ⟨_, _, _, .of_act rfl (fun _ => rfl) formatSetRule_decided nofun⟩
  | termAdmit => exact ⟨_, _, _, .of_act rfl (fun _ => rfl) termAdmitRule_decided nofun⟩
  | termRetire => exact ⟨_, _, _, .of_act rfl (fun _ => rfl) termRetireRule_decided nofun⟩
  | tlineSet => exact ⟨_, _, _, .of_act rfl (fun _ => rfl) tlineSetRule_decided nofun⟩
  | windowSet => exact ⟨_, _, _, .of_act rfl (fun _ => rfl) windowSetRule_decided nofun⟩
  | referAnswer => exact ⟨_, _, _, .of_act rfl (fun _ => rfl) referAnswerRule_decided nofun⟩
  | askStatus => exact ⟨_, _, _, .of_actUndecided rfl (fun _ => rfl) askStatusRule_decided nofun⟩
  | askInstrument => exact ⟨_, _, _, .of_act rfl (fun _ => rfl) askInstrumentRule_decided nofun⟩
  | askCell => exact ⟨_, _, _, .of_actUndecided rfl (fun _ => rfl) askCellRule_decided nofun⟩
  | askTerminal => exact ⟨_, _, _, .of_actUndecided rfl (fun _ => rfl) askTerminalRule_decided nofun⟩
  | askRibbon => exact ⟨_, _, _, .of_actUndecided rfl (fun _ => rfl) askRibbonRule_decided nofun⟩
  | askCounters =>
    exact ⟨_, _, _, .of_actUndecided (rule := askCountersRule) rfl (fun _ => rfl) (fun _ u => .reply _ (.refl u)) nofun⟩
  | clearCounters => exact ⟨_, _, _, fun _ h => act_of_released h _, fun _ _ _ => serve_clearCounters_repliedOnce⟩
  | restart => exact ⟨_, _, _, fun _ h => actUndecided_of_released h _, fun _ _ _ => serve_restart_repliedOnce⟩

/-- Settles O14: each kind by its own rule (`servesBy`), and what a command does when no service may begin
(`serveHead_of_waits`). -/
theorem everyServiceGivesOneReply : Obligations.EveryServiceGivesOneReply := by
  refine ⟨fun k r rest s h => ?_, fun s hs => ?_⟩
  · obtain ⟨α, read, rule, serves⟩ := servesBy k
    exact ⟨_, serves.exec_eq s h.1, serves.replied r rest s h⟩
  intro waits
  refine ⟨fun k idle => ?_, fun idle => ?_⟩
  · obtain ⟨α, read, rule, serves⟩ := servesBy k
    have stands : serve k read rule s = s :=
      serveHead_of_waits _ (idle.imp id fun other r rest hq => decide_eq_false (other r rest hq))
    rw [serves.exec_eq s hs, stands]
  · have stands : serveUnknown s = s := serveHead_of_waits _ (idle.imp id fun known r rest hq => by
      obtain ⟨k, hk⟩ := known r rest hq
      rw [hk, knownKind_code]
      rfl)
    exact (act_of_released hs serveUnknown).trans (by rw [stands])

end Sys2Proof.Machine
end

section
/-! Proofs: the canonical form of the tables (section 0.2) and the waiting commands, carried over each named write of the
state. -/

namespace Sys2Proof.Machine

/-! ### What it is to keep them -/

/-- A terminal's alerts have the canonical form. -/
def Terminal.alertsWf (t : Terminal) : Prop := Table.wf Alert.cold t.alerts = true

/-- `State.tablesWf`, with a name for each table. -/
structure State.TablesCanonical (s : State) : Prop where
  entries : Table.wf Entry.cold s.entries = true
  sched : Table.wf SchedEntry.cold s.sched = true
  cells : Table.wf Cell.cold s.cells = true
  queues : Table.wf [] s.queues = true
  lines : Table.wf BoardLine.cold s.lines = true
  slots : Table.wf SlotState.cold s.slots = true
  displays : Table.wf Display.unknown s.displays = true
  tlines : Table.wf TermLine.cold s.tlines = true
  terms : Table.wf Terminal.cold s.terms = true
  windows : Table.wf Window.cold s.windows = true
  counters : Table.wf 0 s.counters = true
  alerts : ∀ n, (s.term n).alertsWf

theorem State.tablesWf_iff (s : State) : s.tablesWf ↔ s.TablesCanonical :=
  ⟨fun ⟨entries, sched, cells, queues, lines, slots, displays, tlines, terms, windows, counters, alerts⟩ =>
      ⟨entries, sched, cells, queues, lines, slots, displays, tlines, terms, windows, counters, alerts⟩,
    fun ⟨entries, sched, cells, queues, lines, slots, displays, tlines, terms, windows, counters, alerts⟩ =>
      ⟨entries, sched, cells, queues, lines, slots, displays, tlines, terms, windows, counters, alerts⟩⟩

/-- The waiting commands stand, and the canonical form of the tables carries over. -/
structure CanonKept (s t : State) : Prop where
  pending : t.pending = s.pending
  tables : s.TablesCanonical → t.TablesCanonical

theorem CanonKept.refl {s : State} : CanonKept s s := ⟨rfl, id⟩

section
variable {s₀ s t : State}

/-- A change of no table. -/
theorem CanonKept.frame (h : CanonKept s₀ s) (e : t = { s with
      free := t.free, resetAsserted := t.resetAsserted, link := t.link, loader := t.loader, directory := t.directory
      dayNumber := t.dayNumber, walkActive := t.walkActive, walkPos := t.walkPos, clock := t.clock, session := t.session
      fu := t.fu, flashPeriod := t.flashPeriod, ribbonA := t.ribbonA, ribbonB := t.ribbonB }) : CanonKept s₀ t := by
  rw [e]
  exact ⟨h.pending, fun g => { h.tables g with }⟩

theorem canon_ite {p : Prop} [Decidable p] (ht : CanonKept s₀ s) (hu : CanonKept s₀ t) :
    CanonKept s₀ (if p then s else t) := by
  split_ifs
  · exact ht
  · exact hu

theorem canon_forEach {α : Type} {l : List α} {f : α → State → State} (h : CanonKept s₀ s)
    (hf : ∀ {a s}, CanonKept s₀ s → CanonKept s₀ (f a s)) : CanonKept s₀ (forEach l f s) :=
  forEach_keeps (P := CanonKept s₀) l (fun _ _ => hf) h

/-! ### Writes of the parts that are no tables -/

theorem canon_setFree {n : Nat} (h : CanonKept s₀ s) : CanonKept s₀ (s.setFree n) := h.frame rfl
theorem canon_setLink {l : Link} (h : CanonKept s₀ s) : CanonKept s₀ (s.setLink l) := h.frame rfl
theorem canon_setLoader {l : Loader} (h : CanonKept s₀ s) : CanonKept s₀ (s.setLoader l) := h.frame rfl
theorem canon_setDirectory {d : List (Text × Nat)} (h : CanonKept s₀ s) : CanonKept s₀ (s.setDirectory d) := h.frame rfl
theorem canon_setDayNumber {n : Nat} (h : CanonKept s₀ s) : CanonKept s₀ (s.setDayNumber n) := h.frame rfl
theorem canon_setWalk {a : Bool} {n : Nat} (h : CanonKept s₀ s) : CanonKept s₀ (s.setWalk a n) := h.frame rfl
theorem canon_setClock {c : Clock} (h : CanonKept s₀ s) : CanonKept s₀ (s.setClock c) := h.frame rfl
theorem canon_setSession {x : Session} (h : CanonKept s₀ s) : CanonKept s₀ (s.setSession x) := h.frame rfl
theorem canon_setFU {f : FormatUnit} (h : CanonKept s₀ s) : CanonKept s₀ (s.setFU f) := h.frame rfl
theorem canon_setFlashPeriod {n : Nat} (h : CanonKept s₀ s) : CanonKept s₀ (s.setFlashPeriod n) := h.frame rfl

theorem canon_setRibbon {rid : RibbonId} {r : Ribbon} (h : CanonKept s₀ s) : CanonKept s₀ (s.setRibbon rid r) := by
  cases rid <;> exact h.frame rfl

theorem canon_raise {n : NoticeItem} (h : CanonKept s₀ s) : CanonKept s₀ (s.raise n) := canon_ite h (canon_setLink h)

/-! ### Writes of the tables -/

theorem canon_setEntry {i : Nat} {e : Entry} (h : CanonKept s₀ s) : CanonKept s₀ (s.setEntry i e) :=
  ⟨h.pending, fun g => { h.tables g with entries := Table.wf_set _ _ _ _ (h.tables g).entries }⟩

theorem canon_setSched {n : Nat} {e : SchedEntry} (h : CanonKept s₀ s) : CanonKept s₀ (s.setSched n e) :=
  ⟨h.pending, fun g => { h.tables g with sched := Table.wf_set _ _ _ _ (h.tables g).sched }⟩

theorem canon_setCell {c : Nat} {r : Cell} (h : CanonKept s₀ s) : CanonKept s₀ (s.setCell c r) :=
  ⟨h.pending, fun g => { h.tables g with cells := Table.wf_set _ _ _ _ (h.tables g).cells }⟩

theorem canon_setQueue {n : Nat} {q : List Nat} (h : CanonKept s₀ s) : CanonKept s₀ (s.setQueue n q) :=
  ⟨h.pending, fun g => { h.tables g with queues := Table.wf_set _ _ _ _ (h.tables g).queues }⟩

theorem canon_setLine {n : Nat} {l : BoardLine} (h : CanonKept s₀ s) : CanonKept s₀ (s.setLine n l) :=
  ⟨h.pending, fun g => { h.tables g with lines := Table.wf_set _ _ _ _ (h.tables g).lines }⟩

theorem canon_setSlot {c : Nat} {r : SlotState} (h : CanonKept s₀ s) : CanonKept s₀ (s.setSlot c r) :=
  ⟨h.pending, fun g => { h.tables g with slots := Table.wf_set _ _ _ _ (h.tables g).slots }⟩

theorem canon_setDisplay {n a : Nat} {d : Display} (h : CanonKept s₀ s) : CanonKept s₀ (s.setDisplay n a d) :=
  ⟨h.pending, fun g => { h.tables g with displays := Table.wf_set _ _ _ _ (h.tables g).displays }⟩

theorem canon_setTLine {n : Nat} {l : TermLine} (h : CanonKept s₀ s) : CanonKept s₀ (s.setTLine n l) :=
  ⟨h.pending, fun g => { h.tables g with tlines := Table.wf_set _ _ _ _ (h.tables g).tlines }⟩

/-- The alerts of the terminal written have the form when those of the terminal it replaces have. -/
theorem canon_setTerm {n : Nat} {r : Terminal} (h : CanonKept s₀ s) (ha : (s.term n).alertsWf → r.alertsWf) :
    CanonKept s₀ (s.setTerm n r) := by
  refine ⟨h.pending, fun g₀ => ?_⟩
  have g := h.tables g₀
  exact { g with
    terms := Table.wf_set _ _ _ _ g.terms
    alerts := Table.forall_get_set (P := fun _ (t : Terminal) => t.alertsWf) (ha (g.alerts n)) g.alerts }

theorem canon_setWindow {n : Nat} {w : Window} (h : CanonKept s₀ s) : CanonKept s₀ (s.setWindow n w) :=
  ⟨h.pending, fun g => { h.tables g with windows := Table.wf_set _ _ _ _ (h.tables g).windows }⟩

theorem canon_advance {c : Counter} {n : Nat} (h : CanonKept s₀ s) : CanonKept s₀ (s.advance c n) :=
  ⟨h.pending, fun g => { h.tables g with counters := Table.wf_set _ _ _ _ (h.tables g).counters }⟩

theorem canon_count {c : Counter} (h : CanonKept s₀ s) : CanonKept s₀ (s.count c) := canon_advance h

theorem canon_clearCounters (h : CanonKept s₀ s) : CanonKept s₀ s.clearCounters :=
  ⟨h.pending, fun g => { h.tables g with counters := Table.wf_nil 0 }⟩

end

/-! ### Alerts of a terminal (R174, R175) -/

section
variable {t : Terminal}

theorem alertsWf_setAlert {n : Nat} {a : Alert} (h : t.alertsWf) : (t.setAlert n a).alertsWf := Table.wf_set _ _ _ _ h

theorem alertsWf_ite {p : Prop} [Decidable p] {u : Terminal} (ht : t.alertsWf) (hu : u.alertsWf) :
    (if p then t else u).alertsWf := by
  split_ifs
  · exact ht
  · exact hu

/-- A change of each of several alerts. -/
theorem alertsWf_foldl {f : Terminal → Nat → Terminal} (l : List Nat) (h : t.alertsWf)
    (hf : ∀ {t n}, t.alertsWf → (f t n).alertsWf) : (l.foldl f t).alertsWf :=
  List.foldlRecOn l f (motive := Terminal.alertsWf) h fun _ ht _ _ => hf ht

theorem alertsWf_onTrade {i price size second : Nat} (h : t.alertsWf) : (t.onTrade i price size second).alertsWf :=
  alertsWf_foldl _ h alertsWf_setAlert

theorem alertsWf_dropAlerts {i : Nat} (h : t.alertsWf) : (t.dropAlerts i).alertsWf :=
  alertsWf_foldl _ h fun h => alertsWf_ite (alertsWf_setAlert h) h

theorem alertsWf_restarted (h : t.alertsWf) : t.restarted.alertsWf := by
  unfold Terminal.restarted Terminal.alertsWf
  dsimp only
  exact alertsWf_foldl _ h alertsWf_setAlert

theorem alertsWf_markInstrument {i : Nat} (h : t.alertsWf) : (t.markInstrument i).alertsWf := by
  rcases t.markInstrument_cases i with ⟨e, -⟩ | ⟨k, -, -, -, e⟩ <;> rw [e] <;> exact h

theorem alertsWf_dropInstrument {i : Nat} (h : t.alertsWf) : (t.dropInstrument i).alertsWf := by
  unfold Terminal.dropInstrument
  split <;> exact h

theorem alertsWf_tickLapse {lapseTime : Nat} (h : t.alertsWf) : (t.tickLapse lapseTime).alertsWf :=
  alertsWf_ite (alertsWf_ite h h) h

theorem alertsWf_takeRequest {q : DealerRequest} (h : t.alertsWf) : (t.takeRequest q).alertsWf := alertsWf_ite h h

/-- R154: a discarded BELL block writes the alert it was of. -/
theorem alertsWf_discard {b : Block} (h : t.alertsWf) : (t.discard b).alertsWf := by
  cases b with
  | reply r => exact alertsWf_ite h h
  | bell r => exact alertsWf_ite (alertsWf_setAlert h) h
  | page | status | idle | rows => exact h

/-- R153: a delivered BELL block writes the alert it was of. -/
theorem alertsWf_delivered {b : Block} (h : t.alertsWf) : (t.delivered b).alertsWf := by
  cases b with
  | reply r => exact h
  | bell r => exact alertsWf_ite (alertsWf_setAlert h) h
  | page | status | idle | rows => exact h

end

end Sys2Proof.Machine
end

section
/-! Proofs: the shared operations, a format job's start and the arbiter's decision keep the canonical form of the tables (R27 to
R30, R39, R61 to R69, R79 to R81, R115 to R124, R126 to R133, R152, R159 to R162, R173 to R176). -/

namespace Sys2Proof.Machine

variable {s₀ s : State} {i n line : Nat} {rid : RibbonId}

/-! ### Ribbons (R115 to R124, R132) -/

theorem canon_evalMode (h : CanonKept s₀ s) : CanonKept s₀ (evalMode rid s) := by
  rcases evalMode_cases rid s with ⟨-, -, e⟩ | ⟨m, -, e⟩ | ⟨m, -, -, e⟩ <;> rw [e]
  · exact h
  · exact canon_raise (canon_count (canon_setRibbon h))
  · exact canon_raise (canon_setRibbon h)

theorem canon_joinQueue {q : List PrintRecord} {rec : PrintRecord} (h : CanonKept s₀ s) :
    CanonKept s₀ (joinQueue rid q rec s) := canon_evalMode (canon_setRibbon h)

theorem canon_offerPrint {body : PrintBody} {arrival : Nat} (h : CanonKept s₀ s) :
    CanonKept s₀ (offerPrint rid body arrival s) := by
  rcases offerPrint_cases rid body arrival s with ⟨-, e⟩ | ⟨-, -, e⟩ | ⟨q, -, -, -, e⟩ | ⟨-, -, -, e⟩ <;> rw [e]
  · exact h
  · exact canon_joinQueue h
  · exact canon_joinQueue (canon_count h)
  · exact canon_count h

theorem canon_offerToClass {cls : Nat} {body : PrintBody} {arrival : Nat} (h : CanonKept s₀ s) :
    CanonKept s₀ (offerToClass cls body arrival s) :=
  canon_forEach h fun h => canon_ite (canon_offerPrint h) h

theorem canon_stopTest (h : CanonKept s₀ s) : CanonKept s₀ (stopTest rid s) := canon_ite (canon_setRibbon h) h

theorem canon_periodStart (h : CanonKept s₀ s) : CanonKept s₀ (periodStart rid s) := by
  unfold periodStart
  dsimp only
  split
  · exact canon_setRibbon h
  · exact canon_ite (canon_setRibbon h) (canon_count (canon_setRibbon h))

theorem canon_startRibbon (h : CanonKept s₀ s) : CanonKept s₀ (startRibbon rid s) := canon_periodStart (canon_setRibbon h)

/-! ### Offers of cells, rows and alerts, and the roll (R27 to R30, R39, R79 to R81, R160, R175) -/

theorem canon_offerCell {forced : Bool} {c : Nat} (h : CanonKept s₀ s) : CanonKept s₀ (offerCell forced c s) :=
  canon_ite h (canon_ite (canon_setQueue h) h)

theorem canon_fanCells (h : CanonKept s₀ s) : CanonKept s₀ (fanCells i s) := canon_forEach h canon_offerCell

theorem canon_fanTradeCells (h : CanonKept s₀ s) : CanonKept s₀ (fanTradeCells i s) :=
  canon_forEach h fun h => canon_offerCell (canon_setCell h)

theorem canon_fanRows (h : CanonKept s₀ s) : CanonKept s₀ (fanRows i s) :=
  canon_ite h (canon_forEach h fun h => canon_setTerm h alertsWf_markInstrument)

theorem canon_fanAlerts {price size : Nat} (h : CanonKept s₀ s) : CanonKept s₀ (fanAlerts i price size s) :=
  canon_forEach h fun h => canon_setTerm h alertsWf_onTrade

theorem canon_fanCellsAndRows (h : CanonKept s₀ s) : CanonKept s₀ (fanCellsAndRows i s) := canon_fanRows (canon_fanCells h)

theorem canon_touch (h : CanonKept s₀ s) : CanonKept s₀ (touch i s) :=
  canon_ite (canon_fanCellsAndRows (canon_setEntry h)) h

theorem canon_touchAll {l : List (Option Nat)} (h : CanonKept s₀ s) : CanonKept s₀ (touchAll l s) := by
  refine canon_forEach h fun {o s} h => ?_
  cases o with
  | none => exact h
  | some i => exact canon_touch h

theorem canon_touchBinding {r : Cell} (h : CanonKept s₀ s) : CanonKept s₀ (touchBinding r s) := by
  unfold touchBinding
  cases r.binding with
  | none => exact h
  | some i => exact canon_touch h

/-! ### The start of a job (R66 to R69, R152) -/

theorem canon_startBoardJob (h : CanonKept s₀ s) : CanonKept s₀ (startBoardJob line s) := by
  unfold startBoardJob
  split
  · exact h
  · exact canon_setFU (canon_advance (canon_advance (canon_setCell (canon_touchBinding
      (canon_setCell (canon_setQueue h))))))

theorem canon_startRibbonJob (h : CanonKept s₀ s) : CanonKept s₀ (startRibbonJob rid s) := by
  unfold startRibbonJob
  dsimp only
  split
  · exact h
  · next rec rest _ =>
    have evaluated : CanonKept s₀ (evalMode rid ((s.setRibbon rid { s.ribbon rid with queue := rest }).advance .rbSkipped
        (takeRecord (s.ribbon rid)).1)) := canon_evalMode (canon_advance (canon_setRibbon h))
    exact canon_setFU (canon_ite (canon_setRibbon evaluated) evaluated)

/-- R176: a BELL block sets the mark of the alert it is of. -/
theorem canon_compose {c : BlockChoice} (h : CanonKept s₀ s) : CanonKept s₀ (compose n c s).2 := by
  cases c with
  | reply => exact canon_touchAll (canon_setTerm h id)
  | bell slot => exact canon_touchAll (canon_setTerm h alertsWf_setAlert)
  | page => exact canon_touchAll (canon_setTerm h id)
  | status => exact canon_setTerm h id
  | idle => exact canon_setTerm h id
  | rows => exact canon_touchAll (canon_setTerm h id)

theorem canon_startTerminalJob (h : CanonKept s₀ s) : CanonKept s₀ (startTerminalJob line s) := by
  unfold startTerminalJob
  split
  · exact h
  · split
    · exact h
    · exact canon_setFU (canon_compose (canon_setTLine h))

/-! ### The arbiter's decision (R61 to R65, R72, R199) -/

section
variable {p : Nat}

theorem canon_startJob (h : CanonKept s₀ s) : CanonKept s₀ (startJob p s) :=
  canon_ite (canon_startBoardJob h) (canon_ite (canon_startRibbonJob h) (canon_ite (canon_startRibbonJob h)
    (canon_startTerminalJob h)))

theorem canon_grantUrgent (h : CanonKept s₀ s) : CanonKept s₀ (grantUrgent p s) :=
  canon_ite (canon_startJob (canon_setFU h)) (canon_startJob (canon_count (canon_setFU h)))

theorem canon_grantRun (h : CanonKept s₀ s) : CanonKept s₀ (grantRun p s) := canon_startJob (canon_setFU h)

theorem canon_grantRound (h : CanonKept s₀ s) : CanonKept s₀ (grantRound p s) := canon_startJob (canon_setFU h)

theorem canon_goIdle (h : CanonKept s₀ s) : CanonKept s₀ (goIdle s) := canon_setFU h

theorem canon_arbitrate (h : CanonKept s₀ s) : CanonKept s₀ (arbitrate s) := by
  refine canon_ite (canon_grantUrgent h) (canon_ite (canon_grantUrgent h) ?_)
  split
  · exact canon_grantRun h
  · split
    · exact canon_grantRound h
    · exact canon_goIdle h

theorem canon_grantIdle (h : CanonKept s₀ s) : CanonKept s₀ (grantIdle p s) :=
  canon_ite (canon_grantUrgent h) (canon_grantRound h)

theorem canon_settle {before : State} (h : CanonKept s₀ s) : CanonKept s₀ (settle before s) := by
  rcases settle_cases before s with
    ⟨-, e⟩ | ⟨-, -, e⟩ | ⟨-, -, -, e⟩ | ⟨p, -, -, -, e⟩ | ⟨p, -, -, -, -, e⟩ <;> rw [e]
  · exact h
  · exact canon_arbitrate h
  · exact canon_goIdle h
  · exact canon_grantIdle h
  · exact canon_grantIdle (canon_setFree h)

theorem canon_noteTogether {before : State} (h : CanonKept s₀ s) : CanonKept s₀ (noteTogether before s) := canon_setLink h

theorem canon_finish {before : State} (h : CanonKept s₀ s) : CanonKept s₀ (finish before s) :=
  canon_noteTogether (canon_settle h)

end

end Sys2Proof.Machine
end

section
/-! Proofs: the rules of the Cell Table, of the feed, of the terminals and of the referral windows keep the canonical form of the
tables (R32 to R43, R74 to R78, R138 to R156, R163 to R185). -/

namespace Sys2Proof.Machine

variable {s₀ s : State} {c i n line addr : Nat}

/-- A check of a rule, with what each outcome leaves. -/
theorem canon_iteServed {p : Prop} [Decidable p] {x y : Served} (hx : CanonKept s₀ x.state) (hy : CanonKept s₀ y.state) :
    CanonKept s₀ (if p then x else y).state := by
  split_ifs
  · exact hx
  · exact hy

/-- The effect of a request that is DONE. -/
theorem canon_done (h : CanonKept s₀ s) : CanonKept s₀ (Served.done s).state := h

/-! ### Cells (R74 to R78, R89) -/

theorem canon_joinList (h : CanonKept s₀ s) : CanonKept s₀ (joinList i c s) := canon_setEntry h

theorem canon_leaveBound (h : CanonKept s₀ s) : CanonKept s₀ (leaveBound c s) := by
  unfold leaveBound
  split
  · exact canon_setEntry h
  · exact h

theorem canon_unbindRecord (h : CanonKept s₀ s) : CanonKept s₀ (unbindRecord c s) := canon_setCell h

theorem canon_bindCell {f : Field} {w : Nat} (h : CanonKept s₀ s) : CanonKept s₀ (bindCell c i f w s) :=
  canon_offerCell (canon_setCell (canon_ite h (canon_joinList (canon_leaveBound h))))

theorem canon_bindRule {b : BindBody} (h : CanonKept s₀ s) : CanonKept s₀ (bindRule b s).state := by
  refine canon_iteServed h (canon_iteServed h (canon_iteServed h ?_))
  split
  · exact canon_done (canon_bindCell h)
  · exact h

theorem canon_unbindRule {b : Nat × Nat} (h : CanonKept s₀ s) : CanonKept s₀ (unbindRule b s).state :=
  canon_iteServed h (canon_iteServed h (canon_done (canon_offerCell (canon_unbindRecord (canon_leaveBound h)))))

theorem canon_holdRule {b : HoldBody} (h : CanonKept s₀ s) : CanonKept s₀ (holdRule b s).state := by
  refine canon_iteServed h ?_
  split
  · exact h
  · exact canon_done (canon_offerCell (canon_setCell h))

theorem canon_releaseRule {b : Nat × Nat} (h : CanonKept s₀ s) : CanonKept s₀ (releaseRule b s).state :=
  canon_iteServed h (canon_iteServed h (canon_done (canon_offerCell (canon_setCell h))))

theorem canon_boardSetRule (h : CanonKept s₀ s) : CanonKept s₀ (boardSetRule n s).state :=
  canon_iteServed h (canon_done (canon_setFlashPeriod h))

/-! ### The feed (R32 to R43) -/

theorem canon_listRule {b : ListBody} (h : CanonKept s₀ s) : CanonKept s₀ (listRule b s).state :=
  canon_iteServed h (canon_iteServed h (canon_iteServed h (canon_iteServed h
    (canon_done (canon_fanCells (canon_setDirectory (canon_setEntry h)))))))

theorem canon_tradeInstrument {p z : Nat} {moved clamped : Bool} (h : CanonKept s₀ s) :
    CanonKept s₀ (tradeInstrument i p z moved clamped s) :=
  canon_setEntry (canon_fanAlerts (canon_fanRows (canon_offerToClass (canon_fanTradeCells
    (canon_advance (canon_advance (canon_count (canon_setEntry (canon_touch h)))))))))

theorem canon_tradeRule {b : TradeBody} (h : CanonKept s₀ s) : CanonKept s₀ (tradeRule b s).state := by
  refine canon_iteServed h (canon_iteServed h (canon_iteServed h (canon_iteServed h ?_)))
  split
  · exact canon_done (canon_tradeInstrument h)
  · exact h

theorem canon_quoteInstrument {bid ask : CheckedSide} (h : CanonKept s₀ s) :
    CanonKept s₀ (quoteInstrument i bid ask s) :=
  canon_fanRows (canon_advance (canon_advance (canon_setEntry (canon_touch h))))

theorem canon_quoteRule {b : QuoteBody} (h : CanonKept s₀ s) : CanonKept s₀ (quoteRule b s).state := by
  refine canon_iteServed h (canon_iteServed h ?_)
  split
  · exact canon_done (canon_quoteInstrument h)
  · exact h

theorem canon_setClose {close : Option Nat} {moved : Bool} (h : CanonKept s₀ s) :
    CanonKept s₀ (setClose i close moved s) :=
  canon_fanCellsAndRows (canon_advance (canon_setEntry (canon_touch h)))

theorem canon_closeSetRule {b : Nat × Option Nat} (h : CanonKept s₀ s) : CanonKept s₀ (closeSetRule b s).state := by
  refine canon_iteServed h (canon_iteServed h ?_)
  split
  · exact canon_done (canon_setClose h)
  · exact h

theorem canon_changeStatus {x : EntryStatus} {print : Text → PrintBody} (h : CanonKept s₀ s) :
    CanonKept s₀ (changeStatus i x print s) :=
  canon_offerToClass (canon_fanCellsAndRows (canon_setEntry (canon_touch h)))

theorem canon_haltRule (h : CanonKept s₀ s) : CanonKept s₀ (haltRule i s).state :=
  canon_iteServed h (canon_iteServed h (canon_done (canon_changeStatus h)))

theorem canon_resumeRule (h : CanonKept s₀ s) : CanonKept s₀ (resumeRule i s).state :=
  canon_iteServed h (canon_iteServed h (canon_done (canon_changeStatus h)))

theorem canon_dropFromTerminals (h : CanonKept s₀ s) : CanonKept s₀ (dropFromTerminals i s) :=
  canon_forEach h fun h => canon_setTerm h fun ha => alertsWf_dropAlerts (alertsWf_dropInstrument ha)

theorem canon_delistInstrument (h : CanonKept s₀ s) : CanonKept s₀ (delistInstrument i s) :=
  canon_setDirectory (canon_setEntry (canon_forEach (canon_dropFromTerminals h) fun h =>
    canon_offerCell (canon_unbindRecord h)))

theorem canon_delistRule (h : CanonKept s₀ s) : CanonKept s₀ (delistRule i s).state :=
  canon_iteServed h (canon_iteServed h (canon_iteServed h (canon_done (canon_delistInstrument h))))

/-! ### Rounds (R142, R143) -/

theorem canon_beginRound (h : CanonKept s₀ s) : CanonKept s₀ (beginRound line s) := canon_setTLine h

theorem canon_endRound (h : CanonKept s₀ s) : CanonKept s₀ (endRound line s) := canon_setTLine h

theorem canon_startRounds {fuel : Nat} (h : CanonKept s₀ s) : CanonKept s₀ (startRounds line fuel s) := by
  induction fuel generalizing s with
  | zero => exact h
  | succ fuel ih =>
    have ended : CanonKept s₀ (endRound line (beginRound line s)) := canon_endRound (canon_beginRound h)
    exact canon_ite (canon_ite (ih ended) ended) (canon_beginRound h)

theorem canon_startRound (h : CanonKept s₀ s) : CanonKept s₀ (startRound line s) := canon_startRounds h

theorem canon_finishRound (h : CanonKept s₀ s) : CanonKept s₀ (finishRound line s) :=
  canon_ite (canon_startRound (canon_endRound h)) (canon_endRound h)

theorem canon_endRoundIfDone (h : CanonKept s₀ s) : CanonKept s₀ (endRoundIfDone line s) :=
  canon_ite (canon_finishRound h) h

theorem canon_startRoundIfIdle (h : CanonKept s₀ s) : CanonKept s₀ (startRoundIfIdle line s) :=
  canon_ite (canon_startRound h) h

theorem canon_tickQuiet (h : CanonKept s₀ s) : CanonKept s₀ (tickQuiet line s) :=
  canon_ite h (canon_ite (canon_startRoundIfIdle (canon_setTLine h)) (canon_setTLine h))

theorem canon_roundStart (h : CanonKept s₀ s) : CanonKept s₀ (roundStart line s) :=
  canon_ite (canon_startRoundIfIdle h) h

theorem canon_raiseAttention (h : CanonKept s₀ s) : CanonKept s₀ (raiseAttention line s) :=
  canon_ite (canon_startRoundIfIdle (canon_setTLine h)) (canon_setTLine h)

theorem canon_slotStart (h : CanonKept s₀ s) : CanonKept s₀ (slotStart line s) := by
  unfold slotStart
  split
  · split
    · exact canon_setTLine (canon_setTerm h id)
    · exact canon_finishRound h
  · exact h

/-! ### Terminals and the slots of windows (R146, R149 to R151, R154, R183) -/

theorem canon_giveResult {res : DealerResult} (h : CanonKept s₀ s) : CanonKept s₀ (giveResult n res s) := canon_setTerm h id

theorem canon_giveCode {code : ReplyCode} (h : CanonKept s₀ s) : CanonKept s₀ (giveCode n code s) := canon_giveResult h

theorem canon_tickLapse (h : CanonKept s₀ s) : CanonKept s₀ (tickLapse n s) := canon_setTerm h alertsWf_tickLapse

theorem canon_markFate {fate : JobFate} (h : CanonKept s₀ s) : CanonKept s₀ (markFate fate line addr s) := canon_setFU h

theorem canon_goSilent (h : CanonKept s₀ s) : CanonKept s₀ (goSilent line addr s) := by
  refine canon_count (canon_raise (canon_markFate (canon_setTerm h fun ha => ?_)))
  change Terminal.alertsWf (match (s.term (termNo line addr)).outBlock with
    | some b => (s.term (termNo line addr)).discard b
    | none => s.term (termNo line addr))
  split
  · exact alertsWf_discard ha
  · exact ha

theorem canon_emptySlot {outcome : ReferralOutcome} (h : CanonKept s₀ s) : CanonKept s₀ (emptySlot n outcome s) :=
  canon_setWindow h

theorem canon_expireHeld {held : HeldSlot} (h : CanonKept s₀ s) : CanonKept s₀ (expireHeld n held s) :=
  canon_raise (canon_giveResult (canon_count (canon_emptySlot h)))

theorem canon_tickReferral (h : CanonKept s₀ s) : CanonKept s₀ (tickReferral n s) := by
  unfold tickReferral
  split
  · exact h
  · exact canon_ite (canon_expireHeld h) (canon_setWindow h)

theorem canon_oweStatus (h : CanonKept s₀ s) : CanonKept s₀ (oweStatus s) :=
  canon_forEach h fun h => canon_ite (canon_setTerm h id) h

/-! ### TERM-ADMIT, TERM-RETIRE and TLINE-SET (R138 to R141, R187) -/

theorem canon_termAdmitRule {b : Nat × Nat × Bool} (h : CanonKept s₀ s) : CanonKept s₀ (termAdmitRule b s).state := by
  have admitted : CanonKept s₀ (s.setTerm (termNo b.1 b.2.1) ((s.term (termNo b.1 b.2.1)).admitted b.2.2)) :=
    canon_setTerm h fun _ => Table.wf_nil _
  exact canon_iteServed h (canon_iteServed h (canon_done (canon_ite admitted (canon_startRoundIfIdle admitted))))

theorem canon_cancelReferral (h : CanonKept s₀ s) : CanonKept s₀ (cancelReferral line addr s) := by
  unfold cancelReferral
  split
  · exact canon_raise (canon_emptySlot h)
  · exact h

theorem canon_dropWatcher (h : CanonKept s₀ s) : CanonKept s₀ (dropWatcher i s) := canon_setEntry h

theorem canon_ignoreSlot (h : CanonKept s₀ s) : CanonKept s₀ (ignoreSlot line addr s) := by
  unfold ignoreSlot
  split
  · exact canon_ite (canon_setTLine h) h
  · exact h

theorem canon_retireTerminal (h : CanonKept s₀ s) : CanonKept s₀ (retireTerminal line addr s) :=
  canon_markFate (canon_ignoreSlot (canon_setTerm
    (canon_forEach (canon_ite (canon_cancelReferral h) h) canon_dropWatcher) fun _ => Table.wf_nil _))

theorem canon_termRetireRule {b : Nat × Nat} (h : CanonKept s₀ s) : CanonKept s₀ (termRetireRule b s).state :=
  canon_iteServed h (canon_iteServed h (canon_done (canon_retireTerminal h)))

theorem canon_tlineSetRule {b : TLineBody} (h : CanonKept s₀ s) : CanonKept s₀ (tlineSetRule b s).state := by
  unfold tlineSetRule
  split
  · exact h
  · exact canon_iteServed h (canon_iteServed (canon_done (canon_startRoundIfIdle (canon_setTLine h)))
      (canon_done (canon_setTLine h)))

/-! ### Dealer requests (R163 to R172, R180, R181) -/

theorem canon_carryPage {page : Nat} (h : CanonKept s₀ s) : CanonKept s₀ (carryPage n page s) :=
  canon_giveCode (canon_setTerm h id)

theorem canon_carryResync (h : CanonKept s₀ s) : CanonKept s₀ (carryResync n s) := canon_giveCode (canon_setTerm h id)

theorem canon_carryWatchAdd {wanted : Option Nat} (h : CanonKept s₀ s) : CanonKept s₀ (carryWatchAdd n i wanted s) :=
  canon_giveResult (canon_setEntry (canon_setTerm h id))

theorem canon_carryWatchDrop (h : CanonKept s₀ s) : CanonKept s₀ (carryWatchDrop n i s) :=
  canon_giveCode (canon_dropWatcher (canon_setTerm h alertsWf_dropInstrument))

theorem canon_carryQuote (h : CanonKept s₀ s) : CanonKept s₀ (carryQuote n i s) := canon_giveResult h

theorem canon_carryAlertSet {slot : Nat} {x : Conditions} (h : CanonKept s₀ s) :
    CanonKept s₀ (carryAlertSet n slot i x s) := canon_giveResult (canon_setTerm h alertsWf_setAlert)

theorem canon_carryAlertClear {slot : Nat} (h : CanonKept s₀ s) : CanonKept s₀ (carryAlertClear n slot s) :=
  canon_giveCode (canon_setTerm h alertsWf_setAlert)

theorem canon_checkedWatchAdd {next : State → State} (h : CanonKept s₀ s) (hn : CanonKept s₀ (next s)) :
    CanonKept s₀ (checkedWatchAdd n i next s) := by
  unfold checkedWatchAdd
  split
  · exact canon_giveCode h
  · exact hn

theorem canon_checkedAlertSet {q : DealerRequest} {next : Conditions → State → State} (h : CanonKept s₀ s)
    (hn : ∀ {x}, CanonKept s₀ (next x s)) : CanonKept s₀ (checkedAlertSet n i q next s) := by
  unfold checkedAlertSet
  split
  · exact canon_giveCode h
  · exact hn

theorem canon_holdRequest {kind : ReferralKind} (h : CanonKept s₀ s) :
    CanonKept s₀ (holdRequest n line addr kind i s) :=
  canon_raise (canon_count (canon_setTerm (canon_setWindow h) id))

theorem canon_refer {kind : ReferralKind} {carry : State → State} (h : CanonKept s₀ s) (hc : CanonKept s₀ (carry s)) :
    CanonKept s₀ (refer line addr kind i carry s) := by
  refine canon_ite hc ?_
  split
  · exact hc
  · exact canon_ite (canon_giveCode h) (canon_holdRequest h)

theorem canon_withSymbol {sym : Option Text} {next : Nat → State → State} (h : CanonKept s₀ s)
    (hn : ∀ {i s}, CanonKept s₀ s → CanonKept s₀ (next i s)) : CanonKept s₀ (withSymbol n sym next s) := by
  unfold withSymbol
  split
  · exact canon_giveCode h
  · split
    · exact canon_giveCode h
    · exact hn (canon_touch h)

theorem canon_withSlot {slot : Option Nat} {next : Nat → State → State} (h : CanonKept s₀ s)
    (hn : ∀ {k}, CanonKept s₀ (next k s)) : CanonKept s₀ (withSlot n slot next s) := by
  unfold withSlot
  split
  · exact canon_ite hn (canon_giveCode h)
  · exact canon_giveCode h

section
variable {q : DealerRequest}

theorem canon_dealPage (h : CanonKept s₀ s) : CanonKept s₀ (dealPage line addr q s) := by
  unfold dealPage
  dsimp only
  split
  · exact canon_ite (canon_carryPage h) (canon_giveCode h)
  · exact canon_giveCode h

theorem canon_dealWatchAdd (h : CanonKept s₀ s) : CanonKept s₀ (dealWatchAdd line addr q s) :=
  canon_ite (canon_giveCode h) (canon_withSymbol h fun h => canon_checkedWatchAdd h (canon_refer h (canon_carryWatchAdd h)))

theorem canon_dealWatchDrop (h : CanonKept s₀ s) : CanonKept s₀ (dealWatchDrop line addr q s) :=
  canon_withSymbol h fun h => canon_ite (canon_carryWatchDrop h) (canon_giveCode h)

theorem canon_dealQuoteAsk (h : CanonKept s₀ s) : CanonKept s₀ (dealQuoteAsk line addr q s) :=
  canon_withSymbol h fun h => canon_refer h (canon_carryQuote h)

theorem canon_dealAlertSet (h : CanonKept s₀ s) : CanonKept s₀ (dealAlertSet line addr q s) :=
  canon_ite (canon_giveCode h) (canon_withSlot h (canon_withSymbol h fun h =>
    canon_checkedAlertSet h (canon_refer h (canon_carryAlertSet h))))

theorem canon_dealAlertClear (h : CanonKept s₀ s) : CanonKept s₀ (dealAlertClear line addr q s) :=
  canon_withSlot h (canon_carryAlertClear h)

theorem canon_dealTaken (h : CanonKept s₀ s) : CanonKept s₀ (dealTaken line addr q s) := by
  unfold dealTaken
  split
  · exact canon_giveCode h
  · exact canon_dealPage h
  · exact canon_carryResync h
  · exact canon_dealWatchAdd h
  · exact canon_dealWatchDrop h
  · exact canon_dealQuoteAsk h
  · exact canon_dealAlertSet h
  · exact canon_dealAlertClear h

end

/-! ### Answers and time limits (R145 to R148) -/

theorem canon_dropSlot (h : CanonKept s₀ s) : CanonKept s₀ (dropSlot line s) := canon_setTLine h

theorem canon_slotFailed (h : CanonKept s₀ s) : CanonKept s₀ (slotFailed line addr s) :=
  canon_ite (canon_goSilent (canon_count (canon_setTerm h id))) (canon_count (canon_setTerm h id))

theorem canon_slotAcked {tx : Transmission} (h : CanonKept s₀ s) : CanonKept s₀ (slotAcked line addr tx s) := by
  cases tx with
  | output ready b =>
    exact canon_count (canon_setTerm h fun ha =>
      alertsWf_delivered (t := { s.term (termNo line addr) with outBlock := none }) ha)
  | poll ready => exact canon_setTerm h id

theorem canon_terminalJoins (h : CanonKept s₀ s) : CanonKept s₀ (terminalJoins line addr s) :=
  canon_raise (canon_setTerm h id)

theorem canon_answerOutcome {x : TermSlot} {ack : Bool} (h : CanonKept s₀ s) :
    CanonKept s₀ (answerOutcome line x ack s) := by
  unfold answerOutcome
  split
  · exact canon_ite (canon_slotAcked h) (canon_slotFailed h)
  · exact canon_ite (canon_slotAcked h) (canon_slotFailed h)
  · exact canon_terminalJoins h
  · exact canon_terminalJoins h
  · exact h

theorem canon_carriedRequest {q : Option DealerRequest} (h : CanonKept s₀ s) :
    CanonKept s₀ (carriedRequest line addr q s) := by
  cases q with
  | none => exact h
  | some q => exact canon_ite (canon_dealTaken (canon_setTerm h alertsWf_takeRequest)) (canon_count h)

theorem canon_terminalAnswer {m : TerminalMessage} (h : CanonKept s₀ s) : CanonKept s₀ (terminalAnswer line m s) := by
  unfold terminalAnswer
  split
  · exact h
  · exact canon_ite (canon_endRoundIfDone (canon_ite (canon_dropSlot h)
      (canon_carriedRequest (canon_answerOutcome (canon_dropSlot h))))) h

theorem canon_slotTimeLimit (h : CanonKept s₀ s) : CanonKept s₀ (slotTimeLimit line s) := by
  unfold slotTimeLimit
  split
  · exact h
  · exact canon_endRoundIfDone (canon_ite (canon_dropSlot h)
      (canon_ite (canon_slotFailed (canon_dropSlot h)) (canon_dropSlot h)))

theorem canon_dealerAnswer {kind : DealerKind} {m : TerminalMessage} (h : CanonKept s₀ s) :
    CanonKept s₀ (dealerAnswer kind line m s) := canon_ite (canon_terminalAnswer h) h

/-! ### WINDOW-SET and REFER-ANSWER (R178, R184, R185) -/

theorem canon_windowSetRule {b : WindowBody} (h : CanonKept s₀ s) : CanonKept s₀ (windowSetRule b s).state :=
  canon_iteServed (canon_done (canon_setWindow h)) h

theorem canon_grantHeld {held : HeldSlot} (h : CanonKept s₀ s) : CanonKept s₀ (grantHeld held s) := by
  unfold grantHeld
  dsimp only
  split
  · exact canon_checkedWatchAdd h (canon_carryWatchAdd h)
  · exact canon_carryQuote h
  · exact canon_checkedAlertSet h (canon_carryAlertSet h)

theorem canon_referAnswerRule {b : Nat × Nat} (h : CanonKept s₀ s) : CanonKept s₀ (referAnswerRule b s).state := by
  refine canon_iteServed h ?_
  split
  · exact h
  · exact canon_ite (canon_grantHeld (canon_emptySlot h)) (canon_giveCode (canon_emptySlot h))

end Sys2Proof.Machine
end

section
/-! Proofs: the board lines, the load, the session, the tick, the ribbons, the job completions and a RESTART keep the canonical
form of the tables (R46 to R58, R71, R72, R88 to R116, R129 to R135, R204 to R210). -/

namespace Sys2Proof.Machine

variable {s₀ s : State} {c n line : Nat} {rid : RibbonId}

/-! ### Board lines (R94 to R109) -/

theorem canon_settleSlots {slots : List Nat} (h : CanonKept s₀ s) : CanonKept s₀ (settleSlots line slots s) :=
  canon_forEach h fun h => canon_setCell (canon_setSlot h)

theorem canon_frameStart (h : CanonKept s₀ s) : CanonKept s₀ (frameStart line s) := canon_setLine h

theorem canon_slotAnswered {it : FrameItem} (h : CanonKept s₀ s) : CanonKept s₀ (slotAnswered line it s) :=
  canon_ite (canon_setSlot h) (canon_offerCell (canon_raise (canon_setSlot h)))

theorem canon_slotLost {it : FrameItem} (h : CanonKept s₀ s) : CanonKept s₀ (slotLost line it s) :=
  canon_ite (canon_count (canon_raise (canon_setCell (canon_setSlot h)))) (canon_setCell (canon_setSlot h))

theorem canon_applyItem {f : Frame} {answers : List ModuleAnswer} {it : FrameItem} (h : CanonKept s₀ s) :
    CanonKept s₀ (applyItem line f answers it s) :=
  canon_ite (canon_ite (canon_slotAnswered h) (canon_slotLost h)) h

theorem canon_nextFrame (h : CanonKept s₀ s) : CanonKept s₀ (nextFrame line s) := canon_ite h (canon_frameStart h)

theorem canon_endFrame {f : Frame} {answers : List ModuleAnswer} (h : CanonKept s₀ s) :
    CanonKept s₀ (endFrame line f answers s) := by
  have applied : CanonKept s₀ (forEach f.items (applyItem line f answers) (dropFrame line s)) :=
    canon_forEach (canon_setLine h) canon_applyItem
  exact canon_nextFrame (canon_ite (canon_settleSlots applied) applied)

theorem canon_frameEnd {answers : List ModuleAnswer} (h : CanonKept s₀ s) : CanonKept s₀ (frameEnd n answers s) := by
  unfold frameEnd
  split
  · exact h
  · exact canon_ite (canon_endFrame h) h

theorem canon_sendItem {taken : Bool} (h : CanonKept s₀ s) : CanonKept s₀ (sendItem n taken s) := by
  unfold sendItem
  split
  · exact h
  · split
    · exact h
    · exact canon_ite (canon_setDisplay (canon_setLine h)) (canon_setLine h)

theorem canon_startDarkTimer (h : CanonKept s₀ s) : CanonKept s₀ (startDarkTimer line s) := canon_setLine h

theorem canon_darkExpire (h : CanonKept s₀ s) : CanonKept s₀ (darkExpire line s) := canon_setLine h

theorem canon_wakeLine (h : CanonKept s₀ s) : CanonKept s₀ (wakeLine line s) :=
  canon_forEach (canon_setLine h) canon_offerCell

theorem canon_wakeLines (h : CanonKept s₀ s) : CanonKept s₀ (wakeLines s) := by
  refine canon_forEach h fun {n s} h => ?_
  cases (s.line n).state with
  | dark => exact canon_wakeLine h
  | lit => exact canon_setLine h
  | off => exact h

theorem canon_tickDark (h : CanonKept s₀ s) : CanonKept s₀ (tickDark line s) := by
  unfold tickDark
  split
  · exact h
  · exact canon_ite (canon_darkExpire h) (canon_setLine h)

theorem canon_lineTo {x : LineState} (h : CanonKept s₀ s) : CanonKept s₀ (lineTo x n s) :=
  canon_ite (canon_frameStart (canon_setLine h)) (canon_setLine h)

theorem canon_lineOff (h : CanonKept s₀ s) : CanonKept s₀ (lineOff n s) := by
  unfold lineOff
  dsimp only
  split
  · exact canon_setLine h
  · exact canon_settleSlots (canon_setLine h)

theorem canon_applyTarget {t : LineTarget} (h : CanonKept s₀ s) : CanonKept s₀ (applyTarget t n s) := by
  cases t with
  | unchanged => exact h
  | lit => exact canon_lineTo h
  | dark => exact canon_lineTo h
  | off => exact canon_ite h (canon_lineOff h)

theorem canon_lineSetRule {b : LineBody} (h : CanonKept s₀ s) : CanonKept s₀ (lineSetRule b s).state := by
  refine canon_iteServed h ?_
  split
  · exact h
  · exact canon_iteServed h (canon_done (canon_applyTarget (canon_settleSlots (canon_setLine h))))

theorem canon_timerAfterWake (h : CanonKept s₀ s) : CanonKept s₀ (timerAfterWake n s) := canon_ite (canon_startDarkTimer h) h

theorem canon_lineWakeRule (h : CanonKept s₀ s) : CanonKept s₀ (lineWakeRule n s).state := by
  refine canon_iteServed h ?_
  split
  · exact h
  · exact canon_done (canon_timerAfterWake h)
  · exact canon_done (canon_timerAfterWake (canon_wakeLine h))

/-! ### The load (R74, R93, R204 to R206) -/

theorem canon_layoutBinding {i : Option Nat} (h : CanonKept s₀ s) : CanonKept s₀ (layoutBinding c i s) := by
  have left : CanonKept s₀ (leaveBound c s) := canon_leaveBound h
  refine canon_ite h ?_
  cases i with
  | none => exact canon_setCell left
  | some i => exact canon_ite (canon_setCell left) (canon_joinList (canon_setCell left))

theorem canon_endLoad {result : LoadResult} {cause : Option LoadCause} {failing : Option Nat} (h : CanonKept s₀ s) :
    CanonKept s₀ (endLoad result cause failing s) :=
  canon_raise (canon_forEach (canon_forEach (canon_setLoader h) fun h => canon_frameStart (canon_setLine h))
    canon_offerCell)

theorem canon_badLoad {cause : LoadCause} (h : CanonKept s₀ s) : CanonKept s₀ (badLoad cause s) := canon_endLoad h

theorem canon_nextRecord (h : CanonKept s₀ s) : CanonKept s₀ (nextRecord s) := canon_ite (canon_badLoad h) (canon_setLoader h)

theorem canon_judgeRecord {bytes : List Byte} (h : CanonKept s₀ s) : CanonKept s₀ (judgeRecord bytes s) := by
  refine canon_ite (canon_endLoad h) (canon_ite (canon_badLoad h) ?_)
  split
  · exact canon_badLoad h
  · exact canon_endLoad h
  · exact canon_nextRecord (canon_setLoader (canon_setLine h))
  · exact canon_nextRecord (canon_setLoader (canon_layoutBinding (canon_setCell h)))

theorem canon_recordRead {r : PromRead} (h : CanonKept s₀ s) : CanonKept s₀ (recordRead r s) := by
  refine canon_ite ?_ h
  cases r with
  | silent => exact canon_badLoad h
  | record bytes => exact canon_judgeRecord h

/-! ### Session transitions and the clock (R48 to R58) -/

theorem canon_offerBanner {left entered : SessionState} (h : CanonKept s₀ s) :
    CanonKept s₀ (offerBanner left entered s) := by
  unfold offerBanner
  split
  · exact canon_forEach h canon_offerPrint
  · exact h

theorem canon_ribbonsOnSession {left entered : SessionState} (h : CanonKept s₀ s) :
    CanonKept s₀ (ribbonsOnSession left entered s) :=
  canon_forEach (canon_offerBanner h) fun h => canon_ite (canon_startRibbon h) (canon_ite (canon_stopTest h) h)

theorem canon_boardsOnSession {entered : SessionState} (h : CanonKept s₀ s) :
    CanonKept s₀ (boardsOnSession entered s) := by
  cases entered with
  | after => exact canon_forEach h fun h => canon_ite (canon_startDarkTimer h) h
  | preOpen => exact canon_wakeLines h
  | closed | opened | haltedAll => exact h

theorem canon_makeTransition {tgt : SessionState} (h : CanonKept s₀ s) : CanonKept s₀ (makeTransition tgt s) := by
  have entered : CanonKept s₀ ((s.setSession
      { state := tgt, left := s.session.state, entered := tgt, second := s.clock.second }).raise .session) :=
    canon_raise (canon_setSession h)
  exact canon_oweStatus (canon_ribbonsOnSession (canon_boardsOnSession
    (canon_ite (canon_setWalk (canon_setDayNumber entered)) entered)))

theorem canon_sessionSetRule (h : CanonKept s₀ s) : CanonKept s₀ (sessionSetRule n s).state := by
  unfold sessionSetRule
  split
  · exact h
  · refine canon_iteServed h (canon_iteServed h (canon_iteServed h ?_))
    rw [sessionDone_state]
    exact canon_makeTransition h

theorem canon_setClockState {x : ClockState} (h : CanonKept s₀ s) : CanonKept s₀ (setClockState x s) :=
  canon_ite h (canon_raise (canon_setClock h))

theorem canon_timeSetRule {b : TimeBody} (h : CanonKept s₀ s) : CanonKept s₀ (timeSetRule b s).state :=
  canon_iteServed h (canon_done (canon_setClockState (canon_setClock h)))

theorem canon_schedSetRule {b : SchedBody} (h : CanonKept s₀ s) : CanonKept s₀ (schedSetRule b s).state := by
  unfold schedSetRule
  split
  · exact h
  · exact canon_done (canon_setSched h)

/-! ### The second tick (R47 to R54, R88) and the roll walk (R29) -/

theorem canon_flashExpire (h : CanonKept s₀ s) : CanonKept s₀ (flashExpire c s) := canon_offerCell (canon_setCell h)

theorem canon_tickFlashes (h : CanonKept s₀ s) : CanonKept s₀ (tickFlashes s) :=
  canon_forEach (canon_setFree (canon_forEach h fun h => canon_ite (canon_setCell h) h)) canon_flashExpire

theorem canon_tickCounts (h : CanonKept s₀ s) : CanonKept s₀ (tickCounts s) :=
  canon_forEach (canon_setFree (canon_forEach (canon_forEach (canon_forEach (canon_forEach (canon_tickFlashes h)
    canon_tickDark) canon_setRibbon) canon_tickQuiet) canon_tickLapse)) canon_tickReferral

theorem canon_applyEntry (h : CanonKept s₀ s) : CanonKept s₀ (applyEntry n s) := by
  have skipped : ∀ reason, CanonKept s₀ (skipEntry n reason s) := fun _ => canon_raise (canon_setSched h)
  exact canon_ite h (canon_ite (skipped _) (canon_ite (skipped _) (canon_makeTransition h)))

theorem canon_minuteTest (h : CanonKept s₀ s) : CanonKept s₀ (minuteTest s) :=
  canon_ite (canon_forEach h fun h => canon_settle (canon_applyEntry h)) h

theorem canon_secondTick (h : CanonKept s₀ s) : CanonKept s₀ (secondTick s) :=
  canon_minuteTest (canon_settle (canon_tickCounts (canon_setClock h)))

theorem canon_referencePresent (h : CanonKept s₀ s) : CanonKept s₀ (referencePresent s) :=
  canon_ite (canon_setClockState (canon_setClock h)) (canon_setClock h)

theorem canon_secondPulse (h : CanonKept s₀ s) : CanonKept s₀ (secondPulse s) := canon_referencePresent (canon_secondTick h)

theorem canon_referenceLost (h : CanonKept s₀ s) : CanonKept s₀ (referenceLost s) :=
  canon_ite (canon_setClockState (canon_setClock h)) (canon_setClock h)

theorem canon_watchExpiry (h : CanonKept s₀ s) : CanonKept s₀ (watchExpiry s) :=
  canon_ite h (canon_secondTick (canon_secondTick (canon_secondTick (canon_referenceLost h))))

theorem canon_referralExpiry (h : CanonKept s₀ s) : CanonKept s₀ (referralExpiry n s) := by
  unfold referralExpiry
  split
  · exact canon_ite (canon_expireHeld h) h
  · exact h

theorem canon_walkVisit (h : CanonKept s₀ s) : CanonKept s₀ (walkVisit s) :=
  canon_ite (canon_ite (canon_setWalk (canon_touch h)) (canon_setFree (canon_setWalk (canon_touch h)))) h

/-! ### Ribbons (R113 to R116, R132) -/

theorem canon_ribbonOff (h : CanonKept s₀ s) : CanonKept s₀ (ribbonOff rid s) :=
  canon_ite (canon_setFU (canon_setRibbon h)) (canon_raise (canon_setFU (canon_setRibbon h)))

theorem canon_ribbonOn (h : CanonKept s₀ s) : CanonKept s₀ (ribbonOn rid s) := by
  refine canon_ite h ?_
  split
  · exact canon_startRibbon h
  · exact canon_setRibbon h

theorem canon_applyEnable {e : RibbonEnable} (h : CanonKept s₀ s) : CanonKept s₀ (applyEnable e rid s) := by
  cases e with
  | unchanged => exact h
  | on => exact canon_ribbonOn h
  | off => exact canon_ite h (canon_ribbonOff h)

theorem canon_ribbonSetRule {b : RibbonBody} (h : CanonKept s₀ s) : CanonKept s₀ (ribbonSetRule b s).state := by
  unfold ribbonSetRule
  split
  · exact canon_iteServed (canon_done (canon_applyEnable (canon_setRibbon h))) h
  · exact h

theorem canon_characterPeriod (h : CanonKept s₀ s) : CanonKept s₀ (characterPeriod rid s) :=
  canon_ite (canon_ite (canon_periodStart h) (canon_stopTest (canon_periodStart h))) (canon_setRibbon h)

/-! ### The Format Unit's commands (R67 to R71, R90, R98, R129) -/

theorem canon_formatSetRule (h : CanonKept s₀ s) : CanonKept s₀ (formatSetRule n s).state :=
  canon_iteServed h (canon_done (canon_setFU h))

theorem canon_dropJob (h : CanonKept s₀ s) : CanonKept s₀ (dropJob s) := canon_setFU h

theorem canon_offerText {slot : Nat} {t : BoardText} {full : Bool} (h : CanonKept s₀ s) :
    CanonKept s₀ (offerText line slot t full s) := canon_ite (canon_count h) (canon_ite h (canon_setSlot h))

theorem canon_completeBoard (h : CanonKept s₀ s) : CanonKept s₀ (completeBoard s) := by
  unfold completeBoard
  split
  · exact canon_arbitrate (canon_count (canon_offerText (canon_dropJob h)))
  · exact h

theorem canon_completeRibbon (h : CanonKept s₀ s) : CanonKept s₀ (completeRibbon s) := by
  unfold completeRibbon
  split
  · exact canon_arbitrate (canon_ite (canon_stopTest (canon_dropJob h))
      (canon_stopTest (canon_count (canon_setRibbon (canon_dropJob h)))))
  · exact h

theorem canon_deliverTerminal {addr : Nat} {b : Block} {fate : JobFate} (h : CanonKept s₀ s) :
    CanonKept s₀ (deliverTerminal line addr b fate s) := by
  cases fate with
  | kept => exact canon_ite (canon_startRoundIfIdle (canon_setTerm h id)) (canon_setTerm h id)
  | silenced => exact canon_setTerm h alertsWf_discard
  | retired => exact h

theorem canon_completeTerminal (h : CanonKept s₀ s) : CanonKept s₀ (completeTerminal s) := by
  unfold completeTerminal
  split
  · exact canon_arbitrate (canon_deliverTerminal (canon_dropJob h))
  · exact h

/-! ### RESTART (R209) -/

theorem canon_restartCells (h : CanonKept s₀ s) : CanonKept s₀ (restartCells s) := by
  have restarted := canon_forEach (l := Table.keys s.cells) (f := fun c s => s.setCell c (s.cell c).restarted) h canon_setCell
  have emptied := canon_forEach (l := lineNos) (f := fun n s => s.setQueue n []) restarted canon_setQueue
  exact canon_forEach emptied fun h => canon_forEach h canon_offerCell

theorem canon_restartLine (h : CanonKept s₀ s) : CanonKept s₀ (restartLine n s) :=
  canon_nextFrame (canon_forEach (canon_setLine h) canon_setSlot)

theorem canon_restartRibbon (h : CanonKept s₀ s) : CanonKept s₀ (restartRibbon rid s) := by
  refine canon_ite (canon_setRibbon h) ?_
  split
  · exact canon_startRibbon (canon_setRibbon h)
  · exact canon_setRibbon (canon_setRibbon h)

theorem canon_restartTerminals (h : CanonKept s₀ s) : CanonKept s₀ (restartTerminals s) :=
  canon_forEach (canon_forEach h fun h => canon_setTerm h alertsWf_restarted) fun h =>
    canon_startRoundIfIdle (canon_setTLine h)

theorem canon_restartWindows (h : CanonKept s₀ s) : CanonKept s₀ (restartWindows s) := canon_forEach h canon_setWindow

theorem canon_restartRule {u : Unit} (h : CanonKept s₀ s) : CanonKept s₀ (restartRule u s).state :=
  canon_setLink (canon_restartWindows (canon_restartTerminals (canon_forEach (canon_forEach (canon_restartCells
    (canon_setFU h)) canon_restartLine) canon_restartRibbon)))

end Sys2Proof.Machine
end

section
/-! Proofs: every command answers a next state, with the waiting commands left alone and the canonical form of the tables kept;
and so does every step (section 0.2; log entries 1, 2 and 30). -/

namespace Sys2Proof.Machine

section
variable {s₀ s : State}

/-! ### The Link Interface (R193 to R201) -/

theorem canon_takeRequest {r : LinkFrame} (h : CanonKept s₀ s) : CanonKept s₀ (takeRequest r s) :=
  canon_ite (canon_setLink h) (canon_ite (canon_count (canon_setLink h)) (canon_count h))

theorem canon_receiveByte {b : Byte} (h : CanonKept s₀ s) : CanonKept s₀ (receiveByte b s) := by
  have asm : ∀ a, CanonKept s₀ (setAsm a s) := fun _ => canon_setLink h
  have bad : CanonKept s₀ (badFrame (setAsm .hunt s)) := canon_count (asm _)
  unfold receiveByte
  split
  · exact canon_ite (asm _) h
  · exact canon_ite (asm _) (asm _)
  · exact canon_ite bad (asm _)
  · exact asm _
  · exact asm _
  · exact asm _
  · exact asm _
  · exact canon_ite (canon_takeRequest (asm _)) bad

theorem canon_frameTimeout (h : CanonKept s₀ s) : CanonKept s₀ (frameTimeout s) := canon_ite (canon_count (canon_setLink h)) h

theorem canon_sendReply (h : CanonKept s₀ s) : CanonKept s₀ (sendReply s) := by
  unfold sendReply
  split
  · exact h
  · exact canon_setLink h

/-- R105, R155: a notice of a module or of a terminal clears a flag in that one's record. -/
theorem canon_clearChanged {n : NoticeItem} (h : CanonKept s₀ s) : CanonKept s₀ (clearChanged n s) := by
  cases n with
  | boardModule line slot => exact canon_setSlot h
  | terminal line addr => exact canon_setTerm h id
  | referral | ribbon | session | scheduleSkip | clock | layout => exact h

theorem canon_sendNotice (h : CanonKept s₀ s) : CanonKept s₀ (sendNotice s) := by
  unfold sendNotice
  split
  · exact h
  · exact canon_clearChanged (canon_setLink h)

theorem canon_frameSent (h : CanonKept s₀ s) : CanonKept s₀ (frameSent s) := by
  unfold frameSent
  split
  · exact h
  · exact canon_ite (canon_sendNotice (canon_setLink h)) (canon_sendReply (canon_setLink h))

/-! ### The service of a request (R197, R198) -/

theorem canon_endService {r : LinkFrame} {x : Served} (h : CanonKept s₀ x.state) : CanonKept s₀ (endService r x) := by
  unfold endService
  dsimp only
  split
  · exact canon_setLink (canon_setLink h)
  · exact canon_count (canon_setLink (canon_setLink h))

theorem canon_serveHead {takes : LinkFrame → Bool} {rule : List Byte → State → Served} (h : CanonKept s₀ s)
    (hr : ∀ {body u}, CanonKept s₀ u → CanonKept s₀ (rule body u).state) : CanonKept s₀ (serveHead takes rule s) := by
  unfold serveHead
  split
  · exact h
  · exact canon_ite (canon_endService (hr (canon_setLink h))) h

theorem canon_serve {α : Type} {kind : HostKind} {read : List Byte → Option α} {rule : α → State → Served}
    (h : CanonKept s₀ s) (hr : ∀ {x u}, CanonKept s₀ u → CanonKept s₀ (rule x u).state) :
    CanonKept s₀ (serve kind read rule s) := by
  refine canon_serveHead h fun h => ?_
  unfold shaped
  split
  · exact h
  · exact hr h

/-! ### RESET (R207) -/

/-- R207: the cold state keeps the waiting commands and what the modules show; its other tables are empty. -/
theorem canon_coldState {asserted : Bool} : CanonKept s (coldState asserted s) :=
  ⟨rfl, fun g => ⟨rfl, rfl, rfl, rfl, rfl, rfl, g.displays, rfl, rfl, rfl, rfl, fun _ => rfl⟩⟩

end

/-! ### Every command -/

/-- A command's answer in a state is a next state that keeps the waiting commands and the form of the tables. -/
def AnswersKept (s : State) (o : Host.Outcome State Fault Refusal) : Prop := ∃ t, o = .next t ∧ CanonKept s t

section
variable {s : State} {f : State → State}

theorem answers_act (h : CanonKept s (f s)) : AnswersKept s (act f s) := by
  cases hr : s.resetAsserted with
  | true => exact ⟨s, act_of_asserted hr f, .refl⟩
  | false => exact ⟨_, act_of_released hr f, canon_finish h⟩

theorem answers_actUndecided (h : CanonKept s (f s)) : AnswersKept s (actUndecided f s) := by
  cases hr : s.resetAsserted with
  | true => exact ⟨s, actUndecided_of_asserted hr f, .refl⟩
  | false => exact ⟨_, actUndecided_of_released hr f, canon_noteTogether h⟩

end

section
variable {s : State} {α : Type} {kind : HostKind} {read : List Byte → Option α} {rule : α → State → Served}

/-- A host request's command, by what its rule keeps. -/
theorem answers_serve (hr : ∀ {x u}, CanonKept s u → CanonKept s (rule x u).state) :
    AnswersKept s (act (serve kind read rule) s) := answers_act (canon_serve .refl hr)

/-- A query's command at which there is no decision: its rule changes nothing, or is that of RESTART. -/
theorem answers_serveUndecided (hr : ∀ {x u}, CanonKept s u → CanonKept s (rule x u).state) :
    AnswersKept s (actUndecided (serve kind read rule) s) := answers_actUndecided (canon_serve .refl hr)

end

theorem exec_answersKept (c : Instr) (s : State) : AnswersKept s (exec c s) := by
  have r : CanonKept s s := .refl
  cases c with
  | resetAssert => exact ⟨_, rfl, canon_coldState⟩
  | resetRelease =>
    change AnswersKept s (if s.resetAsserted then .next (coldState false s) else .next s)
    split_ifs
    · exact ⟨_, rfl, canon_coldState⟩
    · exact ⟨_, rfl, r⟩
  | layoutRecordRead => exact answers_act (canon_recordRead r)
  | receiveFrame => exact answers_act (canon_forEach r canon_receiveByte)
  | frameTimeout => exact answers_act (canon_frameTimeout r)
  | transmitReply => exact answers_act (canon_ite (canon_sendReply r) r)
  | transmitNotice => exact answers_act (canon_ite (canon_sendNotice r) r)
  | frameSent => exact answers_act (canon_frameSent r)
  | list => exact answers_serve canon_listRule
  | delist => exact answers_serve canon_delistRule
  | trade => exact answers_serve canon_tradeRule
  | quote => exact answers_serve canon_quoteRule
  | closeSet => exact answers_serve canon_closeSetRule
  | halt => exact answers_serve canon_haltRule
  | resume => exact answers_serve canon_resumeRule
  | rollWalkVisit => exact answers_act (canon_walkVisit r)
  | sessionSet => exact answers_serve canon_sessionSetRule
  | timeSet => exact answers_serve canon_timeSetRule
  | schedSet => exact answers_serve canon_schedSetRule
  | secondPulse => exact answers_act (canon_secondPulse r)
  | referenceWatchExpiry => exact answers_act (canon_watchExpiry r)
  | internalSecond => exact answers_act (canon_ite r (canon_secondTick r))
  | formatSet => exact answers_serve canon_formatSetRule
  | boardJobCompletion => exact answers_act (canon_completeBoard r)
  | ribbonJobCompletion => exact answers_act (canon_completeRibbon r)
  | terminalJobCompletion => exact answers_act (canon_completeTerminal r)
  | bind => exact answers_serve canon_bindRule
  | unbind => exact answers_serve canon_unbindRule
  | hold => exact answers_serve canon_holdRule
  | release => exact answers_serve canon_releaseRule
  | boardSet => exact answers_serve canon_boardSetRule
  | flashExpiry => exact answers_act (canon_ite (canon_flashExpire r) r)
  | lineSet => exact answers_serve canon_lineSetRule
  | lineWake => exact answers_serve canon_lineWakeRule
  | frameEnd => exact answers_act (canon_frameEnd r)
  | frameItemSend => exact answers_act (canon_sendItem r)
  | darkExpiry => exact answers_act (canon_ite (canon_darkExpire r) r)
  | ribbonSet => exact answers_serve canon_ribbonSetRule
  | characterPeriod => exact answers_act (canon_characterPeriod r)
  | termAdmit => exact answers_serve canon_termAdmitRule
  | termRetire => exact answers_serve canon_termRetireRule
  | tlineSet => exact answers_serve canon_tlineSetRule
  | roundStart => exact answers_act (canon_roundStart r)
  | slotStart => exact answers_act (canon_slotStart r)
  | terminalAnswer => exact answers_act (canon_terminalAnswer r)
  | slotTimeLimit => exact answers_act (canon_slotTimeLimit r)
  | attention => exact answers_act (canon_raiseAttention r)
  | quietIntervalExpiry => exact answers_act (canon_ite (canon_tickQuiet r) r)
  | terminalLapse => exact answers_act (canon_ite (canon_tickLapse r) r)
  | page | resync | watchAdd | watchDrop | quoteAsk | alertSet | alertClear => exact answers_act (canon_dealerAnswer r)
  | windowSet => exact answers_serve canon_windowSetRule
  | referAnswer => exact answers_serve canon_referAnswerRule
  | referralExpiry => exact answers_act (canon_referralExpiry r)
  | askStatus => exact answers_serveUndecided fun h => canon_iteServed h h
  | askInstrument => exact answers_serve fun h => canon_iteServed h (canon_touch h)
  | askCell => exact answers_serveUndecided fun h => canon_iteServed h h
  | askTerminal => exact answers_serveUndecided fun h => canon_iteServed h h
  | askRibbon =>
    refine answers_serveUndecided fun h => ?_
    unfold askRibbonRule
    split <;> exact h
  | askCounters => exact answers_serveUndecided fun h => h
  | clearCounters => exact answers_serve canon_clearCounters
  | restart => exact answers_serveUndecided canon_restartRule
  | firstSyncByte => exact answers_act (canon_ite (canon_receiveByte r) r)
  | secondSyncMissing => exact answers_act (canon_ite (canon_receiveByte r) r)
  | unknownRequestKind => exact answers_act (canon_serveHead r id)

/-! ### The obligations -/

/-- A step takes the command at the front of the queue. -/
theorem step_of_front {s : State} {c : Instr} {rest : List Instr} (h : s.pending = c :: rest) :
    step s = exec c { s with pending := rest } := by
  unfold step
  rw [h]

/-- With no command waiting the block idles. -/
theorem step_of_empty {s : State} (h : s.pending = []) : step s = .next s := by
  unfold step
  rw [h]

/-- Settles O1: the two cases of the queue. -/
theorem stepTakesTheFrontCommand : Obligations.StepTakesTheFrontCommand :=
  ⟨fun _ => step_of_empty, fun _ _ _ => step_of_front⟩

/-- Settles O2: every command's answer is a next state with the same commands waiting (`exec_answersKept`). -/
theorem everyCommandAnswersANextState : Obligations.EveryCommandAnswersANextState := fun c s => by
  obtain ⟨t, ht, kept⟩ := exec_answersKept c s
  exact ⟨t, ht, kept.pending⟩

/-- Settles O7: the command at the front leaves the tables in their form (`exec_answersKept`), and taking it off the queue
touches none. -/
theorem tablesKeptCanonical : Obligations.TablesKeptCanonical := by
  intro s t canonical hstep
  cases hp : s.pending with
  | nil =>
    rw [step_of_empty hp] at hstep
    cases hstep
    exact canonical
  | cons c rest =>
    rw [step_of_front hp] at hstep
    obtain ⟨u, hu, kept⟩ := exec_answersKept c { s with pending := rest }
    obtain rfl : u = t := by
      rw [hu] at hstep
      cases hstep
      rfl
    exact u.tablesWf_iff.2 (kept.tables ((State.tablesWf_iff { s with pending := rest }).1 canonical))

end Sys2Proof.Machine
end
